-- ==== Sys2Proof/Word.lean ====
section
/-! DEFINITION. The word types of the Tirtus 880 and small keyed lists.
Addresses and register contents are bit vectors; keys of sparse collections are plain naturals. -/
namespace Sys2Proof

/-- One byte of memory. -/
abbrev Byte := BitVec 8
/-- A 32-bit tile element or warp register (R42, R45). -/
abbrev Word32 := BitVec 32
/-- A 64-bit address, s register, x register or instruction word (R309). -/
abbrev Word64 := BitVec 64

/-- A sparse collection: key and value pairs in rising key order, a missing key reading as a default. -/
abbrev Assoc (α : Type) := List (Nat × α)

/-- The value listed under a key. -/
def Assoc.find {α : Type} : Assoc α → Nat → Option α
  | [], _ => none
  | (k, v) :: t, n => if k = n then some v else Assoc.find t n

/-- The value under a key, or the default. -/
def Assoc.getD {α : Type} (m : Assoc α) (n : Nat) (d : α) : α := (m.find n).getD d

/-- Put a value under a key, keeping rising key order. -/
def Assoc.put {α : Type} : Assoc α → Nat → α → Assoc α
  | [], n, x => [(n, x)]
  | (k, v) :: t, n, x =>
    if n < k then (n, x) :: (k, v) :: t
    else if n = k then (n, x) :: t
    else (k, v) :: Assoc.put t n x

/-- Remove a key. -/
def Assoc.del {α : Type} : Assoc α → Nat → Assoc α
  | [], _ => []
  | (k, v) :: t, n => if k = n then Assoc.del t n else (k, v) :: Assoc.del t n

/-- Change every value, by key. -/
def mapVals {α : Type} (m : Assoc α) (f : Nat → α → α) : Assoc α := m.map fun e => (e.1, f e.1 e.2)

/-- Insert into a list ordered by a test. -/
def insertBy {α : Type} (le : α → α → Bool) (x : α) : List α → List α
  | [] => [x]
  | y :: t => if le x y then x :: y :: t else y :: insertBy le x t

/-- Sort by a test, equal elements in the order they stand. -/
def sortBy {α : Type} (le : α → α → Bool) : List α → List α
  | [] => []
  | x :: t => insertBy le x (sortBy le t)

/-- Keys strictly rise. -/
def Assoc.sorted {α : Type} (m : Assoc α) : Bool := (m.map Prod.fst).Pairwise (· < ·)

end Sys2Proof
end

