-- ==== Sys2Proof/Config.lean ====
section
/-! DEFINITION. What the spec leaves to the implementation or to outside standards, as constants without a body: no proof can see a value of them. -/
namespace Sys2Proof

/-- A free 64-bit value; drawn by number (log entry 1). -/
opaque Config.freeWord : Nat → Word64
/-- A free bit; drawn by number (log entry 1). -/
opaque Config.freeBool : Nat → Bool
/-- A free choice between the old and the new value of one element of a read that comes too early (R202, R322); by draw and element (log entry 1). -/
opaque Config.freeNew : Nat → Nat → Bool
/-- A latency the spec does not fix, in cycles beyond the least one; drawn by number (log entry 4). -/
opaque Config.delay : Nat → Nat
/-- SHA-512 (R240, R457, R459), a standard outside the spec (log entry 6). -/
opaque Config.sha512 : List Byte → BitVec 512
/-- Does the ECDSA P-521 signature at the end of a boot image verify against the root key of the mask ROM (R457)? (log entry 6) -/
opaque Config.imageSigned : List Byte → Bool
/-- The identity key's signature of a report (R459, R463) (log entry 6). -/
opaque Config.identitySign : List Byte → List Byte
/-- The pair of 256-bit keys that a KEYLOAD request's wrapped key unwraps to (R459) (log entry 6). -/
opaque Config.keyPair : List Byte → BitVec 512
/-- What a 64-byte sector encrypts to under a key pair with its physical address as tweak: AES-XTS (R162), a standard outside the spec (log entry 6). -/
opaque Config.xtsEncrypt : BitVec 512 → Nat → List Byte → List Byte
/-- What it decrypts to (R162) (log entry 6). -/
opaque Config.xtsDecrypt : BitVec 512 → Nat → List Byte → List Byte
/-- Directory entries of a home slice beyond the one it has at least (R135); the spec gives no number (log entry 6). -/
opaque Config.directoryMore : Nat
/-- Does a KEYLOAD request's wrapped key unwrap (R459)? (log entry 6) -/
opaque Config.keyUnwraps : List Byte → Bool
/-- Cycles until a write, numbered by its draw and place, is performed for the agents of a path on a core (R103; log entry 5). -/
opaque Config.spread : Nat → Nat → Nat → Nat
/-- The capacity in GiB a CXL port's expander reports at link training, none when it does not train as type 3 (R10, R455) (log entry 3). -/
opaque Config.cxlCapacity : Nat → Option Nat
/-- The hash that gives a line its L2 slice and its bridge module (R61, R139), which the spec does not state (log entry 4). -/
opaque Config.lineHash : Nat → Nat
/-- Is a package of the given number in the pod (R28)? The spec does not say how packages join a pod (log entry 6). -/
opaque Config.inPod : Nat → Bool
/-- Is the part an 880M module (R1, R462)? (log entry 6) -/
opaque Config.is880M : Bool

/-- The capacity every HBM stack reports, in GiB (R10). -/
def Config.stackGiB : Nat := 59
/-- Package cores (R14). -/
def Config.cores : Nat := 192
/-- Warp slots of a core (R15). -/
def Config.slots : Nat := 48

end Sys2Proof
end

