-- ==== Sys2Proof/Syntax.lean ====
section
/-! DEFINITION. The instruction words and device steps of the Tirtus 880 as data: the five word formats (R313), the operands of the steps of the other agents, and `Instr`. -/
namespace Sys2Proof

/-- A NOP word below its opcode (R310). -/
structure NopF where
  g : BitVec 4
  body : BitVec 50
  deriving DecidableEq, Repr

/-- Format RR below the opcode (R313). -/
structure RR where
  g : BitVec 4
  dst : BitVec 8
  sa : BitVec 8
  sb : BitVec 8
  sc : BitVec 8
  ty : BitVec 5
  md : BitVec 7
  sbd : BitVec 3
  us : BitVec 3
  deriving DecidableEq, Repr

/-- Format RI below the opcode (R313). -/
structure RI where
  g : BitVec 4
  dst : BitVec 8
  sa : BitVec 8
  imm : BitVec 32
  us : BitVec 2
  deriving DecidableEq, Repr

/-- Format MEM below the opcode (R313). -/
structure MEM where
  g : BitVec 4
  data : BitVec 8
  base : BitVec 8
  off : BitVec 20
  sp : BitVec 3
  sz : BitVec 3
  ord : BitVec 2
  scope : BitVec 3
  sbd : BitVec 3
  deriving DecidableEq, Repr

/-- Format BR below the opcode (R313). -/
structure BR where
  g : BitVec 4
  tgt : BitVec 32
  md : BitVec 18
  deriving DecidableEq, Repr

/-- Format TILE below the opcode (R313). -/
structure TILE where
  g : BitVec 4
  dt : BitVec 8
  ta : BitVec 8
  tb : BitVec 8
  tc : BitVec 8
  ty : BitVec 5
  ax : BitVec 1
  md : BitVec 8
  hd : BitVec 4
  deriving DecidableEq, Repr

/-- Power state of a register bank (R53). -/
inductive BankState where
  | on
  | retention
  | gated
  deriving DecidableEq, Repr

/-- Which fields of the queue table entry the driver writes (R208). -/
inductive QueueField where
  | ringbase
  | ringsize
  | ctx
  | cls
  | state
  deriving DecidableEq, Repr

/-- The registers the driver writes through the control link that have no request behaviour of their own. -/
inductive CtlReg where
  /-- CTX.TRAPH (R267). -/
  | traph (ctx : Nat)
  /-- WDOG.DEF (R277). -/
  | wdogDef (ctx : Nat)
  /-- Base of the fault queue (R38). -/
  | fqBase (ctx : Nat)
  /-- Size of the fault queue (R38). -/
  | fqSize (ctx : Nat)
  /-- FQ.HEAD (R38). -/
  | fqHead (ctx : Nat)
  /-- FQ.STAT (R39): OVF is write one to clear. -/
  | fqStat (ctx : Nat)
  /-- Base of the diagnostic ring (R281). -/
  | diagBase (ctx : Nat)
  /-- Size of the diagnostic ring (R281). -/
  | diagSize (ctx : Nat)
  /-- DIAG.HEAD (R281). -/
  | diagHead (ctx : Nat)
  /-- CARAFE.BASE (R235). -/
  | carafeBase (ctx : Nat)
  /-- CARAFE.COUNT (R235). -/
  | carafeCount (ctx : Nat)
  /-- Base of a die's memory error log (R169). -/
  | melBase (die : Nat)
  /-- Size of a die's memory error log (R169). -/
  | melSize (die : Nat)
  /-- MEL.HEAD (R169). -/
  | melHead (die : Nat)
  /-- FRZ.CTL but for NOW (R284). -/
  | frzCtl
  /-- PWR.LIMIT (R462). -/
  | pwrLimit
  /-- HOSTWIN.BASE (R456). -/
  | hostwinBase
  /-- HOSTWIN.STAT (R456): ERR is write one to clear. -/
  | hostwinStat
  /-- The DRIP register of a unit (R171). -/
  | drip (uclass uindex : Nat)
  /-- A field of the queue table (R208). -/
  | queue (q : Nat) (f : QueueField)
  /-- The context a task queue is bound to (R232). -/
  | taskBind (q : Nat)
  /-- The package's exports to a peer job (R28): start of a range for a context; the value gives its length. -/
  | exportRange (ctx : Nat) (base : Nat)
  /-- Any other control register, by its number. -/
  | other (n : Nat)
  deriving DecidableEq, Repr

/-- The MIG request (R157). -/
structure MigReq where
  old : Nat
  new : Nat
  size : Nat
  ctx : Nat
  reserved : Nat
  seq : BitVec 32
  deriving DecidableEq, Repr

/-- What the media give the controller of one 64-byte sector (R161-R163). -/
structure SectorReport where
  /-- The 8-bit symbols of data and check bits that are wrong (R161). -/
  symbols : List Nat := []
  /-- The HBM bank of its die that holds it (R170). -/
  bank : Nat := 0
  /-- The banks of its die in which on-die ECC has corrected it (R161). -/
  onDie : List Nat := []
  /-- The CXL.mem poison indication (R161). -/
  cxl : Bool := false
  /-- The tag that comes with it is not the one that was stored (R162). -/
  tagBad : Bool := false
  deriving DecidableEq, Repr

/-- A message of the bridge (R142). `die` is the die it arrives at. -/
structure BridgeMsg where
  die : Nat
  status : BitVec 8
  txid : BitVec 16
  dirty : Bool
  stale : Bool
  tagUnv : Bool
  spois : BitVec 8
  paddr : BitVec 64
  opa : BitVec 128
  opb : BitVec 128
  opx : BitVec 96
  data : List Byte
  deriving DecidableEq, Repr

/-- The operation a peer asks for (R28). -/
inductive PeerOp where
  | read (len : Nat)
  /-- The data, and the offsets of its bytes that lie in poisoned sectors (R165). -/
  | write (bytes : List Byte) (poisoned : List Nat)
  | atomic (atop : Nat) (bytes : List Byte) (cmp : List Byte)
  deriving DecidableEq, Repr

/-- A request from another package (R28). -/
structure PeerReq where
  id : Nat
  src : Nat
  ctx : Nat
  key : Nat
  paddr : Nat
  op : PeerOp
  deriving DecidableEq, Repr

/-- How a peer answers (R28). -/
inductive PeerAnswer where
  /-- The data, and the offsets of its bytes that lie in poisoned sectors (R165). -/
  | data (bytes : List Byte) (poisoned : List Nat)
  | denied
  | unreachable
  deriving DecidableEq, Repr

/-- A peer's answer to a request of this package (R28). -/
structure PeerResp where
  id : Nat
  answer : PeerAnswer
  deriving DecidableEq, Repr

/-- A command record (R210), with its queue; `graph` names the graph it stands in, if any. -/
structure Cmd where
  q : Nat
  graph : Option Nat
  flags : Byte
  rsv1 : BitVec 48
  a : Word64
  b : Word64
  c : Word64
  rsv2 : BitVec 256
  deriving DecidableEq, Repr

/-- A unit of work by its number in State (R176, R177). -/
inductive UnitRef where
  | launch (id : Nat)
  | graph (id : Nat)
  | phase (id : Nat)
  | job (ctx : Nat)
  deriving DecidableEq, Repr

/-- Who asks the ring hardware (R81). -/
inductive RingWho where
  | warp (core slot : Nat)
  | engine (e : Nat)
  deriving DecidableEq, Repr

/-- A request to a slot ring's atomic unit (R81): the context, the descriptor's address and, for a post, the position. -/
structure RingReq where
  ctx : Nat
  desc : Word64
  who : RingWho
  pos : Word64
  deriving DecidableEq, Repr

/-- The parameters all members must agree on (R242). -/
structure CollParams where
  op : Nat
  fmt : Nat
  rop : Nat
  count : Nat
  root : Nat
  deriving DecidableEq, Repr

/-- The outcome of a GO (R249): RUN, CANCEL or a failure status of R245. -/
inductive GoOutcome where
  | run
  | cancel
  | fail (status : Nat)
  deriving DecidableEq, Repr

/-- The reply to a CANCEL (R249). -/
inductive CancelAnswer where
  | honoured
  | tooLate
  | badDomain
  deriving DecidableEq, Repr

/-- A collation message (R249) of a local context's domain. `bad` is the status of a failed presence (R250), 0 for a valid one. -/
structure CollMsg where
  ctx : Nat
  domid : Nat
  rank : Nat
  term : BitVec 16
  digest : Word64
  key : Word64
  cn : BitVec 48
  range : Nat
  params : CollParams
  bad : Nat
  present : Bool
  outcome : GoOutcome
  answer : CancelAnswer
  deriving DecidableEq, Repr

/-- The input of one member to a data phase (R244), with the numbers of its poisoned elements. -/
structure CollInput where
  bytes : List Byte
  poisoned : List Nat
  deriving DecidableEq, Repr

/-- The slots of a bundle, in the order R268 numbers them (R324). -/
inductive Slot where
  | b
  | s
  | v0
  | v1
  | m
  | c0
  | c1
  deriving DecidableEq, Repr


/-- The operands of a device step or of an input from outside: the fields a step's row uses, the others at their defaults. -/
structure Arg where
  /-- A die (R6). -/
  die : Nat := 0
  /-- A core 0-191 (R14). -/
  core : Nat := 0
  /-- A warp slot 0-47 (R15). -/
  slot : Nat := 0
  /-- A context 0-63 (R17). -/
  ctx : Nat := 0
  /-- A domain 0-4,095 (R240). -/
  dom : Nat := 0
  /-- The number of the queue, launch, block, tile, engine, port, bank, module or record the step is about. -/
  id : Nat := 0
  /-- An address, page number, offset or position. -/
  addr : Nat := 0
  /-- A length or count. -/
  len : Nat := 0
  /-- A value written. -/
  value : Word64 := 0
  /-- A sequence number. -/
  seq : Word64 := 0
  /-- A choice the row names: a cold reset, a write access. -/
  flag : Bool := false
  /-- The rank that answers, if one does. -/
  rank : Option Nat := none
  /-- Bytes handed over: an image, a descriptor, a flit, data. -/
  bytes : List Byte := []
  /-- The bits of a retirement register. -/
  bits : BitVec 192 := 0
  /-- The control register written. -/
  reg : CtlReg := .other 0
  /-- The target state of a bank. -/
  bank : BankState := .on
  /-- The MIG request. -/
  mig : MigReq := ⟨0, 0, 0, 0, 0, 0⟩
  /-- What the media give of a line's first sector; for ATM and ATMR, an error in the result (R155). -/
  ecc0 : SectorReport := {}
  /-- What they give of its second sector. -/
  ecc1 : SectorReport := {}
  /-- A bridge message. -/
  msg : BridgeMsg := ⟨0, 0, 0, false, false, false, 0, 0, 0, 0, 0, []⟩
  /-- A command record. -/
  cmd : Cmd := ⟨0, none, 0, 0, 0, 0, 0, 0⟩
  /-- A peer's request. -/
  preq : PeerReq := ⟨0, 0, 0, 0, 0, .read 0⟩
  /-- A peer's answer. -/
  presp : PeerResp := ⟨0, .denied⟩
  /-- A unit of work. -/
  unit : UnitRef := .job 0
  /-- A ring request. -/
  ring : RingReq := ⟨0, 0, .engine 0, 0⟩
  /-- A collation message. -/
  coll : CollMsg := ⟨0, 0, 0, 0, 0, 0, 0, 0, ⟨0, 0, 0, 0, 0⟩, 0, false, .run, .honoured⟩
  /-- The members' inputs to a data phase. -/
  inputs : List CollInput := []
  deriving DecidableEq, Repr

/-- No operands. -/
def Arg.empty : Arg := { }


/-- One constructor per row of spec/opcode_table.json: the instruction words with their fields (R313, R328), then the steps of the other agents, whose operands stand in State as an `Arg`. -/
inductive Instr where
  /-- NOP (R310). -/
  | nop (f : NopF)
  /-- IADD (R340). -/
  | iadd (f : RR)
  /-- ISUB (R340). -/
  | isub (f : RR)
  /-- IMUL (R340). -/
  | imul (f : RR)
  /-- IMULH (R340). -/
  | imulh (f : RR)
  /-- IMAD (R340). -/
  | imad (f : RR)
  /-- IMIN (R340). -/
  | imin (f : RR)
  /-- IMAX (R340). -/
  | imax (f : RR)
  /-- IABS (R340). -/
  | iabs (f : RR)
  /-- AND (R340). -/
  | and (f : RR)
  /-- OR (R340). -/
  | or (f : RR)
  /-- XOR (R340). -/
  | xor (f : RR)
  /-- NOT (R340). -/
  | not (f : RR)
  /-- SHL (R340). -/
  | shl (f : RR)
  /-- SHR (R340). -/
  | shr (f : RR)
  /-- SHA (R340). -/
  | sha (f : RR)
  /-- ROT (R340). -/
  | rot (f : RR)
  /-- POPC (R340). -/
  | popc (f : RR)
  /-- CLZ (R340). -/
  | clz (f : RR)
  /-- CTZ (R340). -/
  | ctz (f : RR)
  /-- BREV (R340). -/
  | brev (f : RR)
  /-- BFE (R341). -/
  | bfe (f : RR)
  /-- BFI (R341). -/
  | bfi (f : RR)
  /-- SEL (R340). -/
  | sel (f : RR)
  /-- ICMP (R342). -/
  | icmp (f : RR)
  /-- LEA (R340). -/
  | lea (f : RR)
  /-- IADDI (R343). -/
  | iaddi (f : RI)
  /-- IMULI (R343). -/
  | imuli (f : RI)
  /-- ANDI (R343). -/
  | andi (f : RI)
  /-- ORI (R343). -/
  | ori (f : RI)
  /-- XORI (R343). -/
  | xori (f : RI)
  /-- ICMPI (R343). -/
  | icmpi (f : RI)
  /-- FADD (R345). -/
  | fadd (f : RR)
  /-- FSUB (R345). -/
  | fsub (f : RR)
  /-- FMUL (R345). -/
  | fmul (f : RR)
  /-- FFMA (R345). -/
  | ffma (f : RR)
  /-- FMIN (R345). -/
  | fmin (f : RR)
  /-- FMAX (R345). -/
  | fmax (f : RR)
  /-- FCMP (R345). -/
  | fcmp (f : RR)
  /-- FCLASS (R346). -/
  | fclass (f : RR)
  /-- FRCP (R299). -/
  | frcp (f : RR)
  /-- FRSQ (R299). -/
  | frsq (f : RR)
  /-- FSQRT (R299). -/
  | fsqrt (f : RR)
  /-- FEXP2 (R299). -/
  | fexp2 (f : RR)
  /-- FLOG2 (R299). -/
  | flog2 (f : RR)
  /-- FTANH (R299). -/
  | ftanh (f : RR)
  /-- FDIV (R299). -/
  | fdiv (f : RR)
  /-- FSCALE (R345). -/
  | fscale (f : RR)
  /-- HADD2 (R347). -/
  | hadd2 (f : RR)
  /-- HMUL2 (R347). -/
  | hmul2 (f : RR)
  /-- HFMA2 (R347). -/
  | hfma2 (f : RR)
  /-- CVT (R348). -/
  | cvt (f : RR)
  /-- CVTPK (R349). -/
  | cvtpk (f : RR)
  /-- CVTQ (R350). -/
  | cvtq (f : RR)
  /-- FRND (R351). -/
  | frnd (f : RR)
  /-- MOV (R352). -/
  | mov (f : RR)
  /-- MOVI (R352). -/
  | movi (f : RI)
  /-- MOVS (R352). -/
  | movs (f : RR)
  /-- SHFL (R354). -/
  | shfl (f : RR)
  /-- VOTE (R355). -/
  | vote (f : RR)
  /-- MATCH (R356). -/
  | matchLanes (f : RR)
  /-- REDUX (R357). -/
  | redux (f : RR)
  /-- BCAST (R358). -/
  | bcast (f : RR)
  /-- BSEL (R352). -/
  | bsel (f : RR)
  /-- GETSP (R352). -/
  | getsp (f : RR)
  /-- BRA (R361). -/
  | bra (f : BR)
  /-- BRX (R190). -/
  | brx (f : BR)
  /-- BRX_G (R193). -/
  | brxG (f : BR)
  /-- JOIN (R191). -/
  | join (f : BR)
  /-- CALL (R361). -/
  | call (f : BR)
  /-- RET (R362). -/
  | ret (f : BR)
  /-- EXIT (R363). -/
  | exit (f : BR)
  /-- YIELD (R361). -/
  | yield (f : BR)
  /-- BRI (R361). -/
  | bri (f : BR)
  /-- WARPSYNC (R359). -/
  | warpsync (f : RR)
  /-- LD (R365). -/
  | ld (f : MEM)
  /-- ST (R367). -/
  | st (f : MEM)
  /-- ATOM (R368). -/
  | atom (f : MEM)
  /-- ATOMC (R368). -/
  | atomc (f : MEM)
  /-- RED (R368). -/
  | red (f : MEM)
  /-- PREF (R369). -/
  | pref (f : MEM)
  /-- CCTL (R369). -/
  | cctl (f : MEM)
  /-- LDC (R366). -/
  | ldc (f : MEM)
  /-- CPY (R424). -/
  | cpy (f : RR)
  /-- CPYL (R425). -/
  | cpyl (f : RR)
  /-- CPYL_ST (R425). -/
  | cpylSt (f : RR)
  /-- CWANY (R426). -/
  | cwany (f : RR)
  /-- CWALL (R426). -/
  | cwall (f : RR)
  /-- CFIND (R426). -/
  | cfind (f : RR)
  /-- BARA (R427). -/
  | bara (f : RR)
  /-- BARW (R428). -/
  | barw (f : RR)
  /-- BAR (R428). -/
  | bar (f : RR)
  /-- FENCE (R104). -/
  | fence (f : RR)
  /-- XFENCE (R105). -/
  | xfence (f : RR)
  /-- GIVE (R419). -/
  | give (f : RR)
  /-- GIVE_SEQ (R419). -/
  | giveSeq (f : RR)
  /-- TAKE (R420). -/
  | take (f : RR)
  /-- TAKE_ANY (R420). -/
  | takeAny (f : RR)
  /-- TOWN (R421). -/
  | town (f : RR)
  /-- TFREE (R422). -/
  | tfree (f : RR)
  /-- TGRAB (R423). -/
  | tgrab (f : RR)
  /-- COLL (R431). -/
  | coll (f : RR)
  /-- COLLW (R432). -/
  | collw (f : RR)
  /-- COLLQ (R432). -/
  | collq (f : RR)
  /-- COLLX (R433). -/
  | collx (f : RR)
  /-- SIGCLAIM (R435). -/
  | sigclaim (f : RR)
  /-- SIGDONE (R436). -/
  | sigdone (f : RR)
  /-- SIGYIELD (R436). -/
  | sigyield (f : RR)
  /-- SIGSTAGE (R437). -/
  | sigstage (f : RR)
  /-- SIGSWAP (R226). -/
  | sigswap (f : RR)
  /-- SIGREAD (R437). -/
  | sigread (f : RR)
  /-- TASKGET (R438). -/
  | taskget (f : RR)
  /-- TASKPUT (R440). -/
  | taskput (f : RR)
  /-- TASKEND (R439). -/
  | taskend (f : RR)
  /-- SLOTGET (R441). -/
  | slotget (f : RR)
  /-- SLOTPOST (R442). -/
  | slotpost (f : RR)
  /-- SLOTPOST_END (R442). -/
  | slotpostEnd (f : RR)
  /-- CCINC (R443). -/
  | ccinc (f : RR)
  /-- CANCEL (R444). -/
  | cancel (f : RR)
  /-- TRAP (R447). -/
  | trap (f : RI)
  /-- BKPT (R447). -/
  | bkpt (f : RI)
  /-- RFT (R269). -/
  | rft (f : BR)
  /-- GETCTL (R449). -/
  | getctl (f : RI)
  /-- SETCTL (R449). -/
  | setctl (f : RI)
  /-- FELRD (R450). -/
  | felrd (f : RR)
  /-- CLOCK (R451). -/
  | clock (f : RR)
  /-- WAITEV (R452). -/
  | waitev (f : RR)
  /-- POSTEV (R453). -/
  | postev (f : RR)
  /-- QPUSH (R445). -/
  | qpush (f : RR)
  /-- STREAM (R446). -/
  | stream (f : RR)
  /-- XLD (R382). -/
  | xld (f : MEM)
  /-- XST (R382). -/
  | xst (f : MEM)
  /-- XLDG (R382). -/
  | xldg (f : MEM)
  /-- ANYM (R384). -/
  | anym (f : RR)
  /-- ALLM (R384). -/
  | allm (f : RR)
  /-- CMPT (R385). -/
  | cmpt (f : RR)
  /-- HSET (R386). -/
  | hset (f : RR)
  /-- HADVP (R387). -/
  | hadvp (f : RI)
  /-- HADVC (R387). -/
  | hadvc (f : RI)
  /-- HQRY (R388). -/
  | hqry (f : RR)
  /-- SGIVE (R389). -/
  | sgive (f : RI)
  /-- STAKE (R390). -/
  | stake (f : RI)
  /-- SCALEW (R391). -/
  | scalew (f : RR)
  /-- SCALEG (R391). -/
  | scaleg (f : RR)
  /-- VADD (R393). -/
  | vadd (f : TILE)
  /-- VSUB (R393). -/
  | vsub (f : TILE)
  /-- VMUL (R393). -/
  | vmul (f : TILE)
  /-- VFMA (R393). -/
  | vfma (f : TILE)
  /-- VMIN (R393). -/
  | vmin (f : TILE)
  /-- VMAX (R393). -/
  | vmax (f : TILE)
  /-- VABS (R393). -/
  | vabs (f : TILE)
  /-- VEXP2 (R393). -/
  | vexp2 (f : TILE)
  /-- VTANH (R393). -/
  | vtanh (f : TILE)
  /-- VRCP (R393). -/
  | vrcp (f : TILE)
  /-- VRSQ (R393). -/
  | vrsq (f : TILE)
  /-- VCMP (R393). -/
  | vcmp (f : TILE)
  /-- VSEL (R393). -/
  | vsel (f : TILE)
  /-- VCVT (R397). -/
  | vcvt (f : TILE)
  /-- VMAXE (R398). -/
  | vmaxe (f : TILE)
  /-- VCVTQ (R397). -/
  | vcvtq (f : TILE)
  /-- VROTR (R393). -/
  | vrotr (f : TILE)
  /-- VROTC (R393). -/
  | vrotc (f : TILE)
  /-- VBCR (R393). -/
  | vbcr (f : TILE)
  /-- VBCC (R393). -/
  | vbcc (f : TILE)
  /-- VREDR (R395). -/
  | vredr (f : TILE)
  /-- VREDC (R395). -/
  | vredc (f : TILE)
  /-- VMOV (R393). -/
  | vmov (f : TILE)
  /-- VAND (R393). -/
  | vand (f : TILE)
  /-- VOR (R393). -/
  | vor (f : TILE)
  /-- VXOR (R393). -/
  | vxor (f : TILE)
  /-- VSHL (R393). -/
  | vshl (f : TILE)
  /-- VSHR (R393). -/
  | vshr (f : TILE)
  /-- VIOTA (R393). -/
  | viota (f : TILE)
  /-- VIADD (R393). -/
  | viadd (f : TILE)
  /-- VIMUL (R393). -/
  | vimul (f : TILE)
  /-- VRELU (R393). -/
  | vrelu (f : TILE)
  /-- VSCALE (R393). -/
  | vscale (f : TILE)
  /-- MMA (R399). -/
  | mma (f : TILE)
  /-- MLOOP (R402). -/
  | mloop (f : TILE)
  /-- MZERO (R403). -/
  | mzero (f : TILE)
  /-- MTRN (R401). -/
  | mtrn (f : TILE)
  /-- MLOOPT (R402). -/
  | mloopt (f : TILE)
  /-- MSTAT (R403). -/
  | mstat (f : TILE)
  /-- TLD (R407). -/
  | tld (f : MEM)
  /-- TST (R408). -/
  | tst (f : MEM)
  /-- TSLD (R409). -/
  | tsld (f : MEM)
  /-- TSST (R409). -/
  | tsst (f : MEM)
  /-- TLDX (R410). -/
  | tldx (f : MEM)
  /-- TCPY (R411). -/
  | tcpy (f : TILE)
  /-- CFENCE (R114). -/
  | cfence (f : MEM)
  /-- SBR (R377). -/
  | sbr (f : BR)
  /-- SBRQ (R377). -/
  | sbrq (f : BR)
  /-- LOOPI (R378). -/
  | loopi (f : BR)
  /-- LOOPB (R378). -/
  | loopb (f : BR)
  /-- SYNCL (R204). -/
  | syncl (f : BR)
  /-- SHALT (R380). -/
  | shalt (f : BR)
  /-- SCALL (R379). -/
  | scall (f : BR)
  /-- SRET (R379). -/
  | sret (f : BR)
  /-- SBRM (R377). -/
  | sbrm (f : BR)
  /-- RESET (R457). -/
  | reset
  /-- BOOT_IMAGE (R457). -/
  | bootImage
  /-- JOB_CREATION (R17). -/
  | jobCreation
  /-- DOMAIN_DEFINITION (R240). -/
  | domainDefinition
  /-- XLT_INV (R35). -/
  | xltInv
  /-- FQ_REPLAY (R40). -/
  | fqReplay
  /-- WALK_COMPLETE (R34). -/
  | walkComplete
  /-- QUEUE_TAIL_WRITE (R209). -/
  | queueTailWrite
  /-- QUEUE_STATE_WRITE (R212). -/
  | queueStateWrite
  /-- REGISTER_WRITE (R5). -/
  | registerWrite
  /-- PREEMPT (R237). -/
  | preempt
  /-- RESUME (R479). -/
  | resume
  /-- TERMINATE (R279). -/
  | terminate
  /-- TERMINATION_COMPLETE (R280). -/
  | terminationComplete
  /-- MIG (R157). -/
  | mig
  /-- MIGRATION_PASS_COMPLETE (R158). -/
  | migrationPassComplete
  /-- MIGRATION_SWITCH_COMPLETE (R160). -/
  | migrationSwitchComplete
  /-- MIGCLOSE (R160). -/
  | migclose
  /-- CNRES (R256). -/
  | cnres
  /-- ATTEST (R459). -/
  | attest
  /-- KEYLOAD (R459). -/
  | keyload
  /-- WAKE (R460). -/
  | wake
  /-- PLC_RETIRED_WRITE (R283). -/
  | plcRetiredWrite
  /-- PLC_L2RET_WRITE (R174). -/
  | plcL2retWrite
  /-- PLC_CLRET_WRITE (R174). -/
  | plcClretWrite
  /-- L2_RETIREMENT_APPLY (R174). -/
  | l2RetirementApply
  /-- FREEZE_NOW (R284). -/
  | freezeNow
  /-- FREEZE (R284). -/
  | freeze
  /-- READOUT (R463). -/
  | readout
  /-- HOSTWIN_DATA_WRITE (R456). -/
  | hostwinDataWrite
  /-- HOSTWIN_DATA_READ (R456). -/
  | hostwinDataRead
  /-- HOSTWIN_FENCE_WRITE (R456). -/
  | hostwinFenceWrite
  /-- HOSTWIN_FENCE_READ (R456). -/
  | hostwinFenceRead
  /-- IDLE_ENTRY (R460). -/
  | idleEntry
  /-- OPERATING_POINT_CHANGE (R461). -/
  | operatingPointChange
  /-- POWER_LIMIT_EXCEEDED (R462). -/
  | powerLimitExceeded
  /-- THERMAL_THROTTLE (R462). -/
  | thermalThrottle
  /-- CRITICAL_TEMPERATURE (R462). -/
  | criticalTemperature
  /-- CXL_PORT_DOWN (R455). -/
  | cxlPortDown
  /-- DRIP_DRAIN (R172). -/
  | dripDrain
  /-- BANK_POWER_TRANSITION (R53). -/
  | bankPowerTransition
  /-- BANK_RETURN_TO_ON (R53). -/
  | bankReturnToOn
  /-- FLIT_RECEIVE (R144). -/
  | flitReceive
  /-- FLIT_REPLAY_TIMEOUT (R144). -/
  | flitReplayTimeout
  /-- RDS (R147). -/
  | rds
  /-- RDX (R147). -/
  | rdx
  /-- UPG (R147). -/
  | upg
  /-- WB (R147). -/
  | wb
  /-- EVC (R147). -/
  | evc
  /-- ATM (R154). -/
  | atm
  /-- NCR (R143). -/
  | ncr
  /-- NCW (R143). -/
  | ncw
  /-- INV (R149). -/
  | inv
  /-- FWDS (R149). -/
  | fwds
  /-- FWDI (R149). -/
  | fwdi
  /-- GNTX (R149). -/
  | gntx
  /-- WBACK (R149). -/
  | wback
  /-- INVACK (R148). -/
  | invack
  /-- FWDACK (R148). -/
  | fwdack
  /-- ATMR (R155). -/
  | atmr
  /-- NCWACK (R143). -/
  | ncwack
  /-- DATAS (R149). -/
  | datas
  /-- DATAE (R149). -/
  | datae
  /-- DATAM (R149). -/
  | datam
  /-- FWDDATA (R148). -/
  | fwddata
  /-- NCRD (R143). -/
  | ncrd
  /-- HOME_LOCAL_READ (R147). -/
  | homeLocalRead
  /-- HOME_LOCAL_WRITE (R147). -/
  | homeLocalWrite
  /-- MEMORY_READ_COMPLETE (R148). -/
  | memoryReadComplete
  /-- REMOTE_L2_EVICTION (R136). -/
  | remoteL2Eviction
  /-- REMOTE_L2_ACCESS (R149). -/
  | remoteL2Access
  /-- PEER_REQUEST (R28). -/
  | peerRequest
  /-- PEER_RESPONSE (R28). -/
  | peerResponse
  /-- LAUNCH (R213). -/
  | launch
  /-- GRAPH (R211). -/
  | graph
  /-- COPY (R210). -/
  | copy
  /-- WAIT (R211). -/
  | wait
  /-- SIGNAL (R210). -/
  | signal
  /-- COLL_COMMAND (R243). -/
  | collCommand
  /-- CANCEL_COMMAND (R179). -/
  | cancelCommand
  /-- PHASE_END (R211). -/
  | phaseEnd
  /-- UNIT_COMPLETION (R178). -/
  | unitCompletion
  /-- BLOCK_PLACEMENT (R214). -/
  | blockPlacement
  /-- BLOCK_END (R181). -/
  | blockEnd
  /-- DISTRIBUTOR_PREEMPTION (R237). -/
  | distributorPreemption
  /-- BLOCK_SUSPENSION (R237). -/
  | blockSuspension
  /-- BLOCK_RESUME (R479). -/
  | blockResume
  /-- BARRIER_WATCHDOG_EXPIRY (R278). -/
  | barrierWatchdogExpiry
  /-- REGROUP_COMPLETION (R194). -/
  | regroupCompletion
  /-- REGROUP_TIMEOUT (R194). -/
  | regroupTimeout
  /-- WARP_RESULT_LANDS (R371). -/
  | warpResultLands
  /-- TILE_BECOMES_GIVEN (R110). -/
  | tileBecomesGiven
  /-- TAKE_COMPLETION (R110). -/
  | takeCompletion
  /-- COPY_COMPLETION (R64). -/
  | copyCompletion
  /-- STREAM_ITEM_DELIVERY (R78). -/
  | streamItemDelivery
  /-- STREAM_RECORD_COMPLETION (R76). -/
  | streamRecordCompletion
  /-- CARAFE_STATE_LOAD_COMPLETE (R235). -/
  | carafeStateLoadComplete
  /-- CARAFE_WRITEBACK_COMPLETE (R234). -/
  | carafeWritebackComplete
  /-- RING_PRODUCER_CLAIM (R81). -/
  | ringProducerClaim
  /-- RING_PUBLISH (R81). -/
  | ringPublish
  /-- RING_CONSUMER_CLAIM (R81). -/
  | ringConsumerClaim
  /-- RING_CONSUMER_RELEASE (R81). -/
  | ringConsumerRelease
  /-- RING_END_TOKEN (R81). -/
  | ringEndToken
  /-- QPUSH_RECORD_WRITE (R445). -/
  | qpushRecordWrite
  /-- WAITEV_TIMEOUT (R452). -/
  | waitevTimeout
  /-- WAITEV_POLL (R452). -/
  | waitevPoll
  /-- SIGHT (R251). -/
  | sight
  /-- ASSIGNED (R252). -/
  | assigned
  /-- PRESENT (R251). -/
  | present
  /-- GO (R254). -/
  | go
  /-- COLLATION_CANCEL (R257). -/
  | collationCancel
  /-- CANCEL_REPLY (R433). -/
  | cancelReply
  /-- REFUSED (R240). -/
  | refused
  /-- DONE (R251). -/
  | done
  /-- KEEPALIVE (R249). -/
  | keepalive
  /-- COLLATOR_REPLICATION (R251). -/
  | collatorReplication
  /-- REPLICATION_ACK (R251). -/
  | replicationAck
  /-- COLLATOR_TAKEOVER (R258). -/
  | collatorTakeover
  /-- STANDBY_SEARCH (R258). -/
  | standbySearch
  /-- TAKEOVER (R258). -/
  | takeover
  /-- COLLATOR_LOST_TIMEOUT (R259). -/
  | collatorLostTimeout
  /-- COLLECTIVE_TURN (R253). -/
  | collectiveTurn
  /-- COLLECTIVE_DATA_PHASE_COMPLETE (R254). -/
  | collectiveDataPhaseComplete
  /-- MEMBER_SILENCE_TIMEOUT (R254). -/
  | memberSilenceTimeout
  /-- SEQUENCER_BUNDLE_ISSUE (R372). -/
  | sequencerBundleIssue
  /-- SYNCL_RESTART (R204). -/
  | synclRestart
  /-- SEQ_RESULT_WRITE (R373). -/
  | seqResultWrite
  /-- MLOOP_STEP (R402). -/
  | mloopStep
  /-- SEQ_QUEUE_ENTRY_COMPLETE (R112). -/
  | seqQueueEntryComplete
  /-- LOAD_CLAIM_COMPLETE (R407). -/
  | loadClaimComplete
  /-- SEQUENCER_FAULT_DELIVERY (R272). -/
  | sequencerFaultDelivery
  /-- POWER_LOSS (R460). -/
  | powerLoss
  deriving DecidableEq, Repr

end Sys2Proof
end

