-- ==== Sys2Proof/WellFormed.lean ====
section
/-! DEFINITION. Well-formedness: the one bit that tells two rows of one opcode apart (R320, R416), and the ranges of the objects a device step's operands name. -/
namespace Sys2Proof

/-- A drip counter's unit class and index lie in the table of R170. -/
def unitWf (uclass uindex : Nat) : Bool :=
  match uclass with
  | 1 => decide (uindex < 3072)
  | 2 => decide (uindex < 24576)
  | 3 => decide (uindex < 12)
  | 4 => decide (uindex < 128)
  | 5 => decide (uindex < 12288)
  | 6 => decide (uindex < 8)
  | 7 => decide (uindex < 16)
  | _ => false

/-- A control register the driver can name: its context, die, queue or unit exists. -/
def CtlReg.wf : CtlReg → Bool
  | .traph c | .wdogDef c | .fqBase c | .fqSize c | .fqHead c | .fqStat c | .diagBase c | .diagSize c | .diagHead c
  | .carafeBase c | .carafeCount c | .exportRange c _ => decide (c < 64)
  | .melBase d | .melSize d | .melHead d => decide (d < 2)
  | .frzCtl | .pwrLimit | .hostwinBase | .hostwinStat | .other _ => true
  | .drip u i => unitWf u i
  | .queue q _ => decide (q < 4096)
  | .taskBind q => decide (q < 512)

/-- A short message carries no line data and no poison bits (R142). -/
def BridgeMsg.wfShort (m : BridgeMsg) : Bool := decide (m.die < 2) && m.data.isEmpty && m.spois == 0

/-- A line message carries 128 data bytes and no operands (R142). -/
def BridgeMsg.wfLine (m : BridgeMsg) : Bool :=
  decide (m.die < 2) && m.data.length == 128 && decide (m.spois.toNat < 4) && m.opa == 0 && m.opb == 0 && m.opx == 0

/-- A ring request names an existing warp slot or stream engine. -/
def RingReq.wf (r : RingReq) : Bool :=
  decide (r.ctx < 64) && (match r.who with
    | .warp c k => decide (c < 192) && decide (k < 48)
    | .engine e => decide (e < 24))

/-- The operands of a device step name objects that exist. -/
def Arg.wf (a : Arg) : Bool :=
  decide (a.die < 2) && decide (a.core < 192) && decide (a.slot < 48) && decide (a.ctx < 64) && decide (a.dom < 4096) &&
  a.reg.wf && (a.msg.wfShort || a.msg.wfLine) && decide (a.cmd.q < 4096) && a.ring.wf &&
  decide (a.coll.ctx < 64) && decide (a.coll.domid < 4096)

/-- Well-formedness of a step: of two rows that share an opcode, the bit that tells them apart is the row's (R320, R416, R419, R420, R425, R442). -/
def Instr.wf : Instr → Bool
  | .brx f => !f.md.getLsbD 17
  | .brxG f => f.md.getLsbD 17
  | .give f => !f.md.getLsbD 3
  | .giveSeq f => f.md.getLsbD 3
  | .take f => !f.md.getLsbD 3
  | .takeAny f => f.md.getLsbD 3
  | .cpyl f => !f.ty.getLsbD 2
  | .cpylSt f => f.ty.getLsbD 2
  | .slotpost f => !f.md.getLsbD 1
  | .slotpostEnd f => f.md.getLsbD 1
  | _ => true

end Sys2Proof
end

