-- ==== Sys2Proof/Decode.lean ====
section
/-! DEFINITION. Decoding of instruction words (R309-R329), command records (R210) and bridge messages (R142), total and rejecting by name; legality of an encoding for its agent or slot; and the encoders. -/
namespace Sys2Proof

/-- Why a word is no instruction of its agent (R329). -/
inductive DecodeError where
  /-- An opcode R328 does not list. -/
  | unknownOpcode (opc : Nat)
  /-- A field value, register class or agent R310-R328 do not allow. -/
  | illegalField (opc : Nat)
  /-- A command record with a reserved TYPE (R210). -/
  | reservedType (t : Nat)
  /-- A record or message of the wrong length. -/
  | badLength
  deriving DecidableEq, Repr

/-! Formats (R313). -/

/-- The NOP word's fields. -/
def NopF.ofWord (w : Word64) : NopF := ⟨w.extractLsb' 50 4, w.extractLsb' 0 50⟩
/-- The NOP word below its opcode. -/
def NopF.toBits (f : NopF) : BitVec 54 := f.g ++ f.body

/-- Format RR read from a word. -/
def RR.ofWord (w : Word64) : RR :=
  ⟨w.extractLsb' 50 4, w.extractLsb' 42 8, w.extractLsb' 34 8, w.extractLsb' 26 8, w.extractLsb' 18 8,
   w.extractLsb' 13 5, w.extractLsb' 6 7, w.extractLsb' 3 3, w.extractLsb' 0 3⟩
/-- Format RR below the opcode. -/
def RR.toBits (f : RR) : BitVec 54 :=
  f.g ++ f.dst ++ f.sa ++ f.sb ++ f.sc ++ f.ty ++ f.md ++ f.sbd ++ f.us

/-- Format RI read from a word. -/
def RI.ofWord (w : Word64) : RI :=
  ⟨w.extractLsb' 50 4, w.extractLsb' 42 8, w.extractLsb' 34 8, w.extractLsb' 2 32, w.extractLsb' 0 2⟩
/-- Format RI below the opcode. -/
def RI.toBits (f : RI) : BitVec 54 := f.g ++ f.dst ++ f.sa ++ f.imm ++ f.us

/-- Format MEM read from a word. -/
def MEM.ofWord (w : Word64) : MEM :=
  ⟨w.extractLsb' 50 4, w.extractLsb' 42 8, w.extractLsb' 34 8, w.extractLsb' 14 20, w.extractLsb' 11 3,
   w.extractLsb' 8 3, w.extractLsb' 6 2, w.extractLsb' 3 3, w.extractLsb' 0 3⟩
/-- Format MEM below the opcode. -/
def MEM.toBits (f : MEM) : BitVec 54 :=
  f.g ++ f.data ++ f.base ++ f.off ++ f.sp ++ f.sz ++ f.ord ++ f.scope ++ f.sbd

/-- Format BR read from a word. -/
def BR.ofWord (w : Word64) : BR := ⟨w.extractLsb' 50 4, w.extractLsb' 18 32, w.extractLsb' 0 18⟩
/-- Format BR below the opcode. -/
def BR.toBits (f : BR) : BitVec 54 := f.g ++ f.tgt ++ f.md

/-- Format TILE read from a word. -/
def TILE.ofWord (w : Word64) : TILE :=
  ⟨w.extractLsb' 50 4, w.extractLsb' 42 8, w.extractLsb' 34 8, w.extractLsb' 26 8, w.extractLsb' 18 8,
   w.extractLsb' 13 5, w.extractLsb' 12 1, w.extractLsb' 4 8, w.extractLsb' 0 4⟩
/-- Format TILE below the opcode. -/
def TILE.toBits (f : TILE) : BitVec 54 :=
  f.g ++ f.dt ++ f.ta ++ f.tb ++ f.tc ++ f.ty ++ f.ax ++ f.md ++ f.hd

/-! Field tests used by the legality rules. -/

/-- MD[12], the UD flag (R314). -/
def RR.ud (f : RR) : Bool := f.md.getLsbD 6
/-- The rounding code of MD[11:9] (R316). -/
def RR.rm (f : RR) : Nat := (f.md.extractLsb' 3 3).toNat
/-- SA names an s register (R314). -/
def RR.aS (f : RR) : Bool := f.us.getLsbD 2
/-- SB names an s register (R314). -/
def RR.bS (f : RR) : Bool := f.us.getLsbD 1
/-- SC names an s register (R314). -/
def RR.cS (f : RR) : Bool := f.us.getLsbD 0
/-- NSAT, MD[8] (R316). -/
def RR.nsat (f : RR) : Bool := f.md.getLsbD 2
/-- The comparison code MD[11:8] (R316). -/
def RR.cc (f : RR) : Nat := (f.md.extractLsb' 2 4).toNat
/-- SUB of SHFL, VOTE and MATCH, MD[11:10] (R316). -/
def RR.sub2 (f : RR) : Nat := (f.md.extractLsb' 4 2).toNat
/-- SUB of REDUX, MD[11:9] (R316). -/
def RR.sub3 (f : RR) : Nat := (f.md.extractLsb' 3 3).toNat

/-- TY is a 64-bit integer type (R315). -/
def ty64 (t : BitVec 5) : Bool := t == 2 || t == 3
/-- TY is I32, N32, I64 or N64. -/
def tyInt (t : BitVec 5) : Bool := decide (t.toNat < 4)
/-- TY is F32, F16 or B16. -/
def tyFlt (t : BitVec 5) : Bool := t == 8 || t == 9 || t == 10
/-- An unused field and its flag are zero (R313). -/
def unused (code : BitVec 8) (flag : Bool) : Bool := code == 0 && !flag
/-- A v or s source of the given width (R314, R46). -/
def srcOk (code : BitVec 8) (isS wide : Bool) : Bool :=
  if isS then decide (code.toNat < 64) else !wide || !code.getLsbD 0
/-- A v or s destination of the given width. -/
def RR.dstOk (f : RR) (wide : Bool) : Bool := srcOk f.dst f.ud wide
/-- A predicate code (R314). -/
def predCode (c : BitVec 8) : Bool := decide (c.toNat < 8)
/-- An SBD a warp word may carry (R322). -/
def sbdOk (n : BitVec 3) : Bool := n != 7
/-- A rounding code (R288). -/
def rmOk (n : Nat) : Bool := decide (n ≤ 5)

/-- Warp integer words of one to three sources (R340, R336). -/
def RR.intOk (f : RR) (n : Nat) : Bool :=
  let w := ty64 f.ty
  tyInt f.ty && f.md.extractLsb' 0 6 == 0 && sbdOk f.sbd && f.dstOk w && srcOk f.sa f.aS w &&
  (if 2 ≤ n then srcOk f.sb f.bS w else unused f.sb f.bS) &&
  (if 3 ≤ n then srcOk f.sc f.cS w else unused f.sc f.cS) &&
  (!f.ud || (f.aS && (decide (n < 2) || f.bS) && (decide (n < 3) || f.cS)))

/-- Warp float words with 32-bit operands of `n` sources; `rmMask` holds the MD bits below UD that may be set. -/
def RR.fltOk (f : RR) (n : Nat) (types : BitVec 5 → Bool) (mdOk : Bool) : Bool :=
  types f.ty && mdOk && sbdOk f.sbd && f.dstOk false && srcOk f.sa f.aS false &&
  (if 2 ≤ n then srcOk f.sb f.bS false else unused f.sb f.bS) &&
  (if 3 ≤ n then srcOk f.sc f.cS false else unused f.sc f.cS) &&
  (!f.ud || (f.aS && (decide (n < 2) || f.bS) && (decide (n < 3) || f.cS)))

/-- MD with RM alone (R316). -/
def RR.mdRm (f : RR) : Bool := rmOk f.rm && f.md.extractLsb' 0 3 == 0
/-- MD with RM, NA and NC (R316). -/
def RR.mdRmNeg (f : RR) : Bool := rmOk f.rm && !f.md.getLsbD 2
/-- MD with RM and NSAT (R316). -/
def RR.mdRmSat (f : RR) : Bool := rmOk f.rm && f.md.extractLsb' 0 2 == 0
/-- MD with UD alone. -/
def RR.mdUd (f : RR) : Bool := f.md.extractLsb' 0 6 == 0

/-- A compare's destination and code (R316, R342). -/
def RR.cmpOk (f : RR) (types : BitVec 5 → Bool) (wide : Bool) (ccMax : Nat) : Bool :=
  types f.ty && !f.ud && f.md.extractLsb' 0 2 == 0 && decide (f.cc ≤ ccMax) && sbdOk f.sbd && predCode f.dst &&
  srcOk f.sa f.aS wide && srcOk f.sb f.bS wide && unused f.sc f.cS

/-- A type CVT accepts (R348). -/
def tyCvt (t : BitVec 5) : Bool := decide (t.toNat ≤ 5) || (decide (8 ≤ t.toNat) && decide (t.toNat ≤ 15))
/-- A type CVTPK accepts (R349). -/
def tyCvtpk (t : BitVec 5) : Bool := t == 4 || t == 5 || (decide (9 ≤ t.toNat) && decide (t.toNat ≤ 15))
/-- A type CVTQ and VCVTQ accept (R350). -/
def tyCvtq (t : BitVec 5) : Bool := t == 4 || t == 9 || (decide (11 ≤ t.toNat) && decide (t.toNat ≤ 15))
/-- A type VCVT accepts (R397). -/
def tyVcvt (t : BitVec 5) : Bool := t == 0 || t == 1 || t == 4 || t == 5 || (decide (8 ≤ t.toNat) && decide (t.toNat ≤ 15))
/-- A type with a 32-bit element. -/
def ty32 (t : BitVec 5) : Bool := t == 0 || t == 1 || t == 8
/-- Positions of a type's packed view in one 32-bit element (R47, R349). -/
def positions (t : BitVec 5) : Nat :=
  if t == 9 || t == 10 then 2 else if t == 15 then 8
  else if t == 4 || t == 5 || t == 11 || t == 12 || t == 13 || t == 14 then 4 else if t == 17 then 16 else 1

/-- The address register field of a warp MEM word (R314). -/
def memBaseOk (c : BitVec 8) : Bool := !c.getLsbD 0 || decide (c.toNat ≤ 0x7F) || c == 0xFF
/-- The DATA group of a memory word of size code sz (R314, R364). -/
def memDataOk (d : BitVec 8) (sz : BitVec 3) : Bool :=
  if sz == 3 then !d.getLsbD 0 else if sz == 4 then d.extractLsb' 0 2 == 0 else true
/-- Fields common to LD, ST, LDC (R318). -/
def MEM.common (f : MEM) : Bool :=
  decide (f.sp.toNat ≤ 5) && decide (f.sz.toNat ≤ 4) && decide (f.scope.toNat ≤ 4) && sbdOk f.sbd
/-- ATOP (R318). -/
def MEM.atop (f : MEM) : Nat := (f.off.extractLsb' 16 4).toNat
/-- The sizes ATOM and RED allow for an operation (R319). -/
def atopOk (a : Nat) (sz : BitVec 3) : Bool :=
  if a ≤ 7 then sz == 2 || sz == 3 else if a = 8 then sz == 2 || sz == 3 || sz == 4 else a == 9 && sz == 2
/-- Fields of ATOM, ATOMC and RED (R318, R319). -/
def MEM.atomOk (f : MEM) : Bool :=
  f.common && memBaseOk f.base && memDataOk f.data f.sz && decide (2 ≤ f.sz.toNat)

/-- A group of n s registers (R414). -/
def groupOk (c : BitVec 8) (n : Nat) : Bool := decide (c.toNat < 64) && c.toNat % n == 0
/-- A field of a chapter 13 word: unused when n = 0, otherwise a group of n s registers with its US bit (R414). -/
def sysSrc (c : BitVec 8) (flag : Bool) (n : Nat) : Bool := if n = 0 then unused c flag else flag && groupOk c n
/-- A chapter 13 word (R414, R416): the register groups of DST, SA, SB, SC (0 unused), whether SBD is 1-6 or 0, and the limits on TY and IMM7. -/
def RR.sysOk (f : RR) (d a b c : Nat) (sb : Bool) (tyImm : Bool) : Bool :=
  (if d = 0 then f.dst == 0 else groupOk f.dst d) && sysSrc f.sa f.aS a && sysSrc f.sb f.bS b && sysSrc f.sc f.cS c &&
  (if sb then f.sbd != 0 && f.sbd != 7 else f.sbd == 0) && tyImm

/-- The narrowest scopes XFENCE's to set allows (R105): SE and TK need PACKAGE, CO needs POD. -/
def xfenceScopeOk (scope : Nat) (t : BitVec 5) : Bool :=
  decide (scope ≤ 4) && (!t.getLsbD 3 || scope == 4) && (!(t.getLsbD 2 || t.getLsbD 4) || decide (3 ≤ scope))

/-- Numbers of the control registers a warp may name (R449). -/
def ctlWarp (n : Nat) : Bool := decide (n ≤ 3) || (decide (0x10 ≤ n) && decide (n ≤ 0x16)) || (decide (0x20 ≤ n) && decide (n ≤ 0x22))
/-- Numbers of the control registers the S slot may name (R449). -/
def ctlSeq (n : Nat) : Bool := decide (n ≤ 1) || (decide (0x20 ≤ n) && decide (n ≤ 0x23))

/-! The bundle slots (R325, R344, R377-R412). -/

/-- An x or l register of the S slot (R344, R381). -/
def xlOk (c : BitVec 8) : Bool := decide (c.toNat < 64) || (decide (0x58 ≤ c.toNat) && decide (c.toNat ≤ 0x5B))
/-- An x register. -/
def xOk (c : BitVec 8) : Bool := decide (c.toNat < 64)
/-- A q register. -/
def qOk (c : BitVec 8) : Bool := decide (0x40 ≤ c.toNat) && decide (c.toNat ≤ 0x47)
/-- An m register, in the S slot's coding. -/
def mOk (c : BitVec 8) : Bool := decide (0x48 ≤ c.toNat) && decide (c.toNat ≤ 0x4F)
/-- A handle, in the S slot's coding. -/
def hOk (c : BitVec 8) : Bool := decide (0x50 ≤ c.toNat) && decide (c.toNat ≤ 0x57)
/-- A tile code. -/
def tOk (c : BitVec 8) : Bool := decide (c.toNat < 0x80)
/-- A tile or a handle slot (R314). -/
def thOk (c : BitVec 8) : Bool := decide (c.toNat < 0x88)
/-- An m register, in a TILE field (R314). -/
def tmOk (c : BitVec 8) : Bool := decide (0x88 ≤ c.toNat) && decide (c.toNat ≤ 0x8F)

/-- S-slot integer words (R344). -/
def RR.sIntOk (f : RR) (n : Nat) : Bool :=
  tyInt f.ty && f.md == 0 && f.sbd == 0 && f.us == 0 && xlOk f.dst && xlOk f.sa &&
  (if 2 ≤ n then xlOk f.sb else f.sb == 0) && (if 3 ≤ n then xlOk f.sc else f.sc == 0)

/-- Every field but those named is zero in an S-slot RR word. -/
def RR.sPlain (f : RR) : Bool := f.ty == 0 && f.md == 0 && f.sbd == 0 && f.us == 0

/-- An S-slot memory word but for its space and order (R318, R382). -/
def MEM.sCommon (f : MEM) : Bool :=
  decide (f.sz.toNat ≤ 4) && decide (f.scope.toNat ≤ 4) && f.sbd == 0 && xOk f.data && xOk f.base && (f.sz != 4 || !f.data.getLsbD 0)

/-- MEN and MSEL agree (R321). -/
def TILE.menOk (f : TILE) : Bool := f.md.getLsbD 0 || f.md.extractLsb' 1 3 == 0
/-- RM of a V word, MD[11:9] of the word (R321). -/
def TILE.rm (f : TILE) : Nat := (f.md.extractLsb' 5 3).toNat
/-- NSAT of VCVT and VCVTQ (R321). -/
def TILE.nsat (f : TILE) : Bool := f.md.getLsbD 4
/-- SUB of VCMP, VREDR and VREDC (R321). -/
def TILE.sub (f : TILE) : Nat := (f.md.extractLsb' 4 4).toNat
/-- KQ (R321). -/
def TILE.kq (f : TILE) : Nat := (f.md.extractLsb' 6 2).toNat
/-- A V word of n tile sources with allowed types (R392). -/
def TILE.vOk (f : TILE) (n : Nat) (types : BitVec 5 → Bool) (rm : Bool) : Bool :=
  types f.ty && f.ax == 0 && f.menOk && (if rm then rmOk f.rm && !f.md.getLsbD 4 else f.sub == 0) && thOk f.dt &&
  (if 1 ≤ n then thOk f.ta else f.ta == 0) && (if 2 ≤ n then thOk f.tb else f.tb == 0) && (if 3 ≤ n then thOk f.tc else f.tc == 0)
/-- A rotate or broadcast with its immediate count (R321, R393). -/
def TILE.rotOk (f : TILE) (lim : Nat) : Bool :=
  f.ty == 0 && f.ax == 0 && f.menOk && f.sub == 0 && thOk f.dt && thOk f.ta && decide (f.tb.toNat ≤ lim) && f.tc == 0
/-- A reduction (R395). -/
def TILE.redOk (f : TILE) : Bool :=
  ty32 f.ty && f.ax == 0 && f.menOk && decide (f.sub ≤ 2) && thOk f.dt && thOk f.ta && f.tb == 0 && f.tc == 0
/-- A conversion's part is below its limit (R397). -/
def partOk (narrow : BitVec 5) (tb : BitVec 8) : Bool := decide ((tb.extractLsb' 5 3).toNat < positions narrow)
/-- The K-loop operands: a tile operand requires its increment to be 0 (R402). -/
def TILE.loopOk (f : TILE) (scaled : Bool) : Bool :=
  let ia := f.hd.extractLsb' 2 2
  let ib := f.hd.extractLsb' 0 2
  (!tOk f.ta || ia == 0) && (!tOk f.tb || ib == 0) && (!scaled || !tOk f.tc || ia == 0)
/-- A type MMA accepts (R399). -/
def tyMma (t : BitVec 5) : Bool := t == 4 || t == 9 || t == 10 || (decide (11 ≤ t.toNat) && decide (t.toNat ≤ 15))

/-- A tile-copy word (R406). -/
def MEM.tileOk (f : MEM) (xp : Bool) (sharedOnly : Bool) : Bool :=
  thOk f.data && xOk f.base && !f.base.getLsbD 0 && (if xp then decide (f.sz.toNat ≤ 2) else f.sz == 0) &&
  f.ord == 0 && f.scope == 0 && f.sbd == 0 && (if sharedOnly then f.sp == 2 || f.sp == 4 else decide (f.sp.toNat ≤ 5))

/-! The opcode map (R328), one row per constructor. -/

/-- A row of the opcode map: its opcode, its constructor, the test of the bit that tells it from another row of the same opcode, and the encodings legal in a warp clause and in the bundle slots (R323, R325, R329). -/
structure OpRow (F : Type) where
  opc : Nat
  make : F → Instr
  var : F → Bool := fun _ => true
  warp : F → Bool := fun _ => false
  slot : Slot → F → Bool := fun _ _ => false

/-- Legal in the B slot alone. -/
def inB {F : Type} (p : F → Bool) : Slot → F → Bool := fun sl f => sl == .b && p f
/-- Legal in the S slot alone. -/
def inS {F : Type} (p : F → Bool) : Slot → F → Bool := fun sl f => sl == .s && p f
/-- Legal in both V slots. -/
def inV {F : Type} (p : F → Bool) : Slot → F → Bool := fun sl f => (sl == .v0 || sl == .v1) && p f
/-- Legal in the M slot alone. -/
def inM {F : Type} (p : F → Bool) : Slot → F → Bool := fun sl f => sl == .m && p f
/-- Legal in both C slots. -/
def inC {F : Type} (p : F → Bool) : Slot → F → Bool := fun sl f => (sl == .c0 || sl == .c1) && p f

/-- Rows of the opcode map in format RR (R328), part 0. -/
def rrRows0 : List (OpRow RR) :=
  [ { opc := 0x001, make := .iadd, warp := fun f => f.intOk 2, slot := inS fun f => f.sIntOk 2 },
    { opc := 0x002, make := .isub, warp := fun f => f.intOk 2, slot := inS fun f => f.sIntOk 2 },
    { opc := 0x003, make := .imul, warp := fun f => f.intOk 2, slot := inS fun f => f.sIntOk 2 },
    { opc := 0x004, make := .imulh, warp := fun f => f.intOk 2, slot := inS fun f => f.sIntOk 2 },
    { opc := 0x005, make := .imad, warp := fun f => f.intOk 3, slot := inS fun f => f.sIntOk 3 },
    { opc := 0x006, make := .imin, warp := fun f => f.intOk 2, slot := inS fun f => f.sIntOk 2 },
    { opc := 0x007, make := .imax, warp := fun f => f.intOk 2, slot := inS fun f => f.sIntOk 2 },
    { opc := 0x008, make := .iabs, warp := fun f => f.intOk 1 && (f.ty == 0 || f.ty == 2), slot := inS fun f => f.sIntOk 1 && (f.ty == 0 || f.ty == 2) },
    { opc := 0x009, make := .and, warp := fun f => f.intOk 2, slot := inS fun f => f.sIntOk 2 },
    { opc := 0x00A, make := .or, warp := fun f => f.intOk 2, slot := inS fun f => f.sIntOk 2 },
    { opc := 0x00B, make := .xor, warp := fun f => f.intOk 2, slot := inS fun f => f.sIntOk 2 },
    { opc := 0x00C, make := .not, warp := fun f => f.intOk 1, slot := inS fun f => f.sIntOk 1 },
    { opc := 0x00D, make := .shl, warp := fun f => f.intOk 2, slot := inS fun f => f.sIntOk 2 },
    { opc := 0x00E, make := .shr, warp := fun f => f.intOk 2, slot := inS fun f => f.sIntOk 2 },
    { opc := 0x00F, make := .sha, warp := fun f => f.intOk 2, slot := inS fun f => f.sIntOk 2 },
    { opc := 0x010, make := .rot, warp := fun f => f.intOk 2, slot := inS fun f => f.sIntOk 2 } ]

/-- Rows of the opcode map in format RR (R328), part 1. -/
def rrRows1 : List (OpRow RR) :=
  [ { opc := 0x011, make := .popc, warp := fun f => f.intOk 1, slot := inS fun f => f.sIntOk 1 },
    { opc := 0x012, make := .clz, warp := fun f => f.intOk 1, slot := inS fun f => f.sIntOk 1 },
    { opc := 0x013, make := .ctz, warp := fun f => f.intOk 1, slot := inS fun f => f.sIntOk 1 },
    { opc := 0x014, make := .brev, warp := fun f => f.intOk 1, slot := inS fun f => f.sIntOk 1 },
    { opc := 0x015, make := .bfe, warp := fun f => f.intOk 2, slot := inS fun f => f.sIntOk 2 },
    { opc := 0x016, make := .bfi, warp := fun f => f.intOk 3, slot := inS fun f => f.sIntOk 3 },
    { opc := 0x017, make := .sel, warp := fun f =>
      tyInt f.ty && f.mdUd && sbdOk f.sbd && f.dstOk (ty64 f.ty) && srcOk f.sa f.aS (ty64 f.ty) &&
      srcOk f.sb f.bS (ty64 f.ty) && predCode f.sc && !f.cS && (!f.ud || (f.aS && f.bS)), slot := inS fun f => tyInt f.ty && f.md == 0 && f.sbd == 0 && f.us == 0 && xlOk f.dst && xlOk f.sa && xlOk f.sb && qOk f.sc },
    { opc := 0x018, make := .icmp, warp := fun f => f.cmpOk tyInt (ty64 f.ty) 5, slot := inS fun f => 
      tyInt f.ty && !f.ud && f.md.extractLsb' 0 2 == 0 && decide (f.cc ≤ 5) && f.sbd == 0 && f.us == 0 &&
      qOk f.dst && xlOk f.sa && xlOk f.sb && f.sc == 0 },
    { opc := 0x019, make := .lea, warp := fun f => f.intOk 3, slot := inS fun f => f.sIntOk 3 },
    { opc := 0x040, make := .fadd, warp := fun f => f.fltOk 2 (· == 8) f.mdRm },
    { opc := 0x041, make := .fsub, warp := fun f => f.fltOk 2 (· == 8) f.mdRm },
    { opc := 0x042, make := .fmul, warp := fun f => f.fltOk 2 (· == 8) f.mdRm },
    { opc := 0x043, make := .ffma, warp := fun f => f.fltOk 3 (· == 8) f.mdRmNeg },
    { opc := 0x044, make := .fmin, warp := fun f => f.fltOk 2 tyFlt f.mdUd },
    { opc := 0x045, make := .fmax, warp := fun f => f.fltOk 2 tyFlt f.mdUd },
    { opc := 0x046, make := .fcmp, warp := fun f => f.cmpOk tyFlt false 7 } ]

/-- Rows of the opcode map in format RR (R328), part 2. -/
def rrRows2 : List (OpRow RR) :=
  [ { opc := 0x047, make := .fclass, warp := fun f => f.fltOk 1 tyFlt f.mdUd },
    { opc := 0x048, make := .frcp, warp := fun f => f.fltOk 1 (· == 8) f.mdRm },
    { opc := 0x049, make := .frsq, warp := fun f => f.fltOk 1 (· == 8) f.mdRm },
    { opc := 0x04A, make := .fsqrt, warp := fun f => f.fltOk 1 (· == 8) f.mdRm },
    { opc := 0x04B, make := .fexp2, warp := fun f => f.fltOk 1 (· == 8) f.mdRm },
    { opc := 0x04C, make := .flog2, warp := fun f => f.fltOk 1 (· == 8) f.mdRm },
    { opc := 0x04D, make := .ftanh, warp := fun f => f.fltOk 1 (· == 8) f.mdRm },
    { opc := 0x04E, make := .fdiv, warp := fun f => f.fltOk 2 (· == 8) f.mdRm },
    { opc := 0x04F, make := .fscale, warp := fun f => f.fltOk 2 (· == 8) f.mdRm },
    { opc := 0x051, make := .hadd2, warp := fun f => f.fltOk 2 (fun t => t == 9 || t == 10) f.mdRm },
    { opc := 0x052, make := .hmul2, warp := fun f => f.fltOk 2 (fun t => t == 9 || t == 10) f.mdRm },
    { opc := 0x053, make := .hfma2, warp := fun f => f.fltOk 3 (fun t => t == 9 || t == 10) f.mdRmNeg },
    { opc := 0x080, make := .cvt, warp := fun f =>
      tyCvt f.ty && tyCvt (f.sc.extractLsb' 0 5) && f.sc.extractLsb' 5 3 == 0 && !f.cS && f.mdRmSat && sbdOk f.sbd &&
      f.dstOk (ty64 f.ty) && srcOk f.sa f.aS (ty64 (f.sc.extractLsb' 0 5)) && unused f.sb f.bS && (!f.ud || f.aS) },
    { opc := 0x081, make := .cvtpk, warp := fun f => (if positions f.ty = 2 then f.fltOk 2 tyCvtpk f.mdRmSat else f.fltOk 3 tyCvtpk f.mdRmSat) },
    { opc := 0x082, make := .cvtq, warp := fun f => f.fltOk 3 tyCvtq f.mdRmSat },
    { opc := 0x083, make := .frnd, warp := fun f => f.fltOk 1 (· == 8) f.mdRm } ]

/-- Rows of the opcode map in format RR (R328), part 3. -/
def rrRows3 : List (OpRow RR) :=
  [ { opc := 0x090, make := .mov, warp := fun f => f.intOk 1 },
    { opc := 0x092, make := .movs, warp := fun f =>
      tyInt f.ty && f.mdUd && f.ud && sbdOk f.sbd && f.dstOk false && !f.aS && srcOk f.sa false (ty64 f.ty) &&
      unused f.sb f.bS && unused f.sc f.cS },
    { opc := 0x093, make := .shfl, warp := fun f =>
      tyInt f.ty && f.md.extractLsb' 0 4 == 0 && !f.ud && sbdOk f.sbd && f.dstOk (ty64 f.ty) &&
      srcOk f.sa f.aS (ty64 f.ty) && srcOk f.sb f.bS false && f.cS && decide (f.sc.toNat < 64) },
    { opc := 0x094, make := .vote, warp := fun f =>
      (f.ty == 0 || f.ty == 1) && f.md.extractLsb' 0 4 == 0 && decide (f.sub2 ≤ 2) && sbdOk f.sbd && f.dstOk false &&
      srcOk f.sa f.aS false && unused f.sb f.bS && f.cS && decide (f.sc.toNat < 64) },
    { opc := 0x095, make := .matchLanes, warp := fun f =>
      tyInt f.ty && f.md.extractLsb' 0 4 == 0 && decide (f.sub2 ≤ 1) && !(f.ud && f.sub2 == 0) && sbdOk f.sbd &&
      f.dstOk false && srcOk f.sa f.aS (ty64 f.ty) && unused f.sb f.bS && f.cS && decide (f.sc.toNat < 64) },
    { opc := 0x096, make := .redux, warp := fun f =>
      tyInt f.ty && f.md.extractLsb' 0 3 == 0 && decide (f.sub3 ≤ 5) && sbdOk f.sbd &&
      f.dstOk (ty64 f.ty) && srcOk f.sa f.aS (ty64 f.ty) && unused f.sb f.bS && f.cS && decide (f.sc.toNat < 64) },
    { opc := 0x097, make := .bcast, warp := fun f =>
      tyInt f.ty && f.mdUd && sbdOk f.sbd && f.dstOk (ty64 f.ty) && srcOk f.sa f.aS (ty64 f.ty) &&
      f.bS && decide (f.sb.toNat < 64) && f.cS && decide (f.sc.toNat < 64) },
    { opc := 0x098, make := .bsel, warp := fun f => f.fltOk 3 (· == 0) f.mdUd },
    { opc := 0x099, make := .getsp, warp := fun f =>
      decide (f.sa.toNat ≤ 9) && !f.aS && f.ty == 0 && f.mdUd && sbdOk f.sbd &&
      f.dstOk (f.sa == 7 || f.sa == 9) && !(f.sa == 0 && f.ud) && unused f.sb f.bS && unused f.sc f.cS },
    { opc := 0x0B8, make := .warpsync, warp := fun f => f.dst == 0 && f.aS && decide (f.sa.toNat < 64) && unused f.sb f.bS && unused f.sc f.cS && f.ty == 0 && f.md == 0 && f.sbd == 0 },
    { opc := 0x100, make := .cpy, warp := fun f => f.sysOk 0 1 1 1 false (f.ty == 0 && !f.md.getLsbD 6) },
    { opc := 0x101, make := .cpyl, var := fun f => !f.ty.getLsbD 2, warp := fun f =>
      predCode f.dst && sysSrc f.sa f.aS 1 && sysSrc f.sb f.bS 1 && unused f.sc f.cS && f.sbd == 0 &&
      f.ty.extractLsb' 2 3 == 0 && decide ((f.ty.extractLsb' 0 2).toNat ≤ 2) && !f.md.getLsbD 6 },
    { opc := 0x101, make := .cpylSt, var := fun f => f.ty.getLsbD 2, warp := fun f => predCode f.dst && sysSrc f.sa f.aS 1 && sysSrc f.sb f.bS 1 && unused f.sc f.cS && f.sbd == 0 && f.ty == 4 && !f.md.getLsbD 6 },
    { opc := 0x102, make := .cwany, warp := fun f => f.sysOk 1 1 0 0 true (f.ty == 0 && f.md == 0) },
    { opc := 0x103, make := .cwall, warp := fun f => f.sysOk 0 1 0 0 false (f.ty == 0 && f.md == 0) },
    { opc := 0x104, make := .cfind, warp := fun f => f.sysOk 1 1 0 0 true (f.ty == 0 && f.md == 0) } ]

/-- Rows of the opcode map in format RR (R328), part 4. -/
def rrRows4 : List (OpRow RR) :=
  [ { opc := 0x108, make := .bara, warp := fun f => f.sysOk 0 0 0 0 false (f.md.extractLsb' 4 3 == 0) },
    { opc := 0x109, make := .barw, warp := fun f => f.sysOk 1 0 0 0 false (f.ty == 0 && f.md.extractLsb' 4 3 == 0) },
    { opc := 0x10A, make := .bar, warp := fun f => f.sysOk 1 0 0 0 false (f.md.extractLsb' 4 3 == 0) },
    { opc := 0x10B, make := .fence, warp := fun f => f.sysOk 0 0 0 0 false (f.ty == 0 && f.md.extractLsb' 3 4 == 0 && decide ((f.md.extractLsb' 0 3).toNat ≤ 4)) },
    { opc := 0x10C, make := .xfence, warp := fun f =>
      f.sysOk 0 0 0 0 false (f.ty != 0 && f.md.extractLsb' 5 2 == 0 && f.md.extractLsb' 3 2 != 0 &&
      xfenceScopeOk (f.md.extractLsb' 0 3).toNat f.ty) },
    { opc := 0x110, make := .give, var := fun f => !f.md.getLsbD 3, warp := fun f => f.sysOk 0 0 0 0 false (f.md.extractLsb' 3 4 == 0) },
    { opc := 0x110, make := .giveSeq, var := fun f => f.md.getLsbD 3, warp := fun f => f.sysOk 0 0 0 0 false (f.ty == 0 && f.md.extractLsb' 3 4 == 1) },
    { opc := 0x111, make := .take, var := fun f => !f.md.getLsbD 3, warp := fun f => f.sysOk 1 1 0 0 true (f.ty == 0 && f.md.extractLsb' 3 4 == 0) },
    { opc := 0x111, make := .takeAny, var := fun f => f.md.getLsbD 3, warp := fun f => f.sysOk 1 0 0 0 true (f.ty == 0 && f.md.extractLsb' 3 4 == 1) },
    { opc := 0x112, make := .town, warp := fun f => f.sysOk 1 1 0 0 true (f.ty == 0 && f.md == 0) },
    { opc := 0x113, make := .tfree, warp := fun f => f.sysOk 0 0 0 0 false (f.ty == 0 && f.md.extractLsb' 3 4 == 0) },
    { opc := 0x114, make := .tgrab, warp := fun f => f.sysOk 1 0 0 0 true (f.ty == 0 && f.md.extractLsb' 3 4 == 0) },
    { opc := 0x140, make := .coll, warp := fun f => f.sysOk 0 1 0 0 false (f.ty == 0 && f.md == 0) },
    { opc := 0x141, make := .collw, warp := fun f => f.sysOk 1 1 0 0 true (f.ty == 0 && f.md == 0) },
    { opc := 0x142, make := .collq, warp := fun f => f.sysOk 1 1 0 0 true (f.ty == 0 && f.md == 0) },
    { opc := 0x143, make := .collx, warp := fun f => f.sysOk 1 1 0 0 true (f.ty == 0 && f.md == 0) } ]

/-- Rows of the opcode map in format RR (R328), part 5. -/
def rrRows5 : List (OpRow RR) :=
  [ { opc := 0x148, make := .sigclaim, warp := fun f => f.sysOk 8 0 0 0 true (f.ty == 0 && f.md == 0) },
    { opc := 0x149, make := .sigdone, warp := fun f => f.sysOk 1 8 0 0 true (f.ty == 0 && f.md == 0) },
    { opc := 0x14A, make := .sigyield, warp := fun f => f.sysOk 1 8 0 0 true (f.ty == 0 && f.md == 0) },
    { opc := 0x14B, make := .sigstage, warp := fun f => f.sysOk 0 8 0 0 false (f.ty == 0 && f.md == 0) },
    { opc := 0x14C, make := .sigswap, warp := fun f => f.sysOk 1 0 0 0 true (f.ty == 0 && f.md == 0) },
    { opc := 0x14D, make := .sigread, warp := fun f => f.sysOk 8 0 0 0 true (f.ty == 0 && f.md == 0) },
    { opc := 0x150, make := .taskget, warp := fun f => f.sysOk 4 0 0 0 true (f.ty == 0 && f.md == 0) },
    { opc := 0x151, make := .taskput, warp := fun f => f.sysOk 1 1 1 0 true (f.ty == 0 && f.md == 0) },
    { opc := 0x152, make := .taskend, warp := fun f => f.sysOk 0 0 0 0 false (f.ty == 0 && f.md == 0) },
    { opc := 0x153, make := .slotget, warp := fun f => f.sysOk 2 1 0 0 true (f.ty == 0 && f.md.extractLsb' 1 6 == 0) },
    { opc := 0x154, make := .slotpost, var := fun f => !f.md.getLsbD 1, warp := fun f => f.sysOk 0 1 1 0 false (f.ty == 0 && f.md.extractLsb' 1 6 == 0) },
    { opc := 0x154, make := .slotpostEnd, var := fun f => f.md.getLsbD 1, warp := fun f => f.sysOk 0 1 0 0 false (f.ty == 0 && f.md == 2) },
    { opc := 0x158, make := .ccinc, warp := fun f => f.sysOk 0 1 1 0 false (f.ty == 0 && f.md == 0) },
    { opc := 0x159, make := .cancel, warp := fun f => f.sysOk 1 1 0 0 true (f.ty == 0 && f.md == 0) },
    { opc := 0x164, make := .felrd, warp := fun f => f.sysOk 2 0 0 0 false (f.ty == 0 && f.md.extractLsb' 2 5 == 0) },
    { opc := 0x165, make := .clock, warp := fun f => f.sysOk 1 0 0 0 false (f.ty == 0 && f.md.extractLsb' 1 6 == 0) } ]

/-- Rows of the opcode map in format RR (R328), part 6. -/
def rrRows6 : List (OpRow RR) :=
  [ { opc := 0x167, make := .waitev, warp := fun f => f.sysOk 2 1 1 1 false (f.ty == 0 && f.md.extractLsb' 3 4 == 0 && decide ((f.md.extractLsb' 0 3).toNat ≤ 4)) },
    { opc := 0x168, make := .postev, warp := fun f => f.sysOk 0 1 0 0 false (f.ty == 0 && f.md == 0) },
    { opc := 0x169, make := .qpush, warp := fun f => f.sysOk 1 4 1 0 true (f.ty == 0 && f.md == 0) },
    { opc := 0x16A, make := .stream, warp := fun f => f.sysOk 1 1 0 0 true (f.md == 0 && (decide (f.ty.toNat ≤ 23) || f.ty == 31)) },
    { opc := 0x283, make := .anym, slot := inS fun f => qOk f.dst && mOk f.sa && f.sb == 0 && f.sc == 0 && f.sPlain },
    { opc := 0x284, make := .allm, slot := inS fun f => qOk f.dst && mOk f.sa && f.sb == 0 && f.sc == 0 && f.sPlain },
    { opc := 0x285, make := .cmpt, slot := inS fun f => f.dst == 0 && f.sc == 0 && f.sPlain && ((xOk f.sa && xOk f.sb) || (qOk f.sa && qOk f.sb) || (mOk f.sa && mOk f.sb)) },
    { opc := 0x286, make := .hset, slot := inS fun f => hOk f.dst && xOk f.sa && f.sb == 0 && f.sc == 0 && f.sPlain },
    { opc := 0x289, make := .hqry, slot := inS fun f => (xOk f.dst || qOk f.dst) && hOk f.sa && f.sb == 0 && f.sc == 0 && f.sPlain },
    { opc := 0x28D, make := .scalew, slot := inS fun f => f.dst == 0 && xOk f.sa && xOk f.sb && f.sc == 0 && f.sPlain },
    { opc := 0x28E, make := .scaleg, slot := inS fun f => xOk f.dst && xOk f.sa && f.sb == 0 && f.sc == 0 && f.sPlain } ]

/-- The opcode map of format RR (R328). -/
def rrRows : List (OpRow RR) := rrRows0 ++ rrRows1 ++ rrRows2 ++ rrRows3 ++ rrRows4 ++ rrRows5 ++ rrRows6

/-- Rows of the opcode map in format RI (R328), part 0. -/
def riRows0 : List (OpRow RI) :=
  [ { opc := 0x020, make := .iaddi, warp := fun f =>
      (if f.us.getLsbD 1 then decide (f.dst.toNat < 64) && f.us.getLsbD 0 else true) &&
      (!f.us.getLsbD 0 || decide (f.sa.toNat < 64)), slot := inS fun f => f.us == 0 && xlOk f.dst && xlOk f.sa },
    { opc := 0x021, make := .imuli, warp := fun f =>
      (if f.us.getLsbD 1 then decide (f.dst.toNat < 64) && f.us.getLsbD 0 else true) &&
      (!f.us.getLsbD 0 || decide (f.sa.toNat < 64)), slot := inS fun f => f.us == 0 && xlOk f.dst && xlOk f.sa },
    { opc := 0x022, make := .andi, warp := fun f =>
      (if f.us.getLsbD 1 then decide (f.dst.toNat < 64) && f.us.getLsbD 0 else true) &&
      (!f.us.getLsbD 0 || decide (f.sa.toNat < 64)), slot := inS fun f => f.us == 0 && xlOk f.dst && xlOk f.sa },
    { opc := 0x023, make := .ori, warp := fun f =>
      (if f.us.getLsbD 1 then decide (f.dst.toNat < 64) && f.us.getLsbD 0 else true) &&
      (!f.us.getLsbD 0 || decide (f.sa.toNat < 64)), slot := inS fun f => f.us == 0 && xlOk f.dst && xlOk f.sa },
    { opc := 0x024, make := .xori, warp := fun f =>
      (if f.us.getLsbD 1 then decide (f.dst.toNat < 64) && f.us.getLsbD 0 else true) &&
      (!f.us.getLsbD 0 || decide (f.sa.toNat < 64)), slot := inS fun f => f.us == 0 && xlOk f.dst && xlOk f.sa },
    { opc := 0x025, make := .icmpi, warp := fun f =>
      !f.us.getLsbD 1 && !f.dst.getLsbD 3 && (decide ((f.dst.extractLsb' 4 4).toNat ≤ 5) ||
      (decide (8 ≤ (f.dst.extractLsb' 4 4).toNat) && decide ((f.dst.extractLsb' 4 4).toNat ≤ 11))) &&
      (!f.us.getLsbD 0 || decide (f.sa.toNat < 64)), slot := inS fun f => 
      f.us == 0 && !f.dst.getLsbD 3 && xlOk f.sa && (decide ((f.dst.extractLsb' 4 4).toNat ≤ 5) ||
      (decide (8 ≤ (f.dst.extractLsb' 4 4).toNat) && decide ((f.dst.extractLsb' 4 4).toNat ≤ 11))) },
    { opc := 0x091, make := .movi, warp := fun f => f.sa == 0 && !f.us.getLsbD 0 && (!f.us.getLsbD 1 || decide (f.dst.toNat < 64)) },
    { opc := 0x160, make := .trap, warp := fun f => f.dst == 0 && f.sa == 0 && f.us == 0 && f.imm.extractLsb' 16 16 == 0 },
    { opc := 0x162, make := .getctl, warp := fun f =>
      f.sa == 0 && f.us == 2 && decide (f.dst.toNat < 64) && f.imm.extractLsb' 12 20 == 0 && ctlWarp (f.imm.extractLsb' 0 12).toNat &&
      f.imm.extractLsb' 0 12 != 3, slot := inS fun f => f.sa == 0 && f.us == 0 && xOk f.dst && f.imm.extractLsb' 12 20 == 0 && ctlSeq (f.imm.extractLsb' 0 12).toNat },
    { opc := 0x163, make := .setctl, warp := fun f =>
      f.dst == 0 && f.us == 1 && decide (f.sa.toNat < 64) && f.imm.extractLsb' 12 20 == 0 &&
      (let n := (f.imm.extractLsb' 0 12).toNat
       decide (n ≤ 3) || n == 0x11 || n == 0x15 || n == 0x16), slot := inS fun f => f.dst == 0 && f.us == 0 && xOk f.sa && f.imm.extractLsb' 12 20 == 0 && decide ((f.imm.extractLsb' 0 12).toNat ≤ 1) },
    { opc := 0x166, make := .bkpt, warp := fun f => f.dst == 0 && f.sa == 0 && f.us == 0 && f.imm.extractLsb' 16 16 == 0 },
    { opc := 0x287, make := .hadvp, slot := inS fun f => hOk f.dst && f.sa == 0 && f.us == 0 && decide (f.imm.toNat ≤ 32) },
    { opc := 0x288, make := .hadvc, slot := inS fun f => hOk f.dst && f.sa == 0 && f.us == 0 && decide (f.imm.toNat ≤ 32) },
    { opc := 0x28A, make := .sgive, slot := inS fun f => f.dst == 0 && f.sa == 0 && f.us == 0 && f.imm.extractLsb' 13 19 == 0 && !f.imm.getLsbD 7 },
    { opc := 0x28B, make := .stake, slot := inS fun f => f.dst == 0 && f.sa == 0 && f.us == 0 && f.imm.extractLsb' 7 25 == 0 } ]

/-- The opcode map of format RI (R328). -/
def riRows : List (OpRow RI) := riRows0

/-- Rows of the opcode map in format MEM (R328), part 0. -/
def memRows0 : List (OpRow MEM) :=
  [ { opc := 0x0D0, make := .ld, warp := fun f => f.common && memBaseOk f.base && memDataOk f.data f.sz && (f.ord == 0 || f.ord == 1) },
    { opc := 0x0D1, make := .st, warp := fun f => f.common && memBaseOk f.base && memDataOk f.data f.sz && (f.ord == 0 || f.ord == 2) },
    { opc := 0x0D2, make := .atom, warp := fun f => f.atomOk && atopOk f.atop f.sz },
    { opc := 0x0D3, make := .atomc, warp := fun f => f.atomOk && f.atop == 0 && decide (f.data.toNat + 2 * (1 <<< (f.sz.toNat - 2)) ≤ 256) },
    { opc := 0x0D4, make := .red, warp := fun f => f.atomOk && atopOk f.atop f.sz && f.atop != 8 && (f.ord == 0 || f.ord == 2) },
    { opc := 0x0D5, make := .pref, warp := fun f => decide (f.data.toNat ≤ 1) && memBaseOk f.base && decide (f.sp.toNat ≤ 5) && f.sz == 0 && f.ord == 0 && f.scope == 0 && f.sbd == 0 },
    { opc := 0x0D6, make := .cctl, warp := fun f => decide (f.data.toNat ≤ 1) && memBaseOk f.base && decide (f.sp.toNat ≤ 5) && f.sz == 0 && f.ord == 0 && f.scope == 0 && f.sbd == 0 },
    { opc := 0x0D7, make := .ldc, warp := fun f =>
      f.common && (f.base.getLsbD 0 && (decide (f.base.toNat ≤ 0x7F) || f.base == 0xFF)) &&
      decide (f.data.toNat < 64) && (f.sz != 4 || !f.data.getLsbD 0) && (f.ord == 0 || f.ord == 1) },
    { opc := 0x280, make := .xld, slot := inS fun f => f.sCommon && (f.sp == 2 || f.sp == 4) && (f.ord == 0 || f.ord == 1) },
    { opc := 0x281, make := .xst, slot := inS fun f => f.sCommon && decide (f.sp.toNat ≤ 5) && (f.ord == 0 || f.ord == 2) },
    { opc := 0x282, make := .xldg, slot := inS fun f => f.sCommon && (f.sp == 0 || f.sp == 1 || f.sp == 3 || f.sp == 4 || f.sp == 5) && (f.ord == 0 || f.ord == 1) },
    { opc := 0x3A0, make := .tld, slot := inC fun f => f.tileOk true false },
    { opc := 0x3A1, make := .tst, slot := inC fun f => f.tileOk false false },
    { opc := 0x3A2, make := .tsld, slot := inC fun f => f.tileOk true true },
    { opc := 0x3A3, make := .tsst, slot := inC fun f => f.tileOk false true },
    { opc := 0x3A5, make := .tldx, slot := inC fun f => f.tileOk false false } ]

/-- Rows of the opcode map in format MEM (R328), part 1. -/
def memRows1 : List (OpRow MEM) :=
  [ { opc := 0x3A6, make := .cfence, slot := inC fun f => f.data == 0 && f.base == 0 && f.off == 0 && f.sp == 0 && f.sz == 0 && f.ord == 0 && f.sbd == 0 && decide (f.scope.toNat ≤ 4) } ]

/-- The opcode map of format MEM (R328). -/
def memRows : List (OpRow MEM) := memRows0 ++ memRows1

/-- Rows of the opcode map in format BR (R328), part 0. -/
def brRows0 : List (OpRow BR) :=
  [ { opc := 0x0B0, make := .bra, warp := fun f => f.md == 0 && f.tgt.extractLsb' 0 3 == 0 },
    { opc := 0x0B1, make := .brx, var := fun f => !f.md.getLsbD 17, warp := fun f => f.md == 0 && f.tgt.extractLsb' 0 3 == 0 },
    { opc := 0x0B1, make := .brxG, var := fun f => f.md.getLsbD 17, warp := fun f => f.md == 0x20000 && f.tgt.extractLsb' 0 3 == 0 },
    { opc := 0x0B2, make := .join, warp := fun f => f.md == 0 && f.tgt == 0 && f.g == 7 },
    { opc := 0x0B3, make := .call, warp := fun f => f.md == 0 && f.tgt.extractLsb' 0 3 == 0 },
    { opc := 0x0B4, make := .ret, warp := fun f => f.md == 0 && f.tgt == 0 && f.g == 7 },
    { opc := 0x0B5, make := .exit, warp := fun f => f.md == 0 && f.tgt == 0 },
    { opc := 0x0B6, make := .yield, warp := fun f => f.md == 0 && f.tgt == 0 },
    { opc := 0x0B7, make := .bri, warp := fun f => f.tgt == 0 && f.md.extractLsb' 8 10 == 0 && memBaseOk (f.md.extractLsb' 0 8) && f.md.extractLsb' 0 8 != 0xFF },
    { opc := 0x161, make := .rft, warp := fun f => f.md == 0 && f.tgt == 0 && f.g == 7 },
    { opc := 0x3C0, make := .sbr, slot := inB fun f => f.md == 0 && f.tgt.extractLsb' 0 6 == 0 },
    { opc := 0x3C1, make := .sbrq, slot := inB fun f => f.md.extractLsb' 4 14 == 0 && f.tgt.extractLsb' 0 6 == 0 },
    { opc := 0x3C2, make := .loopi, slot := inB fun f => f.tgt.extractLsb' 0 6 == 0 },
    { opc := 0x3C3, make := .loopb, slot := inB fun f => f.md.extractLsb' 0 16 == 0 && f.tgt.extractLsb' 0 6 == 0 },
    { opc := 0x3C4, make := .syncl, slot := inB fun f => f.md == 0 && f.tgt == 0 },
    { opc := 0x3C5, make := .shalt, slot := inB fun f => f.md == 0 && f.tgt == 0 } ]

/-- Rows of the opcode map in format BR (R328), part 1. -/
def brRows1 : List (OpRow BR) :=
  [ { opc := 0x3C6, make := .scall, slot := inB fun f => f.md == 0 && f.tgt.extractLsb' 0 6 == 0 },
    { opc := 0x3C7, make := .sret, slot := inB fun f => f.md == 0 && f.tgt == 0 },
    { opc := 0x3C8, make := .sbrm, slot := inB fun f => f.md.extractLsb' 3 15 == 0 && f.tgt.extractLsb' 0 6 == 0 } ]

/-- The opcode map of format BR (R328). -/
def brRows : List (OpRow BR) := brRows0 ++ brRows1

/-- Rows of the opcode map in format TILE (R328), part 0. -/
def tileRows0 : List (OpRow TILE) :=
  [ { opc := 0x300, make := .vadd, slot := inV fun f => f.vOk 2 tyFlt true },
    { opc := 0x301, make := .vsub, slot := inV fun f => f.vOk 2 tyFlt true },
    { opc := 0x302, make := .vmul, slot := inV fun f => f.vOk 2 tyFlt true },
    { opc := 0x303, make := .vfma, slot := inV fun f => f.vOk 3 tyFlt true },
    { opc := 0x304, make := .vmin, slot := inV fun f => f.vOk 2 (fun t => tyFlt t || t == 0 || t == 1) false },
    { opc := 0x305, make := .vmax, slot := inV fun f => f.vOk 2 (fun t => tyFlt t || t == 0 || t == 1) false },
    { opc := 0x306, make := .vabs, slot := inV fun f => f.vOk 1 (fun t => tyFlt t || t == 0) false },
    { opc := 0x307, make := .vexp2, slot := inV fun f => f.vOk 1 (· == 8) true },
    { opc := 0x308, make := .vtanh, slot := inV fun f => f.vOk 1 (· == 8) true },
    { opc := 0x309, make := .vrcp, slot := inV fun f => f.vOk 1 (· == 8) true },
    { opc := 0x30A, make := .vrsq, slot := inV fun f => f.vOk 1 (· == 8) true },
    { opc := 0x30B, make := .vcmp, slot := inV fun f => 
      ty32 f.ty && f.ax == 0 && f.menOk && (decide (f.sub ≤ 5) || (f.ty == 8 && decide (f.sub ≤ 7))) &&
      tmOk f.dt && thOk f.ta && thOk f.tb && f.tc == 0 },
    { opc := 0x30C, make := .vsel, slot := inV fun f => f.ty == 0 && f.ax == 0 && f.menOk && f.sub == 0 && thOk f.dt && thOk f.ta && thOk f.tb && tmOk f.tc },
    { opc := 0x30D, make := .vcvt, slot := inV fun f => 
      let st := f.tb.extractLsb' 0 5
      tyVcvt f.ty && tyVcvt st && (ty32 f.ty || ty32 st) && f.ax == 0 && f.menOk && rmOk f.rm && thOk f.dt && thOk f.ta && f.tc == 0 &&
      partOk (if ty32 f.ty then st else f.ty) f.tb },
    { opc := 0x30E, make := .vmaxe, slot := inV fun f => tyCvtq f.ty && f.ax == 0 && f.md == 0 && f.dt == 0 && thOk f.ta && f.tb == 0 && f.tc == 0 },
    { opc := 0x30F, make := .vcvtq, slot := inV fun f => tyCvtq f.ty && f.tb.extractLsb' 0 5 == 0 && f.ax == 0 && f.menOk && rmOk f.rm && thOk f.dt && thOk f.ta && f.tc == 0 && partOk f.ty f.tb } ]

/-- Rows of the opcode map in format TILE (R328), part 1. -/
def tileRows1 : List (OpRow TILE) :=
  [ { opc := 0x310, make := .vrotr, slot := inV fun f => f.rotOk 63 },
    { opc := 0x311, make := .vrotc, slot := inV fun f => f.rotOk 15 },
    { opc := 0x312, make := .vbcr, slot := inV fun f => f.rotOk 63 },
    { opc := 0x313, make := .vbcc, slot := inV fun f => f.rotOk 15 },
    { opc := 0x314, make := .vredr, slot := inV fun f => f.redOk },
    { opc := 0x315, make := .vredc, slot := inV fun f => f.redOk },
    { opc := 0x316, make := .vmov, slot := inV fun f => f.vOk 1 (· == 0) false },
    { opc := 0x317, make := .vand, slot := inV fun f => f.vOk 2 (· == 0) false },
    { opc := 0x318, make := .vor, slot := inV fun f => f.vOk 2 (· == 0) false },
    { opc := 0x319, make := .vxor, slot := inV fun f => f.vOk 2 (· == 0) false },
    { opc := 0x31A, make := .vshl, slot := inV fun f => f.vOk 2 (· == 0) false },
    { opc := 0x31B, make := .vshr, slot := inV fun f => f.vOk 2 (fun t => t == 0 || t == 1) false },
    { opc := 0x31C, make := .viota, slot := inV fun f => f.ty == 0 && f.menOk && f.sub == 0 && thOk f.dt && f.ta == 0 && f.tb == 0 && f.tc == 0 },
    { opc := 0x31D, make := .viadd, slot := inV fun f => f.vOk 2 (fun t => t == 0 || t == 1) false },
    { opc := 0x31E, make := .vimul, slot := inV fun f => f.vOk 2 (fun t => t == 0 || t == 1) false },
    { opc := 0x31F, make := .vrelu, slot := inV fun f => f.vOk 1 (fun t => tyFlt t || t == 0) false } ]

/-- Rows of the opcode map in format TILE (R328), part 2. -/
def tileRows2 : List (OpRow TILE) :=
  [ { opc := 0x320, make := .vscale, slot := inV fun f => f.vOk 2 (· == 8) true },
    { opc := 0x380, make := .mma, slot := inM fun f => tyMma f.ty && f.ax == 0 && f.md.extractLsb' 0 6 == 0 && tOk f.dt && thOk f.ta && thOk f.tb && (if f.ty == 15 then thOk f.tc else f.tc == 0) },
    { opc := 0x381, make := .mloop, slot := inM fun f => tyMma f.ty && f.ax == 0 && tOk f.dt && thOk f.ta && thOk f.tb && (if f.ty == 15 then thOk f.tc else f.tc == 0) && f.loopOk (f.ty == 15) },
    { opc := 0x382, make := .mzero, slot := inM fun f => f.ty == 0 && f.ax == 0 && f.md == 0 && thOk f.dt && f.ta == 0 && f.tb == 0 && f.tc == 0 },
    { opc := 0x383, make := .mtrn, slot := inM fun f => f.ty == 4 && f.ax == 0 && f.md.extractLsb' 0 6 == 0 && decide (f.kq ≤ 1) && tOk f.dt && thOk f.ta && thOk f.tb && f.tc == 0 },
    { opc := 0x384, make := .mloopt, slot := inM fun f => f.ty == 4 && f.ax == 0 && decide (f.kq ≤ 1) && tOk f.dt && thOk f.ta && thOk f.tb && f.tc == 0 && f.loopOk false },
    { opc := 0x385, make := .mstat, slot := inM fun f => f.ty == 8 && f.ax == 0 && f.md == 0 && tmOk f.dt && thOk f.ta && f.tb == 0 && f.tc == 0 },
    { opc := 0x3A4, make := .tcpy, slot := inC fun f => f.ty == 0 && f.ax == 0 && f.md == 0 && thOk f.dt && thOk f.ta && f.tb == 0 && f.tc == 0 } ]

/-- The opcode map of format TILE (R328). -/
def tileRows : List (OpRow TILE) := tileRows0 ++ tileRows1 ++ tileRows2

/-- Who meets a word: a warp or a slot of a bundle. -/
inductive Agent where
  | warp
  | slot (sl : Slot)
  deriving DecidableEq, Repr

/-- Is the row's encoding legal for the agent? -/
def OpRow.legal {F : Type} (r : OpRow F) : Agent → F → Bool
  | .warp, f => r.warp f
  | .slot sl, f => r.slot sl f

/-- The row of an opcode and a word's fields. -/
def rowOf {F : Type} (rows : List (OpRow F)) (opc : Nat) (f : F) : Option (OpRow F) :=
  rows.find? fun r => decide (r.opc = opc) && r.var f

/-- Read a word in one format. -/
def decodeIn {F : Type} (rows : List (OpRow F)) (opc : Nat) (ag : Agent) (f : F) : Option (Except DecodeError Instr) :=
  (rowOf rows opc f).map fun r => if r.legal ag f then .ok (r.make f) else .error (.illegalField opc)

/-- The instruction an agent reads from a word (R309-R329). -/
def decodeFor (ag : Agent) (w : Word64) : Except DecodeError Instr :=
  let opc := (w.extractLsb' 54 10).toNat
  if opc = 0 then
    if (NopF.ofWord w).body == 0 then .ok (.nop (NopF.ofWord w)) else .error (.illegalField 0)
  else match decodeIn rrRows opc ag (RR.ofWord w) with
  | some r => r
  | none => match decodeIn riRows opc ag (RI.ofWord w) with
  | some r => r
  | none => match decodeIn memRows opc ag (MEM.ofWord w) with
  | some r => r
  | none => match decodeIn brRows opc ag (BR.ofWord w) with
  | some r => r
  | none => match decodeIn tileRows opc ag (TILE.ofWord w) with
  | some r => r
  | none => .error (.unknownOpcode opc)

/-- A word of a warp clause (R323, R329). -/
def decodeWarp (w : Word64) : Except DecodeError Instr := decodeFor .warp w

/-- A word of a bundle slot (R325, R329). -/
def decodeSlot (sl : Slot) (w : Word64) : Except DecodeError Instr := decodeFor (.slot sl) w

/-- The slots in the order R268 numbers them. -/
def Slot.all : List Slot := [.b, .s, .v0, .v1, .m, .c0, .c1]

/-- The first slot that accepts a word. -/
def slotFor (w : Word64) : Option Slot := Slot.all.find? (fun sl => match decodeSlot sl w with | .ok _ => true | .error _ => false)

/-- The instruction the decoder reads from an instruction whose bits are w: as a warp word, and where a warp has no such word, as a word of the first bundle slot that accepts it. -/
def decodeTableWord (nbits w : Nat) : Option Instr :=
  let x : Word64 := BitVec.ofNat 64 (w % 2 ^ nbits)
  match decodeWarp x with
  | .ok i => some i
  | .error _ => match slotFor x with
    | some sl => (decodeSlot sl x).toOption
    | none => none

/-! Bytes, least significant first (R42, R309). -/

/-- The number n bytes hold. -/
def leNat : List Byte → Nat
  | [] => 0
  | b :: t => b.toNat + 256 * leNat t

/-- The n low bytes of a number. -/
def leBytes : Nat → Nat → List Byte
  | 0, _ => []
  | n + 1, x => BitVec.ofNat 8 x :: leBytes n (x / 256)

/-- A field of a record: n bytes at an offset. -/
def fieldAt (r : List Byte) (off n : Nat) : Nat := leNat ((r.drop off).take n)

/-! Command records (R210). -/

/-- The command TYPEs (R210). -/
def cmdTypes : List (Nat × Instr) :=
  [(1, .launch), (2, .graph), (3, .copy), (4, .wait), (5, .signal), (6, .collCommand), (7, .cancelCommand), (8, .phaseEnd)]

/-- The command of a 64-byte record of a queue, or of a graph's command array, and its fields. -/
def decodeCommand (q : Nat) (graph : Option Nat) (r : List Byte) : Except DecodeError (Instr × Cmd) :=
  if r.length ≠ 64 then .error .badLength
  else match Assoc.find cmdTypes (fieldAt r 0 1) with
    | none => .error (.reservedType (fieldAt r 0 1))
    | some i => .ok (i, ⟨q, graph, BitVec.ofNat 8 (fieldAt r 1 1), BitVec.ofNat 48 (fieldAt r 2 6), BitVec.ofNat 64 (fieldAt r 8 8),
        BitVec.ofNat 64 (fieldAt r 16 8), BitVec.ofNat 64 (fieldAt r 24 8), BitVec.ofNat 256 (fieldAt r 32 32)⟩)

/-- The record of a command of TYPE t. -/
def Cmd.toBytes (t : Nat) (c : Cmd) : List Byte :=
  BitVec.ofNat 8 t :: c.flags :: (leBytes 6 c.rsv1.toNat ++ leBytes 8 c.a.toNat ++ leBytes 8 c.b.toNat ++ leBytes 8 c.c.toNat ++ leBytes 32 c.rsv2.toNat)

/-- The key of an item in a table of numbered steps. -/
def codeOf (t : List (Nat × Instr)) (i : Instr) : Option Nat := (t.find? (fun e => e.2 == i)).map Prod.fst

/-- The record of a command. -/
def encodeCommand (i : Instr) (c : Cmd) : Option (List Byte) := (codeOf cmdTypes i).map c.toBytes

/-! Bridge messages (R142, R143). -/

/-- The short messages' TYPEs (R143). -/
def shortTypes : List (Nat × Instr) :=
  [(0x01, .rds), (0x02, .rdx), (0x03, .upg), (0x05, .evc), (0x06, .atm), (0x07, .ncr), (0x08, .ncw), (0x10, .inv),
   (0x11, .fwds), (0x12, .fwdi), (0x20, .gntx), (0x21, .wback), (0x22, .invack), (0x23, .fwdack), (0x24, .atmr), (0x25, .ncwack)]
/-- The line messages' TYPEs (R143). -/
def lineTypes : List (Nat × Instr) :=
  [(0x04, .wb), (0x30, .datas), (0x31, .datae), (0x32, .datam), (0x33, .fwddata), (0x34, .ncrd)]
/-- The step of a message TYPE, and whether it is a line message. -/
def msgOf (t : Nat) : Option (Instr × Bool) :=
  match Assoc.find shortTypes t with
  | some i => some (i, false)
  | none => (Assoc.find lineTypes t).map fun i => (i, true)

/-- A message that arrives at a die: 60 bytes of a short message, or 180 of a line message (R141). -/
def decodeMessage (die : Nat) (r : List Byte) : Except DecodeError (Instr × BridgeMsg) :=
  match msgOf (fieldAt r 0 1) with
  | none => .error (.reservedType (fieldAt r 0 1))
  | some (i, line) =>
    let fl := fieldAt r 4 1
    if (fl / 8 ≠ 0) ∨ fieldAt r 6 2 ≠ 0 then .error (.illegalField (fieldAt r 0 1))
    else if line then
      if r.length ≠ 180 ∨ fieldAt r 5 1 ≥ 4 ∨ fieldAt r 16 16 ≠ 0 ∨ fieldAt r 160 20 ≠ 0 then .error .badLength
      else .ok (i, ⟨die, BitVec.ofNat 8 (fieldAt r 1 1), BitVec.ofNat 16 (fieldAt r 2 2), fl % 2 = 1, fl / 2 % 2 = 1, fl / 4 % 2 = 1,
        BitVec.ofNat 8 (fieldAt r 5 1), BitVec.ofNat 64 (fieldAt r 8 8), 0, 0, 0, (r.drop 32).take 128⟩)
    else
      if r.length ≠ 60 ∨ fieldAt r 5 1 ≠ 0 then .error .badLength
      else .ok (i, ⟨die, BitVec.ofNat 8 (fieldAt r 1 1), BitVec.ofNat 16 (fieldAt r 2 2), fl % 2 = 1, fl / 2 % 2 = 1, fl / 4 % 2 = 1,
        0, BitVec.ofNat 64 (fieldAt r 8 8), BitVec.ofNat 128 (fieldAt r 16 16), BitVec.ofNat 128 (fieldAt r 32 16), BitVec.ofNat 96 (fieldAt r 48 12), []⟩)

/-- A message's bytes for TYPE t: 60 for a short message, 180 for a line message (R141, R142). -/
def BridgeMsg.toBytes (t : Nat) (line : Bool) (m : BridgeMsg) : List Byte :=
  let fl := (if m.dirty then 1 else 0) + (if m.stale then 2 else 0) + (if m.tagUnv then 4 else 0)
  let head := BitVec.ofNat 8 t :: m.status :: (leBytes 2 m.txid.toNat ++ leBytes 1 fl ++ leBytes 1 m.spois.toNat ++ leBytes 2 0 ++ leBytes 8 m.paddr.toNat)
  if line then head ++ leBytes 16 0 ++ m.data ++ leBytes 20 0
  else head ++ leBytes 16 m.opa.toNat ++ leBytes 16 m.opb.toNat ++ leBytes 12 m.opx.toNat

/-- The bytes of a bridge message. -/
def encodeMessage (i : Instr) (m : BridgeMsg) : Option (List Byte) :=
  match codeOf shortTypes i with
  | some t => some (m.toBytes t false)
  | none => (codeOf lineTypes i).map fun t => m.toBytes t true

/-! The encoder of instruction words. -/

/-- The opcode of an instruction word and the 54 bits below it (R313, R328); none for a device step. -/
def fieldsOf : Instr → Option (Nat × BitVec 54)
  | .nop f => some (0x000, f.toBits)
  | .iadd f => some (0x001, f.toBits)
  | .isub f => some (0x002, f.toBits)
  | .imul f => some (0x003, f.toBits)
  | .imulh f => some (0x004, f.toBits)
  | .imad f => some (0x005, f.toBits)
  | .imin f => some (0x006, f.toBits)
  | .imax f => some (0x007, f.toBits)
  | .iabs f => some (0x008, f.toBits)
  | .and f => some (0x009, f.toBits)
  | .or f => some (0x00A, f.toBits)
  | .xor f => some (0x00B, f.toBits)
  | .not f => some (0x00C, f.toBits)
  | .shl f => some (0x00D, f.toBits)
  | .shr f => some (0x00E, f.toBits)
  | .sha f => some (0x00F, f.toBits)
  | .rot f => some (0x010, f.toBits)
  | .popc f => some (0x011, f.toBits)
  | .clz f => some (0x012, f.toBits)
  | .ctz f => some (0x013, f.toBits)
  | .brev f => some (0x014, f.toBits)
  | .bfe f => some (0x015, f.toBits)
  | .bfi f => some (0x016, f.toBits)
  | .sel f => some (0x017, f.toBits)
  | .icmp f => some (0x018, f.toBits)
  | .lea f => some (0x019, f.toBits)
  | .iaddi f => some (0x020, f.toBits)
  | .imuli f => some (0x021, f.toBits)
  | .andi f => some (0x022, f.toBits)
  | .ori f => some (0x023, f.toBits)
  | .xori f => some (0x024, f.toBits)
  | .icmpi f => some (0x025, f.toBits)
  | .fadd f => some (0x040, f.toBits)
  | .fsub f => some (0x041, f.toBits)
  | .fmul f => some (0x042, f.toBits)
  | .ffma f => some (0x043, f.toBits)
  | .fmin f => some (0x044, f.toBits)
  | .fmax f => some (0x045, f.toBits)
  | .fcmp f => some (0x046, f.toBits)
  | .fclass f => some (0x047, f.toBits)
  | .frcp f => some (0x048, f.toBits)
  | .frsq f => some (0x049, f.toBits)
  | .fsqrt f => some (0x04A, f.toBits)
  | .fexp2 f => some (0x04B, f.toBits)
  | .flog2 f => some (0x04C, f.toBits)
  | .ftanh f => some (0x04D, f.toBits)
  | .fdiv f => some (0x04E, f.toBits)
  | .fscale f => some (0x04F, f.toBits)
  | .hadd2 f => some (0x051, f.toBits)
  | .hmul2 f => some (0x052, f.toBits)
  | .hfma2 f => some (0x053, f.toBits)
  | .cvt f => some (0x080, f.toBits)
  | .cvtpk f => some (0x081, f.toBits)
  | .cvtq f => some (0x082, f.toBits)
  | .frnd f => some (0x083, f.toBits)
  | .mov f => some (0x090, f.toBits)
  | .movi f => some (0x091, f.toBits)
  | .movs f => some (0x092, f.toBits)
  | .shfl f => some (0x093, f.toBits)
  | .vote f => some (0x094, f.toBits)
  | .matchLanes f => some (0x095, f.toBits)
  | .redux f => some (0x096, f.toBits)
  | .bcast f => some (0x097, f.toBits)
  | .bsel f => some (0x098, f.toBits)
  | .getsp f => some (0x099, f.toBits)
  | .bra f => some (0x0B0, f.toBits)
  | .brx f => some (0x0B1, f.toBits)
  | .brxG f => some (0x0B1, f.toBits)
  | .join f => some (0x0B2, f.toBits)
  | .call f => some (0x0B3, f.toBits)
  | .ret f => some (0x0B4, f.toBits)
  | .exit f => some (0x0B5, f.toBits)
  | .yield f => some (0x0B6, f.toBits)
  | .bri f => some (0x0B7, f.toBits)
  | .warpsync f => some (0x0B8, f.toBits)
  | .ld f => some (0x0D0, f.toBits)
  | .st f => some (0x0D1, f.toBits)
  | .atom f => some (0x0D2, f.toBits)
  | .atomc f => some (0x0D3, f.toBits)
  | .red f => some (0x0D4, f.toBits)
  | .pref f => some (0x0D5, f.toBits)
  | .cctl f => some (0x0D6, f.toBits)
  | .ldc f => some (0x0D7, f.toBits)
  | .cpy f => some (0x100, f.toBits)
  | .cpyl f => some (0x101, f.toBits)
  | .cpylSt f => some (0x101, f.toBits)
  | .cwany f => some (0x102, f.toBits)
  | .cwall f => some (0x103, f.toBits)
  | .cfind f => some (0x104, f.toBits)
  | .bara f => some (0x108, f.toBits)
  | .barw f => some (0x109, f.toBits)
  | .bar f => some (0x10A, f.toBits)
  | .fence f => some (0x10B, f.toBits)
  | .xfence f => some (0x10C, f.toBits)
  | .give f => some (0x110, f.toBits)
  | .giveSeq f => some (0x110, f.toBits)
  | .take f => some (0x111, f.toBits)
  | .takeAny f => some (0x111, f.toBits)
  | .town f => some (0x112, f.toBits)
  | .tfree f => some (0x113, f.toBits)
  | .tgrab f => some (0x114, f.toBits)
  | .coll f => some (0x140, f.toBits)
  | .collw f => some (0x141, f.toBits)
  | .collq f => some (0x142, f.toBits)
  | .collx f => some (0x143, f.toBits)
  | .sigclaim f => some (0x148, f.toBits)
  | .sigdone f => some (0x149, f.toBits)
  | .sigyield f => some (0x14A, f.toBits)
  | .sigstage f => some (0x14B, f.toBits)
  | .sigswap f => some (0x14C, f.toBits)
  | .sigread f => some (0x14D, f.toBits)
  | .taskget f => some (0x150, f.toBits)
  | .taskput f => some (0x151, f.toBits)
  | .taskend f => some (0x152, f.toBits)
  | .slotget f => some (0x153, f.toBits)
  | .slotpost f => some (0x154, f.toBits)
  | .slotpostEnd f => some (0x154, f.toBits)
  | .ccinc f => some (0x158, f.toBits)
  | .cancel f => some (0x159, f.toBits)
  | .trap f => some (0x160, f.toBits)
  | .bkpt f => some (0x166, f.toBits)
  | .rft f => some (0x161, f.toBits)
  | .getctl f => some (0x162, f.toBits)
  | .setctl f => some (0x163, f.toBits)
  | .felrd f => some (0x164, f.toBits)
  | .clock f => some (0x165, f.toBits)
  | .waitev f => some (0x167, f.toBits)
  | .postev f => some (0x168, f.toBits)
  | .qpush f => some (0x169, f.toBits)
  | .stream f => some (0x16A, f.toBits)
  | .xld f => some (0x280, f.toBits)
  | .xst f => some (0x281, f.toBits)
  | .xldg f => some (0x282, f.toBits)
  | .anym f => some (0x283, f.toBits)
  | .allm f => some (0x284, f.toBits)
  | .cmpt f => some (0x285, f.toBits)
  | .hset f => some (0x286, f.toBits)
  | .hadvp f => some (0x287, f.toBits)
  | .hadvc f => some (0x288, f.toBits)
  | .hqry f => some (0x289, f.toBits)
  | .sgive f => some (0x28A, f.toBits)
  | .stake f => some (0x28B, f.toBits)
  | .scalew f => some (0x28D, f.toBits)
  | .scaleg f => some (0x28E, f.toBits)
  | .vadd f => some (0x300, f.toBits)
  | .vsub f => some (0x301, f.toBits)
  | .vmul f => some (0x302, f.toBits)
  | .vfma f => some (0x303, f.toBits)
  | .vmin f => some (0x304, f.toBits)
  | .vmax f => some (0x305, f.toBits)
  | .vabs f => some (0x306, f.toBits)
  | .vexp2 f => some (0x307, f.toBits)
  | .vtanh f => some (0x308, f.toBits)
  | .vrcp f => some (0x309, f.toBits)
  | .vrsq f => some (0x30A, f.toBits)
  | .vcmp f => some (0x30B, f.toBits)
  | .vsel f => some (0x30C, f.toBits)
  | .vcvt f => some (0x30D, f.toBits)
  | .vmaxe f => some (0x30E, f.toBits)
  | .vcvtq f => some (0x30F, f.toBits)
  | .vrotr f => some (0x310, f.toBits)
  | .vrotc f => some (0x311, f.toBits)
  | .vbcr f => some (0x312, f.toBits)
  | .vbcc f => some (0x313, f.toBits)
  | .vredr f => some (0x314, f.toBits)
  | .vredc f => some (0x315, f.toBits)
  | .vmov f => some (0x316, f.toBits)
  | .vand f => some (0x317, f.toBits)
  | .vor f => some (0x318, f.toBits)
  | .vxor f => some (0x319, f.toBits)
  | .vshl f => some (0x31A, f.toBits)
  | .vshr f => some (0x31B, f.toBits)
  | .viota f => some (0x31C, f.toBits)
  | .viadd f => some (0x31D, f.toBits)
  | .vimul f => some (0x31E, f.toBits)
  | .vrelu f => some (0x31F, f.toBits)
  | .vscale f => some (0x320, f.toBits)
  | .mma f => some (0x380, f.toBits)
  | .mloop f => some (0x381, f.toBits)
  | .mzero f => some (0x382, f.toBits)
  | .mtrn f => some (0x383, f.toBits)
  | .mloopt f => some (0x384, f.toBits)
  | .mstat f => some (0x385, f.toBits)
  | .tld f => some (0x3A0, f.toBits)
  | .tst f => some (0x3A1, f.toBits)
  | .tsld f => some (0x3A2, f.toBits)
  | .tsst f => some (0x3A3, f.toBits)
  | .tldx f => some (0x3A5, f.toBits)
  | .tcpy f => some (0x3A4, f.toBits)
  | .cfence f => some (0x3A6, f.toBits)
  | .sbr f => some (0x3C0, f.toBits)
  | .sbrq f => some (0x3C1, f.toBits)
  | .loopi f => some (0x3C2, f.toBits)
  | .loopb f => some (0x3C3, f.toBits)
  | .syncl f => some (0x3C4, f.toBits)
  | .shalt f => some (0x3C5, f.toBits)
  | .scall f => some (0x3C6, f.toBits)
  | .sret f => some (0x3C7, f.toBits)
  | .sbrm f => some (0x3C8, f.toBits)
  | _ => none

/-- The word of an instruction: its opcode over its fields (R310, R313); none for a device step, which the spec gives no word. -/
def encodeWord (i : Instr) : Option Word64 := (fieldsOf i).map fun x => BitVec.ofNat 10 x.1 ++ x.2

/-- The bytes of an instruction word, least significant first (R309). -/
def encode (i : Instr) : Option (List Byte) := (encodeWord i).map fun w => leBytes 8 w.toNat

end Sys2Proof
end

