-- ==== Sys2Proof/Machine/Fp.lean ====
section
/-! DEFINITION. Number formats and exact arithmetic (R285-R303): every floating-point result is an exact dyadic value, with a sticky mark where the value is irrational or a quotient, rounded once. -/
namespace Sys2Proof.Machine

/-- The floating-point formats of R285. -/
inductive Fmt where
  | f32
  | f16
  | b16
  | e5m2
  | e4m3
  | e3m2
  | e2m3
  | e2m1
  deriving DecidableEq, Repr

/-- Bits of an element (R285). -/
def Fmt.bits : Fmt → Nat
  | .f32 => 32 | .f16 => 16 | .b16 => 16 | .e5m2 => 8 | .e4m3 => 8 | .e3m2 => 6 | .e2m3 => 6 | .e2m1 => 4
/-- Mantissa bits (R285). -/
def Fmt.man : Fmt → Nat
  | .f32 => 23 | .f16 => 10 | .b16 => 7 | .e5m2 => 2 | .e4m3 => 3 | .e3m2 => 2 | .e2m3 => 3 | .e2m1 => 1
/-- Exponent bias (R285). -/
def Fmt.bias : Fmt → Nat
  | .f32 => 127 | .f16 => 15 | .b16 => 127 | .e5m2 => 15 | .e4m3 => 7 | .e3m2 => 3 | .e2m3 => 1 | .e2m1 => 1
/-- The pattern of the largest finite magnitude (R285). -/
def Fmt.maxFin : Fmt → Nat
  | .f32 => 0x7F7FFFFF | .f16 => 0x7BFF | .b16 => 0x7F7F | .e5m2 => 0x7B | .e4m3 => 0x7E | .e3m2 => 0x1F | .e2m3 => 0x1F | .e2m1 => 0x7
/-- The format has infinities (R285). -/
def Fmt.hasInf : Fmt → Bool
  | .f32 | .f16 | .b16 | .e5m2 => true
  | .e4m3 | .e3m2 | .e2m3 | .e2m1 => false
/-- The sign bit's weight. -/
def Fmt.signBit (f : Fmt) : Nat := 2 ^ (f.bits - 1)
/-- The quiet bit's weight (R285). -/
def Fmt.quiet (f : Fmt) : Nat := 2 ^ (f.man - 1)
/-- The pattern of the infinite magnitude, in the formats that have one. -/
def Fmt.infBits (f : Fmt) : Nat := f.maxFin + 1
/-- EMAX of R304: the exponent of the largest finite value. -/
def Fmt.emax : Fmt → Int
  | .f32 => 127 | .f16 => 15 | .b16 => 127 | .e5m2 => 15 | .e4m3 => 8 | .e3m2 => 4 | .e2m3 => 2 | .e2m1 => 2

/-- An element's class and value: a NaN with its pattern, an infinity, or (−1)^neg × m × 2^e (R286). -/
inductive FVal where
  | nan (bits : Nat)
  | inf (neg : Bool)
  | fin (neg : Bool) (m : Nat) (e : Int)
  deriving DecidableEq, Repr

/-- Is the magnitude pattern a NaN of the format? (R285) -/
def Fmt.magNan (f : Fmt) (mag : Nat) : Bool :=
  if f.hasInf then decide (f.infBits < mag) else if f = .e4m3 then mag == 0x7F else false

/-- An element's value (R285, R286). -/
def Fmt.val (f : Fmt) (x : Nat) : FVal :=
  let x := x % 2 ^ f.bits
  let mag := x % f.signBit
  let neg := decide (f.signBit ≤ x)
  if f.magNan mag then .nan x
  else if f.hasInf && mag == f.infBits then .inf neg
  else
    let e := mag / 2 ^ f.man
    let m := mag % 2 ^ f.man
    if e = 0 then .fin neg m (1 - (f.bias : Int) - f.man)
    else .fin neg (2 ^ f.man + m) ((e : Int) - f.bias - f.man)

/-- A sign over a magnitude pattern. -/
def Fmt.signed (f : Fmt) (neg : Bool) (mag : Nat) : Nat := (if neg then f.signBit else 0) + mag

/-- The rounding modes of R288, .DYN resolved. -/
inductive Rm where
  | rne
  | rtz
  | rup
  | rdn
  | rsn
  deriving DecidableEq, Repr

/-- A result and the events it meets: bit c of `ev` is event code c of R307. -/
structure FRes where
  bits : Nat
  ev : BitVec 32
  deriving DecidableEq, Repr

/-- The event mask of one code (R307). -/
def evBit (code : Nat) : BitVec 32 := 1#32 <<< code
/-- INVALID (R307). -/
def evInvalid : BitVec 32 := evBit 1
/-- DIVZERO (R307). -/
def evDivzero : BitVec 32 := evBit 2
/-- OVERFLOW (R307). -/
def evOverflow : BitVec 32 := evBit 3
/-- UNDERFLOW (R307). -/
def evUnderflow : BitVec 32 := evBit 4
/-- INVALID-CVT (R307). -/
def evInvalidCvt : BitVec 32 := evBit 5
/-- TRI-RESERVED (R307). -/
def evTri : BitVec 32 := evBit 6
/-- INT-OVERFLOW (R307). -/
def evIntOverflow : BitVec 32 := evBit 7

/-- The value u of R289 for a seed and an element index. -/
def rsnU (seed : Word64) (elem : Nat) : Nat :=
  let z := seed + (BitVec.ofNat 64 (elem + 1)) * 0x9E3779B97F4A7C15#64
  let z := (z ^^^ (z >>> 30)) * 0xBF58476D1CE4E5B9#64
  let z := (z ^^^ (z >>> 27)) * 0x94D049BB133111EB#64
  let z := z ^^^ (z >>> 31)
  (z >>> 32).toNat

/-- How a value is rounded: the mode and the number u of R289, used by RSN alone. -/
structure Rnd where
  rm : Rm
  u : Nat
  deriving DecidableEq, Repr

/-- Round to nearest even, the mode of the matrix engine (R300). -/
def Rnd.rne : Rnd := ⟨.rne, 0⟩

/-- Does the magnitude n + (lo + fraction) ÷ 2^sh, the fraction nonzero exactly when st, round up to n + 1? (R288, R289) -/
def roundsUp (r : Rnd) (neg : Bool) (n lo sh : Nat) (st : Bool) : Bool :=
  match r.rm with
  | .rne => decide (2 ^ sh < 2 * lo) || (decide (2 * lo = 2 ^ sh) && (st || n % 2 == 1))
  | .rtz => false
  | .rup => !neg && (decide (lo ≠ 0) || st)
  | .rdn => neg && (decide (lo ≠ 0) || st)
  | .rsn => decide (r.u * 2 ^ sh < lo * 2 ^ 32) || (decide (lo * 2 ^ 32 = r.u * 2 ^ sh) && st)

/-- The magnitude m × 2^e, or a value just above it when st, rounded to a multiple of 2^q: the multiple, and whether the result is inexact. -/
def roundAt (r : Rnd) (neg : Bool) (m : Nat) (e : Int) (st : Bool) (q : Int) : Nat × Bool :=
  if q ≤ e then (m * 2 ^ (e - q).toNat, st)
  else
    let sh := (q - e).toNat
    let n := m / 2 ^ sh
    let lo := m % 2 ^ sh
    ((if roundsUp r neg n lo sh st then n + 1 else n), decide (lo ≠ 0) || st)

/-- The exponent of the leading bit of m × 2^e. -/
def leadExp (m : Nat) (e : Int) : Int := (Nat.log2 m : Int) + e

/-- A magnitude rounded into a format whose exponent range has no upper end: its pattern, whether it is inexact, and whether it is tiny after rounding (R288, R291). -/
def roundPat (f : Fmt) (r : Rnd) (neg : Bool) (m : Nat) (e : Int) (st : Bool) : Nat × Bool × Bool :=
  let qmin : Int := 1 - (f.bias : Int) - f.man
  let le := leadExp m e
  let q := max (le - f.man) qmin
  let (n, ix) := roundAt r neg m e st q
  let tiny := decide (le < 1 - (f.bias : Int)) &&
    !(decide (le + 1 = 1 - (f.bias : Int)) && decide ((roundAt r neg m e st (le - f.man)).1 = 2 ^ (f.man + 1)))
  (n + (q - qmin).toNat * 2 ^ f.man, ix, tiny)

/-- Does an overflow give an infinity, or else the largest finite value? RSN overflows as RNE does (R293). -/
def overflowsToInf (rm : Rm) (neg : Bool) : Bool :=
  match rm with
  | .rne | .rsn => true
  | .rtz => false
  | .rup => !neg
  | .rdn => neg

/-- Round a nonzero exact magnitude into F32, F16 or B16 as the arithmetic does (R288, R291, R293). -/
def roundFin (f : Fmt) (r : Rnd) (neg : Bool) (m : Nat) (e : Int) (st : Bool) : FRes :=
  let (mag, ix, tiny) := roundPat f r neg m e st
  if f.maxFin < mag then
    ⟨f.signed neg (if overflowsToInf r.rm neg then f.infBits else f.maxFin), evOverflow⟩
  else ⟨f.signed neg mag, if tiny && ix then evUnderflow else 0⟩

/-- The generated NaN of a cause (R293). -/
def Fmt.genNan (f : Fmt) (cause : Nat) : Nat :=
  match f with
  | .f32 | .f16 | .b16 => f.infBits + f.quiet + cause
  | .e5m2 => 0x7E
  | .e4m3 => 0x7F
  | .e3m2 | .e2m3 | .e2m1 => 0

/-- The result of an invalid operation (R293). -/
def invalidRes (f : Fmt) (cause : Nat) : FRes := ⟨f.genNan cause, evInvalid⟩

/-- A NaN with its quiet bit set (R285, R292). -/
def Fmt.quieted (f : Fmt) (x : Nat) : Nat := if x / f.quiet % 2 = 1 then x else x + f.quiet

/-- The first NaN among the sources, in operand order, quieted (R292). -/
def firstNan (f : Fmt) : List Nat → Option Nat
  | [] => none
  | x :: t => match f.val x with
    | .nan b => some (f.quieted b)
    | _ => firstNan f t

/-- Invert the sign of an element (.NA, .NC, the second operand of FSUB). -/
def Fmt.neg (f : Fmt) (x : Nat) : Nat := if f.signBit ≤ x then x - f.signBit else x + f.signBit

/-- A dyadic number with its sign: value v × 2^e. -/
structure Dy where
  v : Int
  e : Int
  deriving DecidableEq, Repr

/-- The exact sum of two dyadics. -/
def Dy.add (a b : Dy) : Dy :=
  let e := min a.e b.e
  ⟨a.v * 2 ^ (a.e - e).toNat + b.v * 2 ^ (b.e - e).toNat, e⟩

/-- The dyadic of a finite value. -/
def Dy.ofFin (neg : Bool) (m : Nat) (e : Int) : Dy := ⟨if neg then -(m : Int) else m, e⟩

/-- The zero of an exact sum of zero (R478): −0 when every addend is −0, +0 when every addend is +0, otherwise +0, or −0 under RDN. -/
def zeroSum (rm : Rm) (negs : List Bool) (allZero : Bool) : Bool :=
  if allZero && negs.all id then true
  else if allZero && negs.all (!·) then false
  else rm == .rdn

/-- Round a dyadic; an exact zero takes the sign given. -/
def roundDy (f : Fmt) (r : Rnd) (d : Dy) (zneg : Bool) : FRes :=
  if d.v = 0 then ⟨f.signed zneg 0, 0⟩
  else roundFin f r (decide (d.v < 0)) d.v.natAbs d.e false

/-- Is a value a zero? -/
def FVal.isZero : FVal → Bool
  | .fin _ m _ => m == 0
  | _ => false

/-- The sign of a value that is no NaN. -/
def FVal.neg : FVal → Bool
  | .nan _ => false
  | .inf n => n
  | .fin n _ _ => n

/-- Addition of two values that are no NaNs (R293, R478). -/
def addVals (f : Fmt) (r : Rnd) (a b : FVal) : FRes :=
  match a, b with
  | .inf s, .inf t => if s = t then ⟨f.signed s f.infBits, 0⟩ else invalidRes f 3
  | .inf s, _ => ⟨f.signed s f.infBits, 0⟩
  | _, .inf t => ⟨f.signed t f.infBits, 0⟩
  | .fin s m e, .fin t n g =>
    roundDy f r ((Dy.ofFin s m e).add (Dy.ofFin t n g)) (zeroSum r.rm [s, t] (m == 0 && n == 0))
  | _, _ => ⟨0, 0⟩

/-- Addition (R345, R292). -/
def fAdd (f : Fmt) (r : Rnd) (a b : Nat) : FRes :=
  match firstNan f [a, b] with
  | some n => ⟨n, 0⟩
  | none => addVals f r (f.val a) (f.val b)

/-- Subtraction: the second operand's sign is inverted, a NaN's pattern is not (R292, R478). -/
def fSub (f : Fmt) (r : Rnd) (a b : Nat) : FRes :=
  match firstNan f [a, b] with
  | some n => ⟨n, 0⟩
  | none => addVals f r (f.val a) (f.val (f.neg b))

/-- The exact product of two values that are no NaNs: none for zero times infinity. -/
def mulVals (a b : FVal) : Option FVal :=
  match a, b with
  | .inf s, .inf t => some (.inf (s != t))
  | .inf s, .fin t n _ => if n = 0 then none else some (.inf (s != t))
  | .fin s m _, .inf t => if m = 0 then none else some (.inf (s != t))
  | .fin s m e, .fin t n g => some (.fin (s != t) (m * n) (e + g))
  | _, _ => none

/-- Multiplication (R345). -/
def fMul (f : Fmt) (r : Rnd) (a b : Nat) : FRes :=
  match firstNan f [a, b] with
  | some n => ⟨n, 0⟩
  | none => match mulVals (f.val a) (f.val b) with
    | none => invalidRes f 4
    | some (.fin s m e) => if m = 0 then ⟨f.signed s 0, 0⟩ else roundFin f r s m e false
    | some v => ⟨f.signed v.neg f.infBits, 0⟩

/-- Fused multiply-add a × b + c, with the product and the addend negated as asked (R345, R293, R478). -/
def fFma (f : Fmt) (r : Rnd) (na nc : Bool) (a b c : Nat) : FRes :=
  match firstNan f [a, b, c] with
  | some n => ⟨n, 0⟩
  | none => match mulVals (f.val (if na then f.neg a else a)) (f.val b) with
    | none => invalidRes f 4
    | some p => addVals f r p (f.val (if nc then f.neg c else c))

/-- The order of values that are no NaNs, −0 below +0: is a less than b? (R292) -/
def ltVals (a b : FVal) : Bool :=
  match a, b with
  | .inf s, .inf t => s && !t
  | .inf s, _ => s
  | _, .inf t => !t
  | .fin s m e, .fin t n g =>
    if m = 0 ∧ n = 0 then s && !t
    else
      let d := (Dy.ofFin s m e).add (Dy.ofFin (!t) n g)
      decide (d.v < 0)
  | _, _ => false

/-- Equality of values that are no NaNs, −0 equal to +0. -/
def eqVals (a b : FVal) : Bool :=
  match a, b with
  | .inf s, .inf t => s == t
  | .fin s m e, .fin t n g => ((Dy.ofFin s m e).add (Dy.ofFin (!t) n g)).v == 0
  | _, _ => false

/-- FMIN (R345, R292). -/
def fMin (f : Fmt) (a b : Nat) : FRes :=
  match firstNan f [a, b] with
  | some n => ⟨n, 0⟩
  | none => ⟨if ltVals (f.val b) (f.val a) then b else a, 0⟩

/-- FMAX (R345, R292). -/
def fMax (f : Fmt) (a b : Nat) : FRes :=
  match firstNan f [a, b] with
  | some n => ⟨n, 0⟩
  | none => ⟨if ltVals (f.val a) (f.val b) then b else a, 0⟩

/-- Numerically less, −0 equal to +0. -/
def ltNum (a b : FVal) : Bool := ltVals a b && !(a.isZero && b.isZero)

/-- A value that is exact or lies just above m × 2^e, scaled so that at least 128 bits lie below any rounding position (log entry 9). -/
def ratioOf (num den : Nat) : Nat × Bool := (num / den, decide (num % den ≠ 0))

/-- Division of finite nonzero magnitudes, rounded once. -/
def divFin (f : Fmt) (r : Rnd) (neg : Bool) (m : Nat) (e : Int) (n : Nat) (g : Int) : FRes :=
  let q := ratioOf (m * 2 ^ 192) n
  roundFin f r neg q.1 (e - g - 192) q.2

/-- FDIV (R299). -/
def fDiv (f : Fmt) (r : Rnd) (a b : Nat) : FRes :=
  match firstNan f [a, b] with
  | some n => ⟨n, 0⟩
  | none => match f.val a, f.val b with
    | .inf _, .inf _ => invalidRes f 5
    | .inf s, v => ⟨f.signed (s != v.neg) f.infBits, 0⟩
    | v, .inf t => ⟨f.signed (v.neg != t) 0, 0⟩
    | .fin s m e, .fin t n g =>
      if n = 0 then (if m = 0 then invalidRes f 5 else ⟨f.signed (s != t) f.infBits, evDivzero⟩)
      else if m = 0 then ⟨f.signed (s != t) 0, 0⟩
      else divFin f r (s != t) m e n g
    | _, _ => ⟨0, 0⟩

/-- FRCP (R299). -/
def fRcp (f : Fmt) (r : Rnd) (a : Nat) : FRes :=
  match f.val a with
  | .nan b => ⟨f.quieted b, 0⟩
  | .inf s => ⟨f.signed s 0, 0⟩
  | .fin s m e => if m = 0 then ⟨f.signed s f.infBits, evDivzero⟩ else divFin f r s 1 0 m e

/-- The integer square root of m × 2^e scaled by 2^192, with its exponent: e is made even first. -/
def sqrtFin (m : Nat) (e : Int) : Nat × Int × Bool :=
  let (m, e) := if e % 2 = 0 then (m, e) else (2 * m, e - 1)
  let x := m * 2 ^ 384
  let q := Nat.sqrt x
  (q, e / 2 - 192, decide (q * q ≠ x))

/-- FSQRT (R299). -/
def fSqrt (f : Fmt) (r : Rnd) (a : Nat) : FRes :=
  match f.val a with
  | .nan b => ⟨f.quieted b, 0⟩
  | .inf s => if s then invalidRes f 5 else ⟨f.infBits, 0⟩
  | .fin s m e =>
    if m = 0 then ⟨f.signed s 0, 0⟩
    else if s then invalidRes f 5
    else let x := sqrtFin m e; roundFin f r false x.1 x.2.1 x.2.2

/-- FRSQ (R299): 1 ÷ √(m × 2^e) with e even is √(2^2k ÷ m) × 2^(−k − e/2). -/
def fRsq (f : Fmt) (r : Rnd) (a : Nat) : FRes :=
  match f.val a with
  | .nan b => ⟨f.quieted b, 0⟩
  | .inf s => if s then invalidRes f 5 else ⟨0, 0⟩
  | .fin s m e =>
    if m = 0 then ⟨f.signed s f.infBits, evDivzero⟩
    else if s then invalidRes f 5
    else
      let (m, e) := if e % 2 = 0 then (m, e) else (2 * m, e - 1)
      let q := Nat.sqrt (2 ^ 512 / m)
      roundFin f r false q (-256 - e / 2) (decide (q * q * m ≠ 2 ^ 512))

/-! Fixed point with 440 fraction bits for the transcendental functions (log entry 9). -/

/-- Fraction bits of the fixed-point values. -/
def fxBits : Nat := 440
/-- One in fixed point. -/
def fxOne : Nat := 2 ^ fxBits
/-- The product of fixed-point values. -/
def fxMul (a b : Nat) : Nat := a * b / fxOne
/-- The quotient of fixed-point values. -/
def fxDiv (a b : Nat) : Nat := a * fxOne / b

/-- Σ over odd k of z^k ÷ k, from the term z^k given, `n` terms. -/
def atanhTerms (z2 : Nat) : Nat → Nat → Nat → Nat
  | 0, _, _ => 0
  | n + 1, t, k => t / k + atanhTerms z2 n (fxMul t z2) (k + 2)

/-- The natural logarithm of y, 1 ≤ y < 2, as 2 × atanh((y − 1) ÷ (y + 1)). -/
def fxLn (y : Nat) : Nat :=
  let z := fxDiv (y - fxOne) (y + fxOne)
  2 * atanhTerms (fxMul z z) 145 z 1

/-- ln 2. -/
def fxLn2 : Nat :=
  let z := fxOne / 3
  2 * atanhTerms (fxMul z z) 145 z 1

/-- Σ of x^k ÷ k! from the term given, `n` terms. -/
def expTerms (x : Nat) : Nat → Nat → Nat → Nat
  | 0, _, _ => 0
  | n + 1, t, k => t + expTerms x n (fxMul t x / (k + 1)) (k + 1)

/-- e^x for 0 ≤ x < 1. -/
def fxExp (x : Nat) : Nat := expTerms x 100 fxOne 0

/-- The guard bits dropped from a computed fixed-point value. -/
def fxGuard : Nat := 40

/-- 2^x for a finite x = (−1)^neg × m × 2^e with |x| < 2^12: the fixed-point fraction of x gives the mantissa, its integer part the exponent. -/
def exp2Fin (f : Fmt) (r : Rnd) (neg : Bool) (m : Nat) (e : Int) : FRes :=
  let x : Int := if 0 ≤ e then (m : Int) * 2 ^ e.toNat * fxOne else (m : Int) * fxOne / 2 ^ (-e).toNat
  let x := if neg then -x else x
  let n := x / fxOne
  let fr := (x % fxOne).toNat
  if fr = 0 then roundFin f r false 1 n false
  else
    let y := fxExp (fxMul fr fxLn2)
    roundFin f r false (y / 2 ^ fxGuard) (n - (fxBits - fxGuard : Nat)) true

/-- FEXP2 (R299). -/
def fExp2 (f : Fmt) (r : Rnd) (a : Nat) : FRes :=
  match f.val a with
  | .nan b => ⟨f.quieted b, 0⟩
  | .inf s => ⟨if s then 0 else f.infBits, 0⟩
  | .fin s m e =>
    if m = 0 then ⟨(f.bias * 2 ^ f.man), 0⟩
    else if 12 ≤ leadExp m e then
      (if s then roundFin f r false 1 (-4096) true else roundFin f r false 1 4096 true)
    else exp2Fin f r s m e

/-- FLOG2 (R299). -/
def fLog2 (f : Fmt) (r : Rnd) (a : Nat) : FRes :=
  match f.val a with
  | .nan b => ⟨f.quieted b, 0⟩
  | .inf s => if s then invalidRes f 5 else ⟨f.infBits, 0⟩
  | .fin s m e =>
    if m = 0 then ⟨f.signed true f.infBits, evDivzero⟩
    else if s then invalidRes f 5
    else
      let n := leadExp m e
      if m = 2 ^ Nat.log2 m then
        (if n = 0 then ⟨0, 0⟩ else roundFin f r (decide (n < 0)) n.natAbs 0 false)
      else
        let y := m * fxOne / 2 ^ Nat.log2 m
        let v : Int := n * fxOne + fxDiv (fxLn y) fxLn2
        roundFin f r (decide (v < 0)) (v.natAbs / 2 ^ fxGuard) (-((fxBits - fxGuard : Nat) : Int)) true

/-- tanh of a nonzero finite magnitude, as (1 − w) ÷ (1 + w) with w = e^(−2x), or as a value just below x when x is so small that x³ ÷ 3 lies beyond the fixed point. -/
def tanhFin (f : Fmt) (r : Rnd) (neg : Bool) (m : Nat) (e : Int) : FRes :=
  let le := leadExp m e
  if le < -76 then roundFin f r neg (m * 2 ^ 128 - 1) (e - 128) true
  else if 8 ≤ le then roundFin f r neg (2 ^ 256 - 1) (-256) true
  else
    let x := if 0 ≤ e then m * 2 ^ e.toNat * fxOne else m * fxOne / 2 ^ (-e).toNat
    -- 2x = k ln 2 + rest
    let k := 2 * x / fxLn2
    let rest := 2 * x % fxLn2
    -- e^(2x) = 2^k × e^rest
    let g := fxExp rest * 2 ^ k
    let t := fxDiv (g - fxOne) (g + fxOne)
    roundFin f r neg (t / 2 ^ fxGuard) (-((fxBits - fxGuard : Nat) : Int)) true

/-- FTANH (R299). -/
def fTanh (f : Fmt) (r : Rnd) (a : Nat) : FRes :=
  match f.val a with
  | .nan b => ⟨f.quieted b, 0⟩
  | .inf s => ⟨f.signed s (f.bias * 2 ^ f.man), 0⟩
  | .fin s m e => if m = 0 then ⟨f.signed s 0, 0⟩ else tanhFin f r s m e

/-! Conversions (R294-R297, R348). -/

/-- The element types of a conversion. -/
inductive NumTy where
  | flt (f : Fmt)
  | int (signed : Bool) (bits : Nat)
  deriving DecidableEq, Repr

/-- Does the destination hold every value of the source? (R294) -/
def exactCvt (dst src : Fmt) : Bool :=
  match dst, src with
  | .f32, .f16 | .f32, .b16 | .f32, .e5m2 | .f32, .e4m3 | .f32, .e3m2 | .f32, .e2m3 | .f32, .e2m1 => true
  | .f16, .e5m2 | .f16, .e4m3 | .f16, .e3m2 | .f16, .e2m3 | .f16, .e2m1 => true
  | .b16, .e5m2 | .b16, .e4m3 | .b16, .e3m2 | .b16, .e2m3 | .b16, .e2m1 => true
  | .e4m3, .e3m2 | .e4m3, .e2m3 | .e4m3, .e2m1 => true
  | .e5m2, .e3m2 | .e5m2, .e2m1 => true
  | .e3m2, .e2m1 | .e2m3, .e2m1 => true
  | _, _ => false

/-- One of F32, F16, B16, whose NaNs carry a payload. -/
def Fmt.wide : Fmt → Bool
  | .f32 | .f16 | .b16 => true
  | _ => false

/-- A NaN carried into another format (R295). -/
def cvtNan (dst src : Fmt) (x : Nat) : FRes :=
  let neg := decide (src.signBit ≤ x)
  match dst with
  | .f32 | .f16 | .b16 =>
    if src.wide then ⟨dst.signed neg (dst.infBits + dst.quiet + x % 8), 0⟩ else ⟨dst.genNan 1, 0⟩
  | .e4m3 => ⟨dst.signed neg 0x7F, 0⟩
  | .e5m2 => ⟨dst.signed neg 0x7E, 0⟩
  | .e3m2 | .e2m3 | .e2m1 => ⟨dst.signed neg 0, evInvalidCvt⟩

/-- An infinity carried into another format (R294, R296). -/
def cvtInf (dst : Fmt) (nsat exact : Bool) (neg : Bool) : FRes :=
  if dst.hasInf then
    (if exact || nsat then ⟨dst.signed neg dst.infBits, 0⟩ else ⟨dst.signed neg dst.maxFin, evOverflow⟩)
  else if dst = .e4m3 then
    (if nsat then ⟨dst.signed neg 0x7F, evInvalidCvt⟩ else ⟨dst.signed neg dst.maxFin, evOverflow⟩)
  else ⟨dst.signed neg dst.maxFin, evOverflow⟩

/-- A finite nonzero magnitude rounded into a format by a conversion (R296). -/
def cvtFin (dst : Fmt) (r : Rnd) (nsat : Bool) (neg : Bool) (m : Nat) (e : Int) : FRes :=
  let (mag, ix, tiny) := roundPat dst r neg m e false
  if dst.maxFin < mag then
    if nsat && overflowsToInf r.rm neg then
      (if dst.hasInf then ⟨dst.signed neg dst.infBits, evOverflow⟩
       else if dst = .e4m3 then ⟨dst.signed neg 0x7F, evOverflow⟩ else ⟨dst.signed neg dst.maxFin, evOverflow⟩)
    else ⟨dst.signed neg dst.maxFin, evOverflow⟩
  else ⟨dst.signed neg mag, if tiny && ix then evUnderflow else 0⟩

/-- A value converted into a floating-point format (R294-R296). -/
def cvtVal (dst : Fmt) (r : Rnd) (nsat exact : Bool) : FVal → FRes
  | .nan _ => ⟨0, 0⟩
  | .inf s => cvtInf dst nsat exact s
  | .fin s m e => if m = 0 then ⟨dst.signed s 0, 0⟩ else cvtFin dst r nsat s m e

/-- A conversion between floating-point formats; to the same format a copy with a signalling NaN made quiet (R294-R296, R348, R285). -/
def cvtFF (dst src : Fmt) (r : Rnd) (nsat : Bool) (x : Nat) : FRes :=
  let x := x % 2 ^ src.bits
  match src.val x with
  | .nan b => if dst = src then ⟨if dst = .e4m3 then b else dst.quieted b, 0⟩ else cvtNan dst src b
  | v => if dst = src then ⟨x, 0⟩ else cvtVal dst r nsat (exactCvt dst src) v

/-- The least and greatest value of an integer type. -/
def intMin (signed : Bool) (bits : Nat) : Int := if signed then -(2 ^ (bits - 1) : Nat) else 0
/-- The greatest value of an integer type. -/
def intMax (signed : Bool) (bits : Nat) : Int := if signed then (2 ^ (bits - 1) : Nat) - 1 else (2 ^ bits : Nat) - 1

/-- An integer narrowed into an integer type (R297). -/
def narrowInt (signed : Bool) (bits : Nat) (nsat : Bool) (v : Int) : FRes :=
  if intMin signed bits ≤ v ∧ v ≤ intMax signed bits then ⟨(v % (2 ^ bits : Nat)).toNat, 0⟩
  else if nsat then ⟨(v % (2 ^ bits : Nat)).toNat, evInvalidCvt⟩
  else ⟨((if v < 0 then intMin signed bits else intMax signed bits) % (2 ^ bits : Nat)).toNat, evInvalidCvt⟩

/-- A floating-point value converted to an integer type (R297). -/
def cvtFI (signed : Bool) (bits : Nat) (src : Fmt) (r : Rnd) (nsat : Bool) (x : Nat) : FRes :=
  match src.val x with
  | .nan _ => ⟨0, evInvalidCvt⟩
  | .inf s => ⟨if nsat then 0 else ((if s then intMin signed bits else intMax signed bits) % (2 ^ bits : Nat)).toNat, evInvalidCvt⟩
  | .fin s m e =>
    let n := (roundAt r s m e false 0).1
    narrowInt signed bits nsat (if s then -(n : Int) else n)

/-- The integer an element of an integer type stands for. -/
def intVal (signed : Bool) (bits : Nat) (x : Nat) : Int :=
  let x := x % 2 ^ bits
  if signed && decide (2 ^ (bits - 1) ≤ x) then (x : Int) - (2 ^ bits : Nat) else x

/-- An integer converted to floating point, rounded by the mode (R294). -/
def cvtIF (dst : Fmt) (r : Rnd) (nsat : Bool) (v : Int) : FRes :=
  if v = 0 then ⟨0, 0⟩ else cvtFin dst r nsat (decide (v < 0)) v.natAbs 0

/-- One element converted (R294-R297, R348). -/
def cvtElem (dst src : NumTy) (r : Rnd) (nsat : Bool) (x : Nat) : FRes :=
  match dst, src with
  | .flt d, .flt s => cvtFF d s r nsat x
  | .flt d, .int sg n => cvtIF d r nsat (intVal sg n x)
  | .int sg n, .flt s => cvtFI sg n s r nsat x
  | .int sg n, .int ssg sn => narrowInt sg n nsat (intVal ssg sn x)

/-- An F32 element scaled by 2^−(e − 127) and converted; e = 0xFF is the NaN scale (R305). -/
def cvtScaled (dst : NumTy) (r : Rnd) (nsat : Bool) (scale : Nat) (x : Nat) : FRes :=
  if scale = 0xFF then
    match dst with
    | .flt d => if d.hasInf || d = .e4m3 then ⟨d.genNan 2, evInvalid⟩ else ⟨0, evInvalidCvt⟩
    | .int _ _ => ⟨0, evInvalidCvt⟩
  else
    match Fmt.f32.val x, dst with
    | .fin s m e, .flt d =>
      if m = 0 then ⟨d.signed s 0, 0⟩ else cvtFin d r nsat s m (e - ((scale : Int) - 127))
    | .fin s m e, .int sg n =>
      let k := (roundAt r s m (e - ((scale : Int) - 127)) false 0).1
      narrowInt sg n nsat (if s then -(k : Int) else k)
    | .inf s, .flt d => cvtInf d nsat false s
    | .nan b, .flt d => cvtNan d .f32 b
    | _, .int sg n => cvtFI sg n .f32 r nsat x

/-- The entry VMAXE computes for the F32 elements of one half row (R304). -/
def maxeEntry (emax : Int) (xs : List Nat) : Nat :=
  if xs.any (fun x => match Fmt.f32.val x with | .fin _ _ _ => false | _ => true) then 0xFF
  else
    let mx := xs.foldl (fun a x => max a (x % 2 ^ 31)) 0
    match Fmt.f32.val mx with
    | .fin _ m e => if m = 0 then 0 else (min 127 (max (-127) (leadExp m e - emax)) + 127).toNat
    | _ => 0xFF

/-- An F32 value rounded to an integral value (R351). -/
def fRnd (r : Rnd) (x : Nat) : FRes :=
  match Fmt.f32.val x with
  | .nan b => ⟨Fmt.f32.quieted b, 0⟩
  | .inf s => ⟨Fmt.f32.signed s Fmt.f32.infBits, 0⟩
  | .fin s m e =>
    let n := (roundAt r s m e false 0).1
    if n = 0 then ⟨Fmt.f32.signed s 0, 0⟩ else roundFin .f32 r s n 0 false

/-- a × 2^n rounded once (R345). Beyond ±1,000 every result of a mode is the same, so n is held there. -/
def fScale (f : Fmt) (r : Rnd) (x : Nat) (n : Int) : FRes :=
  match f.val x with
  | .nan b => ⟨f.quieted b, 0⟩
  | .inf s => ⟨f.signed s f.infBits, 0⟩
  | .fin s m e => if m = 0 then ⟨f.signed s 0, 0⟩ else roundFin f r s m (e + min 1000 (max (-1000) n)) false

/-! The matrix K-step (R300-R303). -/

/-- One term of a floating-point K-step: the two elements' values and their E8M0 scales (127 where the step has none). -/
structure Term where
  a : FVal
  b : FVal
  sa : Nat
  sb : Nat
  deriving DecidableEq, Repr

/-- The causes a list of terms raises, with the products' exact sum, the infinities among them, and whether every product is a −0 (R300, R302). -/
structure KSum where
  nanElem : Bool := false
  nanScale : Bool := false
  zeroInf : Bool := false
  posInf : Bool := false
  negInf : Bool := false
  sum : Dy := ⟨0, 0⟩
  allNegZero : Bool := true
  deriving DecidableEq, Repr

/-- Add one term to a K-step's sum. -/
def KSum.term (k : KSum) (t : Term) : KSum :=
  let k := { k with nanScale := k.nanScale || t.sa == 0xFF || t.sb == 0xFF }
  match t.a, t.b with
  | .nan _, _ | _, .nan _ => { k with nanElem := true, allNegZero := false }
  | a, b => match mulVals a b with
    | none => { k with zeroInf := true, allNegZero := false }
    | some (.fin s m e) =>
      { k with
        sum := k.sum.add (Dy.ofFin s m (e + ((t.sa : Int) - 127) + ((t.sb : Int) - 127)))
        allNegZero := k.allNegZero && (m == 0 && s) }
    | some v => if v.neg then { k with negInf := true, allNegZero := false } else { k with posInf := true, allNegZero := false }

/-- One accumulator element after a floating-point K-step (R300-R302). -/
def kstepF (c : Nat) (ts : List Term) : FRes :=
  match Fmt.f32.val c with
  | .nan b => ⟨Fmt.f32.quieted b, 0⟩
  | cv =>
    let k := ts.foldl KSum.term {}
    let pos := k.posInf || cv == .inf false
    let neg := k.negInf || cv == .inf true
    if k.nanElem then invalidRes .f32 1
    else if k.nanScale then invalidRes .f32 2
    else if pos && neg then invalidRes .f32 3
    else if k.zeroInf then invalidRes .f32 4
    else if pos then ⟨Fmt.f32.infBits, 0⟩
    else if neg then ⟨Fmt.f32.signed true Fmt.f32.infBits, 0⟩
    else match cv with
      | .fin s m e => roundDy .f32 .rne (k.sum.add (Dy.ofFin s m e)) (decide (m = 0) && s && k.allNegZero)
      | _ => ⟨0, 0⟩

/-- One accumulator element after an integer K-step: the sum modulo 2^32, recording INT-OVERFLOW (R303). -/
def kstepI (c : Nat) (products : Int) (tri : Bool) : FRes :=
  let v := intVal true 32 c + products
  ⟨(v % (2 ^ 32 : Nat)).toNat,
   (if intMin true 32 ≤ v ∧ v ≤ intMax true 32 then 0 else evIntOverflow) ||| (if tri then evTri else 0)⟩

/-- A TRI element's value; 10 is reserved and reads as zero (R287). -/
def triVal (x : Nat) : Int := if x % 4 = 1 then 1 else if x % 4 = 3 then -1 else 0

end Sys2Proof.Machine
end

