-- ==== Sys2Proof/Machine/State.lean ====
section
/-! DEFINITION. The state of one Tirtus 880 package as plain data, the reasons a step can stop, and the state after reset. -/
namespace Sys2Proof.Machine

/-- Why the machine stops. -/
inductive Fault where
  /-- An instruction word was executed with no warp or sequencer slot acting: raised by every meaning of an instruction word when `State.cur` names no agent it can act for. Safe: no step of the machine executes a word so. -/
  | noAgent
  /-- Raised by the step when the package is frozen and nothing from outside arrives (R284): every clock is stopped. Safe. -/
  | frozen
  deriving DecidableEq, Repr

/-- Why an instruction has no meaning. -/
inductive Refusal where
  /-- Raised by an arm of exec whose instruction has no meaning yet. Safe. -/
  | notModelled (mnemonic : String)
  deriving DecidableEq, Repr

/-! Registers and tiles. -/

/-- A 32-bit tile element with its poison: the physical address of the sector the poison came from (R42, R165). -/
structure Elem where
  bits : Word32 := 0
  poison : Option Nat := none
  deriving DecidableEq, Repr

/-- Ownership states of a tile (R49). -/
inductive TileSt where
  | free
  | owned
  | given
  | filling
  | suspended
  | retained
  deriving DecidableEq, Repr

/-- A tile: its owner field (R48), pending-write count (R50), elements (R42), the receiver and the bundle of an SGIVE that has not taken effect yet and the first cycle in which a TAKE may complete (R110), the context of its last holder with whether its bank was gated since (R52), and whether it is a GIVEN tile of a suspended block, which no agent reaches (R187). -/
structure Tile where
  ctx : Nat := 0
  hold : Nat := 63
  st : TileSt := .free
  pend : Nat := 0
  elems : Assoc Elem := []
  giving : Option (Nat × Nat) := none
  readyAt : Nat := 0
  lastCtx : Option Nat := none
  gated : Bool := false
  kept : Bool := false
  deriving DecidableEq, Repr

/-- One register write: an element of a tile, an s register, or a predicate of lanes. -/
inductive RegWrite where
  | elem (tile idx : Nat) (e : Elem)
  | sreg (n : Nat) (v : Word64)
  deriving DecidableEq, Repr

/-- Results of one warp instruction in flight: their number, the scoreboard they hold (0 for none), the cycle they land, and the writes (R322, R371). -/
structure Flight where
  id : Nat
  sbd : Nat
  due : Nat
  writes : List RegWrite
  deriving DecidableEq, Repr

/-- The first-event log (R307, R308, R450). -/
structure Fel where
  code : Nat := 0
  pc : Word64 := 0
  elem : Nat := 0
  lane : Nat := 0
  slot : Nat := 0
  sum : BitVec 32 := 0
  deriving DecidableEq, Repr

/-- A kind of divergence-stack entry (R189). -/
inductive DivKind where
  | reconv
  | pending
  | ret
  deriving DecidableEq, Repr

/-- A divergence-stack entry (R189). -/
structure DivEntry where
  pc : Word64
  mask : Word32
  kind : DivKind
  deriving DecidableEq, Repr

/-- A warp's trap registers (R268), with the values RFT compares and resumes (R269). -/
structure TrapRegs where
  pc : Word64 := 0
  npc : Word64 := 0
  cause : Word64 := 0
  mask : Word64 := 0
  addr : Word64 := 0
  scr0 : Word64 := 0
  scr1 : Word64 := 0
  entryNpc : Word64 := 0
  clause : Option (Word64 × Word64) := none
  deriving DecidableEq, Repr

/-- A physical piece of an access: the address, its length, and the leaf entry. -/
structure Piece where
  pa : Nat
  len : Nat
  pte : BitVec 128
  deriving DecidableEq, Repr

/-- Where a resolved access finds its bytes: memory pieces, shared storage of a core, L2 scratch of a die, or across the edge between two adjoining L2 scratch grants: the offset in die 0, the bytes there, the offset in die 1 of the rest (R13, R21). -/
inductive Store where
  | mem (ps : List Piece)
  | shared (core off : Nat)
  | scratch (die off : Nat)
  | edge (off n off1 : Nat)
  deriving DecidableEq, Repr

/-- A warp's states (R183); a waiting warp's wait stands in `Warp.wait`. -/
inductive WarpSt where
  | ready
  | waiting
  | trap
  | suspended
  | halted
  | exited
  deriving DecidableEq, Repr

/-- What a waiting warp waits for (R183). The instruction that waits has not retired. -/
inductive Wait where
  /-- A translation miss or a replayable fault (R34, R36): the instruction issues again when no page of the list is missing. -/
  | xlate (pages : List Nat)
  /-- A barrier: its number, the phase that must pass, and the destination register (R427, R428). -/
  | barrier (b : Nat) (phase : Nat) (dst : Nat)
  /-- A regroup point (R194): the PC of the BRX.G, the instance count, the arriving lanes, those taking the branch, and its target. -/
  | regroup (pc : Word64) (count : Nat) (lanes : Word32) (taking : Word32) (target : Word64)
  /-- TAKE of a tile, or of any tile given (R420). -/
  | take (tile : Option Nat) (entry : Nat) (dst : Nat) (sbd : Nat)
  /-- An instruction that tries again at each of its turns: a tag wait, COLLW, SLOTGET, TASKGET, a full copy unit (R183). -/
  | retry
  /-- WAITEV (R452): the word's address and place, the value compared, the group, the scope, the cycle it times out, for a peer's word the cycle it is read again, and whether a POSTEV asked for that reading. -/
  | event (va : Nat) (place : Store) (cmp : Word64) (dst scope : Nat) (deadline poll : Option Nat) (posted : Bool)
  /-- COLLX (R433): the domain, the key, the destination and its scoreboard. -/
  | collx (domid : Nat) (key : Word64) (dst sbd : Nat)
  /-- SLOTGET (R441): the descriptor's address and place, whether it is a consumer claim, the group and the scoreboard. -/
  | ring (desc : Nat) (place : Store) (consumer : Bool) (dst : Nat) (sbd : Nat)
  /-- Answers of peers outstanding for the instruction (R28). -/
  | peer
  /-- TASKGET while its task's state is loaded (R235). -/
  | task
  deriving DecidableEq, Repr

/-- Where a warp's task is: its state being loaded, running, or its state being written back (R235). -/
inductive TaskPhase where
  | loading
  | held
  | writing
  deriving DecidableEq, Repr

/-- A task of a warp (R231-R235, R438): the record's address and 64 bytes, its queue, its phase, the least cycle of the transfer's end, the group and scoreboard of the TASKGET, and whether the written state has left for its peers. -/
structure TaskHeld where
  record : Word64
  fields : List Byte
  queue : Nat
  phase : TaskPhase
  due : Nat := 0
  dst : Nat := 0
  sbd : Nat := 0
  sent : Bool := false
  deriving DecidableEq, Repr

/-- A plain load whose bytes may still be read (R102, R128): its flight, its registers, and of each lane the place and length of its bytes. -/
structure LateLoad where
  flight : Nat
  regs : List Nat
  lanes : List (Nat × Store × Nat)
  deriving DecidableEq, Repr

/-- A warp slot's warp (R183, R189, R314, R327). `clause` is the header in hand with its address, `pos` the number of its instructions issued; `mids` remembers the clause of an address inside one at which lanes will resume (R194, R197); `barHeld` the addresses and barriers of BARs that have arrived and not retired (R418). -/
structure Warp where
  block : Nat
  idx : Nat
  st : WarpSt := .ready
  wait : Option Wait := none
  pc : Word64
  clause : Option (Word64 × Word64) := none
  pos : Nat := 0
  active : Word32 := 0xFFFFFFFF
  exited : Word32 := 0
  stack : List DivEntry := []
  spilled : Nat := 0
  sregs : Assoc Word64 := []
  preds : Assoc Word32 := []
  tmap : List Nat
  flights : List Flight := []
  rm : Nat := 0
  seed : Word64 := 0
  fel : Fel := {}
  traps : TrapRegs := {}
  lastPh : Assoc Nat := []
  mids : List (Word64 × Word64 × Word64) := []
  counts : List (Word64 × Nat × Nat) := []
  readyAge : Nat := 0
  losses : Nat := 0
  homes : List Nat := []
  isRegrouped : Bool := false
  task : Option TaskHeld := none
  pxRes : List (Nat × PeerAnswer) := []
  /-- The number that posted requests sent before a waiting release have not reached (the model's own). -/
  mark : Option Nat := none
  /-- The cycle before which an extra issue cycle keeps it from issuing (R43). -/
  issueAt : Nat := 0
  barHeld : List (Word64 × Nat) := []
  /-- Loads in flight that may yet be performed later than they issued (R128). -/
  late : List LateLoad := []
  deriving DecidableEq, Repr

/-! The sequencer. -/

/-- A handle (R69). -/
structure Handle where
  base : Nat
  n : Nat
  prodEng : Bool
  consEng : Bool
  fp : Nat := 0
  dp : Nat := 0
  eos : BitVec 32 := 0
  deriving DecidableEq, Repr

/-- One effect a bundle leaves to be performed when its latency has passed (R373): register writes, what commits with the bundle (handles, owner fields, load claims: R73, R185, R407), and accesses to SHARED in fixed time (R409). -/
inductive SeqWrite where
  | x (n : Nat) (v : Word64)
  | q (n : Nat) (b : Bool)
  /-- The bits of an m register that a mask selects (R392). -/
  | m (n : Nat) (mask bits : BitVec 1024)
  | l (n : Nat) (v : Word32)
  | elems (t : Nat) (es : Assoc Elem)
  | latch (pipe entry v : Nat)
  /-- SETCTL of CTL.ROUND and of CTL.SEED (R290). -/
  | rm (v : Nat)
  | seed (v : Word64)
  | hset (n : Nat) (h : Handle)
  | hadvp (n k : Nat)
  | hadvc (n k : Nat)
  /-- SGIVE: the tile and the receiving slot (R389). -/
  | give (t hold : Nat)
  /-- STAKE (R390). -/
  | take (t : Nat)
  /-- TLD and TLDX: the tile begins to fill (R407). -/
  | fill (t : Nat)
  /-- A load claim of a handle: claim number, handle and tile (R407). -/
  | claim (id n t : Nat)
  /-- A fixed-time write of SHARED at an offset of the core's storage (R409). -/
  | shStore (off : Nat) (bytes : List (Byte × Option Nat))
  /-- XLD: the first register, the size, the offset, whether it is an acquire (R382). -/
  | xread (n size off : Nat) (acq : Bool) (scope : Nat)
  /-- TSLD: the tile, the transposition, the offsets of the rows (R409). -/
  | tread (t xp : Nat) (rows : List Nat)
  /-- The events of an element of the result (R308). -/
  | note (elem : Nat) (ev : BitVec 32)
  deriving DecidableEq, Repr

/-- Effects of one slot still to come: number, the bundle's number and address, the cycle from which they are seen, the slot, the effects. -/
structure SeqPend where
  id : Nat
  bundle : Nat
  pc : Word64
  due : Nat
  slot : Nat
  writes : List SeqWrite
  deriving DecidableEq, Repr

/-- The work of an entry of queue C0 or C1 (R405), captured at issue. -/
inductive QWork where
  /-- TLD and TLDX: transposition, space, the tile, whether a handle's claim holds it, the row addresses. -/
  | load (xp sp tile : Nat) (claim : Bool) (rows : List Word64)
  /-- TST: the elements read at issue, the space, the row addresses. -/
  | store (elems : Assoc Elem) (sp : Nat) (rows : List Word64)
  /-- XLDG, translated at issue; `rewritten` when a later operation has written the register. -/
  | xload (reg size : Nat) (st : Store) (addr : Word64) (acq : Bool) (scope : Nat) (rewritten : Bool)
  /-- XST, translated at issue. -/
  | xstore (data : List Byte) (st : Store) (addr : Word64) (rel : Bool) (scope : Nat)
  | fence (scope : Nat)
  deriving DecidableEq, Repr

/-- A queue entry with its number, its bundle's number and address, the least cycle of its completion, and whether its writes have left for their peers (R112). -/
structure QEntry where
  id : Nat
  bundle : Nat
  pc : Word64
  due : Nat
  work : QWork
  sent : Bool := false
  deriving DecidableEq, Repr

/-- A claim of a handle slot by a load entry (R407): the entry's number, the handle, the tile and whether its data is in place. -/
structure LoadClaim where
  id : Nat
  handle : Nat
  tile : Nat
  done : Bool
  deriving DecidableEq, Repr

/-- An MLOOP or MLOOPT running after its issue (R402): the tiles its handles name from DP on, the next step and its cycle, the accumulator, what it comes to with the operands as they stand, and the tiles of slots that DP has passed since, with what they held. -/
structure MLoop where
  pc : Word64
  bundle : Nat
  word : TILE
  ternary : Bool
  next : Nat
  nextCycle : Nat
  accTile : Nat
  aTiles : List Nat
  bTiles : List Nat
  cTiles : List Nat
  handles : List Nat
  acc : Assoc Elem
  final : Assoc Elem
  released : List (Nat × Assoc Elem) := []
  deriving DecidableEq, Repr

/-- Where a sequencer is (R201, R271). -/
inductive SeqSt where
  | running
  | xlate (pages : List Nat)
  | shalted
  | halted
  deriving DecidableEq, Repr

/-- An undelivered sequencer fault (R272). -/
structure SeqFaultRec where
  cause : Nat
  slot : Nat
  pc : Word64
  readyAt : Nat
  deriving DecidableEq, Repr

/-- A core's sequencer (R201, R314, R327, R304, R379, R402, R405). `next` is the address the B slot chose in the bundle being issued, `hdr` that bundle's header; `arrived` is the bundle that arrived at SYNCL; `taking` says that a STAKE header wait is running; `mpoison` is the sector a running MLOOP's step consumed; `felKey` places the log's event by bundle, slot, element and code (R308); `stoppedAt` is the first cycle a stopping block kept it from issuing (R202, R237). -/
structure Seq where
  block : Nat
  st : SeqSt := .running
  pc : Word64
  next : Option Word64 := none
  xs : Assoc Word64 := []
  qs : Assoc Bool := []
  ms : Assoc (BitVec 1024) := []
  ls : Assoc Word32 := []
  handles : Assoc Handle := []
  claims : List LoadClaim := []
  rstack : List Word64 := []
  latch0 : Assoc Nat := []
  latch1 : Assoc Nat := []
  pend : List SeqPend := []
  busyV0 : Nat := 0
  busyV1 : Nat := 0
  busySU0 : Nat := 0
  busySU1 : Nat := 0
  busyM : Nat := 0
  ports : List (Nat × Nat × Nat × Nat) := []
  mloop : Option MLoop := none
  mpoison : Option Nat := none
  c0 : List QEntry := []
  c1 : List QEntry := []
  bundles : Nat := 0
  syncing : Bool := false
  arrived : Option Nat := none
  raised : Bool := false
  restart : Option Nat := none
  taking : Bool := false
  rm : Nat := 0
  seed : Word64 := 0
  fel : Fel := {}
  felKey : List Nat := []
  fault : Option SeqFaultRec := none
  haltNext : Option Nat := none
  stoppedAt : Option Nat := none
  hdr : Word64 := 0
  deriving DecidableEq, Repr

/-! Cores. -/

/-- A cached translation (R32): context, first 64-KiB page, pages covered, the leaf entry. -/
structure TlbEntry where
  ctx : Nat
  page : Nat
  span : Nat
  pte : BitVec 128
  deriving DecidableEq, Repr

/-- A line of an L1 (R57), or of a pod-cacheable page in a die's L2 (R122): its context and bytes, and its poisoned sectors. -/
structure L1Line where
  ctx : Nat
  bytes : List Byte
  poison : List Nat := []
  deriving DecidableEq, Repr

/-- Power state of a bank, and the cycle at which it is back in ON (R53). -/
structure Bank where
  st : BankState := .on
  backAt : Option Nat := none
  deriving DecidableEq, Repr

/-- A completion tag (R64). -/
structure Tag where
  count : Nat := 0
  ready : Bool := false
  deriving DecidableEq, Repr

/-- The work of a warp copy (R65, R424, R425): bytes between two addresses, a tile load with its transposition, or a tile store with the elements read at issue. -/
inductive CopyWork where
  | bytes (src dst : Word64) (len : Nat)
  | load (tile xp : Nat) (base stride : Word64)
  | store (tile : Nat) (elems : Assoc Elem) (base stride : Word64)
  deriving DecidableEq, Repr

/-- A warp copy in flight (R64-R66): its number, block, context, issuing slot, tag of the core, the least cycle of its completion, and whether its writes have left for their peers. -/
structure Copy where
  id : Nat
  block : Nat
  ctx : Nat
  slot : Nat
  tag : Nat
  due : Nat
  work : CopyWork
  sent : Bool := false
  deriving DecidableEq, Repr

/-- A core (R14, R42, R53, R55, R57, R63). -/
structure Core where
  tiles : Assoc Tile := []
  banks : Assoc Bank := []
  shared : Assoc Byte := []
  sharedCtx : Assoc Nat := []
  shPoison : Assoc Nat := []
  l1 : Assoc L1Line := []
  ibuf : Assoc (List Byte) := []
  tlb : List TlbEntry := []
  tags : Assoc Tag := []
  copies : List Copy := []
  seq : Option Seq := none
  deriving DecidableEq, Repr

/-! Blocks and units of work. -/

/-- A block's states (R181). -/
inductive BlockSt where
  | resident
  | suspended
  | draining
  | ended
  deriving DecidableEq, Repr

/-- A named barrier (R427). -/
structure Barrier where
  phase : Nat := 0
  arr : Nat := 0
  exp : Nat := 0
  arrived : Word32 := 0
  deriving DecidableEq, Repr

/-- A leaf of an iteration space: origin and extent per dimension, the generation it was claimed under, and the cycle it was handed out (R222, R229, R434). -/
structure Leaf where
  org : List Nat
  ext : List Nat
  gen : Nat
  since : Nat := 0
  deriving DecidableEq, Repr

/-- A regroup in progress (R195): the PC of its BRX.G, the target and fall-through addresses, the arrived home warps with their lanes, the groups still to run (taking first) as home slots by lane, the slots now running a regrouped warp, and the lanes that ended their part: home slot, lane, address after the JOIN. -/
structure Regroup where
  pc : Word64
  target : Word64
  fallPc : Word64
  arrived : List (Nat × Word32)
  takingRun : Bool
  falling : List (Nat × Nat)
  running : List Nat
  ended : List (Nat × Nat × Word64)
  deriving DecidableEq, Repr

/-- What a suspended block keeps away from its core (R237, R238): its warps by slot with the state each resumes in, its sequencer, the tiles that stay resident, its evicted tiles by number. -/
structure Saved where
  warps : List (Nat × WarpSt × Warp) := []
  seq : Option Seq := none
  tiles : List Nat := []
  evicted : List (Nat × Tile) := []
  deriving DecidableEq, Repr

/-- A placed block (R180, R181, R326, R327). `stopping` says that a suspension of it has begun, `cancelled` that it drains once stopped (R179), `byHost` that only the host's RESUME lets it resume (R479), `gotDone` that a SIGCLAIM of it returned DONE (R225). `regroupTimers` holds, for each key a warp waits under, the cycle its first warp arrived, moved on by each cycle the watchdog is paused, as `wdogStart` is (R41, R194, R277); `wdogPeriod` is the SHIFT the watchdog restarted with. -/
structure Block where
  core : Nat
  ctx : Nat
  launch : Nat
  number : Nat
  header : Word64
  kobj : Word64
  lpb : Word64
  param : Word64
  st : BlockSt := .resident
  slots : List Nat := []
  hasSeq : Bool := false
  seqTiles : List Nat := []
  shBase : Nat := 0
  shSize : Nat := 0
  tagBase : Nat := 0
  tagCount : Nat := 0
  barriers : Assoc Barrier := []
  wdog : Nat := 0
  wdogStart : Option Nat := none
  wdogPeriod : Nat := 0
  abandoned : Bool := false
  regroupPcs : List Word64 := []
  regroupTimers : List (Word64 × Nat × Nat) := []
  regroups : List Regroup := []
  chunk : List Leaf := []
  handed : List Leaf := []
  gotDone : Bool := false
  stopping : Bool := false
  cancelled : Bool := false
  byHost : Bool := false
  suspendedAt : Nat := 0
  saved : Option Saved := none
  fpc : Word64 := 0
  finfo : Word64 := 0
  faddr : Word64 := 0
  deriving DecidableEq, Repr

/-- A launch (R176, R178, R213-R215, R221-R230): its context, the queue and graph of its command, its parameter block's address and 256 bytes, its kernel's header word; the claim cursor and generation; the blocks placed and ended; for KIND 1 the blocks still to place by core; the dies whose processor has met the end of the tickets; since when a block of it has not fit. -/
structure Launch where
  ctx : Nat
  queue : Nat
  graph : Option Nat := none
  lpb : Word64
  fields : List Byte
  header : Word64
  cursor : Nat := 0
  generation : Nat := 0
  placed : Nat := 0
  ended : Nat := 0
  want : Assoc Nat := []
  stopped : List Nat := []
  cancelled : Bool := false
  complete : Bool := false
  startedAt : Nat := 0
  stuckSince : Option Nat := none
  deriving DecidableEq, Repr

/-- Work that a command has started and that is not complete (R211). -/
inductive Work where
  | launch (id : Nat)
  | graph (id : Nat)
  | record (id : Nat)
  | phase (id : Nat)
  | coll (id : Nat)
  deriving DecidableEq, Repr

/-- A graph in execution (R210, R211): its queue, its counter, the phase it belongs to, its command array, the next command to start, and the work its commands have started. -/
structure Graph where
  ctx : Nat
  queue : Nat
  counter : Word64
  phase : Nat
  array : Word64
  count : Nat
  next : Nat := 0
  running : List Work := []
  cancelled : Bool := false
  complete : Bool := false
  deriving DecidableEq, Repr

/-- A phase that a PHASE-END has ended, or that a graph has begun (R176, R178, R211). -/
structure Phase where
  ctx : Nat
  queue : Nat
  counter : Option Word64 := none
  cancelled : Bool := false
  complete : Bool := false
  deriving DecidableEq, Repr

/-- A device queue's state (R208). -/
inductive QueueSt where
  | disabled
  | running
  | stopped
  deriving DecidableEq, Repr

/-- A device queue (R208): its table entry, the work its commands have started, and the phase now open. -/
structure Queue where
  ringbase : Word64 := 0
  ringsize : Nat := 0
  ctx : Nat := 0
  cls : Nat := 0
  st : QueueSt := .disabled
  lasterr : Nat := 0
  head : Nat := 0
  tail : Nat := 0
  reserve : Nat := 0
  running : List Work := []
  graph : Option Nat := none
  phase : Option Nat := none
  deriving DecidableEq, Repr

/-- A QPUSH record claimed and not yet written (R445). -/
structure QPushRec where
  queue : Nat
  pos : Nat
  ctx : Nat
  bytes : List Byte
  written : Bool := false
  deriving DecidableEq, Repr

/-- A stream record accepted by an engine (R75-R79, R446): its number, context, issuing block or queue, the block whose handle it targets, the 64 bytes, the next item, the positions claimed for items not yet delivered, whether a claim of it met the end of its ring, the least cycle of its next action, whether the item's writes have left for their peers, and its ring's SLOTBASE, SLOTS, SLOTSIZE and PITCH as they were at acceptance (R83). -/
structure StreamRec where
  id : Nat
  ctx : Nat
  block : Option Nat := none
  queue : Option Nat := none
  owner : Option Nat := none
  fields : List Byte
  item : Nat := 0
  claimed : List Nat := []
  ended : Bool := false
  due : Nat := 0
  sent : Bool := false
  geom : Nat × Nat × Nat × Nat := (0, 1, 0, 0)
  desc : Option Store := none
  deriving DecidableEq, Repr

/-- A task queue (R232): its context, the record addresses in it, and hardware enqueues held for room. -/
structure TaskQueue where
  ctx : Option Nat := none
  records : List Word64 := []
  held : List Word64 := []
  deriving DecidableEq, Repr

/-- A task stream whose task runs or is written back, with the block and the number of its warp (R233, R234). -/
structure TaskRun where
  ctx : Nat
  stream : Nat
  block : Nat
  warp : Nat
  deriving DecidableEq, Repr

/-- A post to a ring that its atomic unit has not applied (R81, R442). -/
inductive RingOp where
  | publish
  | release
  | endToken
  deriving DecidableEq, Repr

/-- A post held at a ring's atomic unit: context, the descriptor's address and place, the operation and its position (R81). -/
structure RingHeld where
  ctx : Nat
  desc : Nat
  place : Store
  op : RingOp
  pos : Nat
  deriving DecidableEq, Repr

/-! Contexts. -/

/-- Why a context is being terminated (R279). -/
structure Terminating where
  reason : Nat
  since : Nat
  deriving DecidableEq, Repr

/-- A ring of records kept in memory for the host (R38, R169, R281): base, size, head, tail, next sequence number, overflow, drops. -/
structure LogRing where
  base : Nat := 0
  size : Nat := 0
  head : Nat := 0
  tail : Nat := 0
  seq : Nat := 1
  ovf : Bool := false
  drops : Nat := 0
  deriving DecidableEq, Repr

/-- A context (R17, R35, R38, R235, R237, R267, R277, R279, R281). -/
structure Ctx where
  root : Nat
  laneBase : Nat
  laneSize : Nat
  fmode : Nat
  scr0 : Nat × Nat := (0, 0)
  scr1 : Nat × Nat := (0, 0)
  traph : Word64 := 0
  wdogDef : Nat := 0
  fq : LogRing := {}
  xltDone : Word64 := 0
  diag : LogRing := {}
  carafeBase : Word64 := 0
  carafeCount : Nat := 0
  terminating : Option Terminating := none
  ended : Bool := false
  counter : Word64 := 0
  deriving DecidableEq, Repr

/-! Translation. -/

/-- Who waits for a translation. `tk` is path TK of a die, or, from 2 on, a device queue: its number plus one, doubled, with its die. -/
inductive Who where
  | warp (core slot : Nat)
  | seq (core : Nat)
  | queue (core q : Nat)
  | copy (core id : Nat)
  | engine (e : Nat)
  | coll (ctx domid : Nat)
  | tk (die : Nat)
  deriving DecidableEq, Repr

/-- A kind of access (R38). -/
inductive Acc where
  | read
  | write
  | atomic
  | fetch
  deriving DecidableEq, Repr

/-- Trap and fault causes (R263). -/
inductive Cause where
  | none
  | illegal
  | regRange
  | tileOwner
  | giveTarget
  | tagRange
  | memberMask
  | nonuniform
  | divOverflow
  | addrRange
  | misaligned
  | addrHole
  | windowStraddle
  | notValid
  | pageRetired
  | writeProtect
  | execFault
  | keyMismatch
  | pteFormat
  | physHole
  | peerDenied
  | peerUnreachable
  | handleSet
  | handleUnderrun
  | handleOverrun
  | handleRole
  | cmpt
  | software
  | breakpoint
  | sequencerFault
  | ueConsumed
  | barrierTimeout
  | doubleTrap
  | noHandler
  deriving DecidableEq, Repr

/-- The paths of R87. -/
inductive Path where
  | ls
  | sq
  | cp
  | se
  | co
  | tk
  deriving DecidableEq, Repr

/-- A request that waits for a page: who makes it, on which path, its lowest byte in the page, its kind (R34, R38). -/
structure Waiter where
  who : Who
  path : Path
  addr : Nat
  acc : Acc
  deriving DecidableEq, Repr

/-- A missing 64-KiB page of a die (R34), in the order in which the shared cache received them: who waits; from when a walker has taken it, the cycle its walk ends; whether an invalidation has met it (R35); whether a replay waits for it (R40). -/
structure Miss where
  die : Nat
  ctx : Nat
  page : Nat
  due : Option Nat := none
  discarded : Bool := false
  replay : Bool := false
  waiters : List Waiter
  deriving DecidableEq, Repr

/-- A fault of one page of an access: the cause, the first 64-KiB page and how many the page covers, the lowest faulting byte, the kind of access (R36, R38). -/
structure XFault where
  cause : Cause
  page : Nat
  span : Nat
  addr : Nat
  acc : Acc
  deriving DecidableEq, Repr

/-- An outstanding replayable fault of a die, or with no waiter one that a replay has released (R38-R40): the page as its first 64-KiB page and how many it covers, and the request that its entry names. -/
structure PFault where
  die : Nat
  ctx : Nat
  page : Nat
  span : Nat
  cause : Cause
  seq : Nat
  replays : Nat
  written : Bool
  first : Waiter
  waiters : List Waiter
  deriving DecidableEq, Repr

/-- A failed walk delivered to a requester: the 64-KiB page walked, the cause, and the page as the first 64-KiB page and how many it covers (R34). -/
structure XFail where
  who : Who
  walked : Nat
  cause : Cause
  page : Nat
  span : Nat
  deriving DecidableEq, Repr

/-- What path TK writes: bytes; one more in a completion counter, with bit 63 when its unit was cancelled; the codes of cells of one byte of a sewing map, from a code or from any (R177, R179, R222). -/
inductive TkOp where
  | bytes (va : Nat) (b : List Byte)
  | count (va : Nat) (cancelled : Bool)
  | cell (va pos : Nat) (src : Option Nat) (code : Nat)
  deriving DecidableEq, Repr

/-- A write of path TK that waits for its page, or whose context is to end for it (R26, R37, R177). -/
structure Owed where
  ctx : Nat
  op : TkOp
  deriving DecidableEq, Repr

/-- An XLT.INV request that waits for accesses translated before it (R35). -/
structure Inv where
  ctx : Nat
  va : Nat
  len : Nat
  seq : Word64
  deriving DecidableEq, Repr

/-! The two dies. -/

/-- A line's state at its home (R147). -/
inductive HomeSt where
  | di
  | ds
  | de
  | dO
  | hwInv
  | hwFs
  | hwFi
  | hwMem
  deriving DecidableEq, Repr

/-- A line's state at the remote L2 (R149). -/
inductive RemSt where
  | i
  | s
  | e
  | o
  | m
  | is
  | im
  | sm
  | wi
  | ei
  deriving DecidableEq, Repr

/-- A request waiting at the home for a transient state to end (R147, R148). -/
inductive HomeReq where
  | remote (i : Instr) (m : BridgeMsg)
  | localRead
  | localWrite (off : Nat) (bytes : List Byte)
  | recall
  deriving DecidableEq, Repr

/-- A line under the directory: home state, home L2 copy and whether it is dirty, the remote L2's state and copy, the TXID of its request, the writes that wait for M there with their contexts and offsets; the request being served and the waiting requests (R134-R150). -/
structure DirLine where
  home : HomeSt := .di
  homeCopy : Option (List Byte) := none
  homeDirty : Bool := false
  rem : RemSt := .i
  remCopy : Option (List Byte) := none
  txid : BitVec 16 := 0
  remWrites : List (Nat × Nat × List Byte) := []
  serving : Option HomeReq := none
  waiting : List HomeReq := []
  late : List (Nat × Byte) := []
  deriving DecidableEq, Repr

/-- One module's transmitter and receiver at a die (R138-R145): the next FSEQ, the unacknowledged flits by FSEQ with their bytes, those on their way, the cycle FACK last advanced, whether something is to be acknowledged, the classes the other side holds; the FSEQ expected, whether NAK is to be sent, the classes held here, the failures of the flit expected, the part of a line message received, and how often the oldest unacknowledged flit has timed out. -/
structure BLink where
  fseq : Nat := 0
  unacked : List (Nat × List Byte) := []
  fly : List Nat := []
  advanced : Nat := 0
  owes : Bool := false
  held : Nat := 0
  expect : Nat := 0
  nak : Bool := false
  holdOut : Nat := 0
  failures : Nat := 0
  carry : List Byte := []
  timeouts : Nat := 0
  deriving DecidableEq, Repr

/-- A drip counter (R170-R172). -/
structure Drip where
  level : Nat := 0
  brim : Nat := 0xFFFF
  shift : Nat := 0
  inc : Nat := 1
  fired : Bool := false
  armed : Bool := true
  en : Bool := true
  deriving DecidableEq, Repr

/-- States of a migration entry (R158). -/
inductive MigSt where
  | copy
  | switch
  | redirect
  deriving DecidableEq, Repr

/-- A migration entry (R157-R160): its request, state and pass, the dirty lines that the pass has still to read, the lines whose dirty bit has been set since it began. -/
structure Mig where
  die : Nat
  req : MigReq
  state : MigSt := .copy
  pass : Nat := 1
  todo : List Nat := []
  dirty : List Nat := []
  deriving DecidableEq, Repr

/-! Collation. -/

/-- A collective or a known number at this member (R245, R250, R254): its key and number; whether it is issued here, with its descriptor's fields, launch, the number of the COLL command that issued it, die and failed-presence status; the outcome with its term; since when its data phase runs; for a collective that completes outside its turn its status; whether its turn has passed; whether a later issue of its key has completed under it; how far its completion has come (its output left, its record written), and whether its record is still to receive CN. -/
structure Member where
  key : Word64
  cn : Option (BitVec 48) := none
  issued : Bool := false
  params : CollParams := ⟨0, 0, 0, 0, 0⟩
  src : Word64 := 0
  dst : Word64 := 0
  result : Word64 := 0
  done : Word64 := 0
  launch : Option Nat := none
  cmd : Option Nat := none
  die : Nat := 0
  bad : Nat := 0
  outcome : Option (GoOutcome × BitVec 16) := none
  running : Option Nat := none
  finish : Option Nat := none
  passed : Bool := false
  used : Bool := false
  stage : Nat := 0
  cnDue : Bool := false
  deriving DecidableEq, Repr

/-- A number's state at the collator (R251). -/
inductive NumberSt where
  | assigned
  | goSent
  | cancelled
  deriving DecidableEq, Repr

/-- A number at the collator (R251): its key, the presences in arrival order (rank, status of a failed presence or 0, parameters), its outcome, the ranks that are done. -/
structure Number where
  cn : BitVec 48
  key : Word64
  presences : List (Nat × Nat × CollParams) := []
  st : NumberSt := .assigned
  outcome : GoOutcome := .run
  done : List Nat := []
  deriving DecidableEq, Repr

/-- A message a decision leads to, with the rank it goes to (R251). -/
structure Decided where
  dest : Nat
  step : Instr
  msg : CollMsg
  deriving DecidableEq, Repr

/-- A collective domain of a context (R240, R241, R248, R253, R258): its definition, the term, the ranks of the collator and standby, this member's numbers and collectives and E, the collectives that complete outside their turn, the CANCELs without a reply with the warps that wait, the inputs of a data phase; and as collator or standby the next number, the highest assigned, the numbers, the messages that wait for the standby's acknowledgement, the messages that wait for room or for a standby. -/
structure Domain where
  ctx : Nat
  domid : Nat
  jobid : Nat
  m : Nat
  rank : Nat
  rtab : List Nat
  digest : Word64
  term : BitVec 16 := 1
  collator : Nat := 0
  standby : Option Nat := none
  members : List Member := []
  turn : BitVec 48 := 1
  closing : List Member := []
  cancels : List (Word64 × Option (Nat × Nat)) := []
  inputs : Option (List CollInput) := none
  closed : Bool := false
  lastHeard : Nat := 0
  searching : Bool := false
  askedAt : Nat := 0
  nextCn : BitVec 48 := 1
  top : BitVec 48 := 0
  numbers : List Number := []
  decisions : List (List Decided) := []
  held : List (Instr × CollMsg) := []
  deriving DecidableEq, Repr

/-- A message to another package (R28, R249). -/
inductive OutMsg where
  | coll (dest : Nat) (step : Instr) (m : CollMsg)
  | peer (dest : Nat) (req : PeerReq)
  | peerAnswer (dest : Nat) (resp : PeerResp)
  deriving DecidableEq, Repr

/-- The lines of a pod-cacheable page that a read brings (R57, R122): the physical address of their first byte at the peer, the place of the read's first byte in them, and the core whose L1 they fill. -/
structure PodFill where
  base : Nat
  off : Nat
  l1 : Option Nat
  deriving DecidableEq, Repr

/-- Where a write has been performed beside the home of its bytes: for the accesses of a path by the agents within a scope of a core (R87, R97). -/
structure Shown where
  path : Path
  scope : Nat
  core : Nat
  deriving DecidableEq, Repr

/-- A write that not every agent sees yet (R98, R103): the draw and the place in the list that number it, the cycle of the write, its first byte, the bytes that stood there, and where it has been performed. -/
structure Recent where
  num : Nat × Nat
  made : Nat
  pa : Nat
  old : List Byte
  seen : List Shown
  deriving DecidableEq, Repr

/-- A request outstanding at a peer (R28): who waits, the package asked, its lane and piece, the work it belongs to (`data`: for a posted request the entry, copy, record or collective it stands for), whether it is posted, the lines it fills, and those its answer drops from the L1. -/
structure PeerOut where
  id : Nat
  core : Nat
  slot : Nat
  ctx : Nat
  posted : Bool
  addr : Nat
  lane : Nat
  data : Nat
  size : Nat
  pkg : Nat
  die : Nat
  fill : Option PodFill := none
  drops : List Nat := []
  deriving DecidableEq, Repr

/-- A range a context exports to its peers (R28). -/
structure Export where
  ctx : Nat
  base : Nat
  len : Nat
  deriving DecidableEq, Repr

/-- How a sector of memory stands encrypted (R162): under which key and pair; whether the tag beside it is the one made with it; and, where a write under no key has changed part of it, the bytes that stand in memory. -/
structure Seal where
  key : Nat
  pair : BitVec 512
  ok : Bool := true
  raw : Option (List Byte) := none
  deriving DecidableEq, Repr

/-- An access whose integrity check has failed (R164), or to a port that is down (R455): the sector, the key, and whether a write's read-modify-write met it. -/
structure TagFail where
  sector : Nat
  key : Nat
  rmw : Bool
  port : Bool := false
  deriving DecidableEq, Repr

/-! The package. -/

/-- Power states of the package (R457, R460). -/
inductive Power where
  | off
  | recovery
  | active
  | idle
  | standby
  deriving DecidableEq, Repr

/-- The applied boot image (R458). -/
structure Boot where
  pkgid : Nat
  hbmlen : List Nat
  scr0 : Nat
  scr1 : Nat
  brret : BitVec 16
  debug : Bool
  svn : BitVec 32
  opp : List (Nat × Nat)
  hash : BitVec 512
  deriving DecidableEq, Repr

/-- FRZ.CTL (R284). -/
structure FrzCtl where
  mcause : Nat := 0
  trapen : Bool := false
  onbrim : Bool := false
  onterm : Bool := false
  onbridge : Bool := false
  deriving DecidableEq, Repr

/-- An interrupt raised to the host. -/
inductive Msix where
  | faultQueue (ctx : Nat)
  | lasterr (q : Nat)
  | termDone (ctx : Nat)
  | diag (ctx : Nat)
  | memLog (die : Nat)
  | migDone
  | plc
  | domain (ctx : Nat)
  | brim (uclass uindex : Nat)
  | bridge (module : Nat)
  | reliability (pa : Nat)
  | thermal
  deriving DecidableEq, Repr

/-- The reply of the control link to the last request or host read (R456, R459). -/
inductive Reply where
  | none
  | ok
  | rejected (reason : Nat)
  | bytes (b : List Byte)
  deriving DecidableEq, Repr

/-- Whose turn it is. -/
inductive Turn where
  | warp (core slot : Nat)
  /-- A waiting warp looks whether its wait is over (R183). -/
  | poll (core slot : Nat)
  /-- The group schedulers select (R219). -/
  | select
  | seq (core : Nat)
  | ev (i : Instr) (a : Arg)
  deriving DecidableEq, Repr

/-- The agent whose instruction word is being executed. -/
inductive Cur where
  | none
  | warp (core slot : Nat)
  | slot (core : Nat) (sl : Slot)
  deriving DecidableEq, Repr

/-- The state of one package. -/
structure State where
  /-- Free values drawn so far (the model's own). -/
  free : Nat
  /-- Inputs from outside that have arrived (the model's own). -/
  inbox : List (Instr × Arg)
  /-- Who acts next in this cycle (the model's own). -/
  agenda : List Turn
  /-- The acting agent (the model's own). -/
  cur : Cur
  /-- The operands of the device step being taken (the model's own). -/
  arg : Arg
  /-- Numbers given to objects so far (the model's own). -/
  ids : Nat
  clock : Nat
  power : Power
  idleSince : Option Nat
  frzTrig : Option Nat
  frozen : Bool
  boot : Option Boot
  noFloor : Bool
  svnFloor : Option (BitVec 32)
  opPoint : Nat
  opHold : Option Nat
  pwrLimit : Nat
  frzCtl : FrzCtl
  plcRetired : BitVec 192
  l2ret : BitVec 128
  clret : BitVec 12
  l2retDone : BitVec 128
  l2pend : Bool
  l2full : Bool
  hostBase : Nat
  hostErr : Bool
  hostWrites : Nat
  hostReply : Reply
  msix : List Msix
  regs : Assoc Word64
  drip : List (Nat × Nat × Drip)
  mel : LogRing × LogRing
  keys : Assoc Nat
  /-- The pair of 256-bit keys in each key slot (R162). -/
  pairs : Assoc (BitVec 512)
  exports : List Export
  mig : List Mig
  migWait : List MigReq
  migDone : BitVec 32 × BitVec 32
  cxl : Assoc Nat
  cxlDown : List Nat
  termDone : Word64
  cnresDone : BitVec 48
  mem : List Host.Cell
  poison : Assoc Nat
  /-- The sectors that stand encrypted in memory; `mem` holds what they decrypt to (R162). -/
  seals : Assoc Seal
  /-- Failed integrity checks that the command processor has not acted on (R164). -/
  tagFails : List TagFail
  scratch : Assoc Byte
  scrPoison : Assoc Nat
  lines : Assoc DirLine
  wire : List (Instr × BridgeMsg)
  links : Assoc BLink
  /-- Answers that have reached the die of their requester: ATMR, NCRD and NCWACK (R143). -/
  arrived : List (Instr × BridgeMsg)
  bridgeDown : Bool
  tlbDie : List TlbEntry × List TlbEntry
  misses : List Miss
  pfaults : List PFault
  xlfail : List XFail
  owed : List Owed
  invs : List Inv
  ctxs : Assoc Ctx
  queues : Assoc Queue
  qpushes : List QPushRec
  launches : Assoc Launch
  graphs : Assoc Graph
  phases : Assoc Phase
  taskQ : Assoc TaskQueue
  taskRun : List TaskRun
  ringHeld : List RingHeld
  engines : Assoc (List StreamRec)
  cores : Assoc Core
  blocks : Assoc Block
  warps : Assoc Warp
  domains : List Domain
  /-- Definitions of domains whose rank tables are being read (R37, R240). -/
  defining : List (Nat × List Byte)
  stoxia : List OutMsg
  peerReqs : List PeerOut
  /-- Requests of other packages that wait at the home of their lines, in arrival order (R148, R158). -/
  peerHeld : List PeerReq
  /-- Answers of peers kept for queue entries, copies, records and collectives: work number, piece, answer (R28). -/
  pxData : List (Nat × Nat × PeerAnswer)
  /-- Lines of pod-cacheable pages that each die's L2 holds, by package and line (R27, R122). -/
  podL2 : Assoc L1Line × Assoc L1Line
  /-- Writes that some agents may not see yet, at most one for a byte (the model's own; R98, R103). -/
  recent : List Recent
  /-- Descriptors of rings in use that software has written: their counters are unpredictable when the unit next reads them (R83). -/
  raced : List Store
  deriving DecidableEq, Repr

/-- The machine right after reset (R457): cold, waiting for a boot image, with no configuration. Values the spec does not give are named in log entry 3. -/
def State.reset : State :=
  { free := 0, inbox := [], agenda := [], cur := .none, arg := Arg.empty, ids := 0, clock := 0,
    power := .recovery, idleSince := none, frzTrig := none, frozen := false, boot := none, noFloor := false,
    svnFloor := none, opPoint := 7, opHold := none, pwrLimit := 2400, frzCtl := {}, plcRetired := 0,
    l2ret := 0, clret := 0, l2retDone := 0, l2pend := false, l2full := false, hostBase := 0, hostErr := false,
    hostWrites := 0, hostReply := .none, msix := [], regs := [], drip := [], mel := ({}, {}), keys := [], pairs := [],
    exports := [], mig := [], migWait := [], migDone := (0, 0), cxl := [], cxlDown := [], termDone := 0, cnresDone := 0,
    mem := [], poison := [], seals := [], tagFails := [], scratch := [], scrPoison := [], lines := [], wire := [], links := [], arrived := [], bridgeDown := false,
    tlbDie := ([], []), misses := [], pfaults := [], xlfail := [], owed := [], invs := [], ctxs := [], queues := [], qpushes := [],
    launches := [], graphs := [], phases := [], taskQ := [], taskRun := [], ringHeld := [], engines := [],
    cores := [], blocks := [], warps := [], domains := [], defining := [], stoxia := [], peerReqs := [], peerHeld := [], pxData := [], podL2 := ([], []), recent := [], raced := [] }

end Sys2Proof.Machine
end

