-- ==== Sys2Proof/Machine/Memory.lean ====
section
/-! DEFINITION. Access to the parts of the state; memory as a canonical list of cells; physical memory, poison, migration, and page walks (R10, R23-R31, R91, R165-R167). -/
namespace Sys2Proof.Machine
open Sys2Proof

/-! Access to parts of the state. -/

/-- A core, in its reset form where nothing has touched it. -/
def State.core (s : State) (c : Nat) : Core := s.cores.getD c {}
/-- Replace a core. -/
def State.setCore (s : State) (c : Nat) (k : Core) : State := { s with cores := s.cores.put c k }
/-- The key of a warp slot. -/
def slotKey (c k : Nat) : Nat := c * 48 + k
/-- The warp in a slot. -/
def State.warp (s : State) (c k : Nat) : Option Warp := s.warps.find (slotKey c k)
/-- Replace the warp of a slot. -/
def State.setWarp (s : State) (c k : Nat) (w : Warp) : State := { s with warps := s.warps.put (slotKey c k) w }
/-- A block by its number in the state. -/
def State.block (s : State) (b : Nat) : Option Block := s.blocks.find b
/-- Replace a block. -/
def State.setBlock (s : State) (b : Nat) (x : Block) : State := { s with blocks := s.blocks.put b x }
/-- A context's descriptor and registers. -/
def State.ctx (s : State) (c : Nat) : Option Ctx := s.ctxs.find c
/-- Replace a context. -/
def State.setCtx (s : State) (c : Nat) (x : Ctx) : State := { s with ctxs := s.ctxs.put c x }
/-- The sequencer of a core. -/
def State.seq (s : State) (c : Nat) : Option Seq := (s.core c).seq
/-- Replace the sequencer of a core. -/
def State.setSeq (s : State) (c : Nat) (q : Seq) : State := s.setCore c { s.core c with seq := some q }
/-- A tile of a core. -/
def State.tile (s : State) (c t : Nat) : Tile := (s.core c).tiles.getD t {}
/-- Replace a tile of a core. -/
def State.setTile (s : State) (c t : Nat) (x : Tile) : State :=
  s.setCore c { s.core c with tiles := (s.core c).tiles.put t x }
/-- Count one more free value drawn. -/
def State.draw (s : State) : State := { s with free := s.free + 1 }
/-- Give an object a number. -/
def State.newId (s : State) : Nat × State := (s.ids, { s with ids := s.ids + 1 })
/-- A latency the spec leaves open: at least one cycle (log entry 4). -/
def State.latency (s : State) : Nat := 1 + Config.delay s.free
/-- Raise an interrupt to the host. -/
def State.interrupt (s : State) (m : Msix) : State := { s with msix := m :: s.msix }

/-- The die of a core (R14). -/
def dieOf (core : Nat) : Nat := if core < 96 then 0 else 1
/-- The cluster of a core (R14). -/
def clusterOf (core : Nat) : Nat := (core % 96) / 8
/-- The cluster core number of a core (R14). -/
def clusterCore (core : Nat) : Nat := core % 8 + (if core < 96 then 0 else 8)
/-- The package core of a cluster and cluster core number (R14). -/
def coreOf (cluster i : Nat) : Nat := if i < 8 then 8 * cluster + i else 96 + 8 * cluster + (i - 8)

/-- Bit i of a lane mask. -/
def laneBit (m : Word32) (l : Nat) : Bool := m.getLsbD l
/-- The lanes of a mask, in ascending order. -/
def lanesOf (m : Word32) : List Nat := (List.range 32).filter (laneBit m ·)
/-- The mask of a test over lanes. -/
def maskOf (p : Nat → Bool) : Word32 := (List.range 32).foldl (fun m l => if p l then m ||| (1#32 <<< l) else m) 0
/-- The lowest lane of a mask, 0 when it is empty. -/
def lowLane (m : Word32) : Nat := ((lanesOf m).head?).getD 0

/-! Memory as a canonical list of cells (log entry 2: an unlisted byte reads as zero). -/

/-- What an unlisted address reads as. -/
def Memory.unlisted : Byte := 0

/-- Read one byte. -/
def Memory.read : List Host.Cell → Nat → Byte
  | [], _ => Memory.unlisted
  | (k, v) :: t, a => if k = a then v else Memory.read t a

/-- Remove an address. -/
def Memory.erase : List Host.Cell → Nat → List Host.Cell
  | [], _ => []
  | (k, v) :: t, a => if k = a then t else (k, v) :: Memory.erase t a

/-- List a byte under its address, addresses rising. -/
def Memory.insert : List Host.Cell → Nat → Byte → List Host.Cell
  | [], a, b => [(a, b)]
  | (k, v) :: t, a, b =>
    if a < k then (a, b) :: (k, v) :: t
    else if a = k then (a, b) :: t
    else (k, v) :: Memory.insert t a b

/-- Write one byte, keeping the canonical form. -/
def Memory.write (m : List Host.Cell) (a : Nat) (b : Byte) : List Host.Cell :=
  if b = Memory.unlisted then Memory.erase m a else Memory.insert m a b

/-- The canonical form: addresses strictly rise and no entry reads as an unlisted address does. -/
def Memory.wf : List Host.Cell → Bool
  | [] => true
  | (k, v) :: t => v != Memory.unlisted && (match t with | [] => true | (k', _) :: _ => decide (k < k')) && Memory.wf t

/-- Write bytes from an address up. -/
def Memory.writeAll : List Host.Cell → Nat → List Byte → List Host.Cell
  | m, _, [] => m
  | m, a, b :: t => Memory.writeAll (Memory.write m a b) (a + 1) t

/-- n bytes from an address up, by a byte reader. -/
def bytesFrom (rd : Nat → Byte) (a n : Nat) : List Byte := (List.range n).map fun i => rd (a + i)

/-- A byte of a sparse store. -/
def byteOf (m : Assoc Byte) (a : Nat) : Byte := m.getD a 0
/-- Write bytes into a sparse store. -/
def putBytes : Assoc Byte → Nat → List Byte → Assoc Byte
  | m, _, [] => m
  | m, a, b :: t => putBytes (m.put a b) (a + 1) t

/-! Physical memory. -/

/-- The copy of a line that holds its coherent value: the remote L2's while it may be newer, else the home L2's (R134). -/
def DirLine.copy (l : DirLine) : Option (List Byte) :=
  match l.rem with
  | .e | .o | .m => (match l.remCopy with | some b => some b | none => l.homeCopy)
  | _ => l.homeCopy

/-- One byte of HBM or CXL memory as every agent sees it (R91). -/
def State.physByte (s : State) (pa : Nat) : Byte :=
  match (s.lines.find (pa / 128)).bind DirLine.copy with
  | some b => b.getD (pa % 128) 0
  | none => Memory.read s.mem pa

/-- n bytes of memory. -/
def State.physBytes (s : State) (pa n : Nat) : List Byte := bytesFrom s.physByte pa n

/-- A number of n bytes in memory. -/
def State.physNat (s : State) (pa n : Nat) : Nat := leNat (s.physBytes pa n)

/-- Overwrite part of a line copy. -/
def patch (line : List Byte) (off : Nat) (b : Byte) : List Byte := line.set off b

/-- A home state that waits for something (R148). -/
def HomeSt.transient : HomeSt → Bool
  | .hwInv | .hwFs | .hwFi | .hwMem => true
  | _ => false
/-- A remote state that waits for something (R149). -/
def RemSt.transient : RemSt → Bool
  | .is | .im | .sm | .wi | .ei => true
  | _ => false
/-- Is an exchange of messages about a line under way (R148, R149)? -/
def DirLine.moving (l : DirLine) : Bool := l.home.transient || l.rem.transient

/-- One byte into the copies of its line; while the line's data may be on the bridge, it is kept to be written over them when they arrive (log entry 5). -/
def DirLine.patch (l : DirLine) (off : Nat) (b : Byte) : DirLine :=
  { l with
    homeCopy := l.homeCopy.map (Sys2Proof.Machine.patch · off b)
    remCopy := l.remCopy.map (Sys2Proof.Machine.patch · off b)
    late := if l.moving then l.late ++ [(off, b)] else l.late }

/-- The data of a message as they stand at its arrival: bytes written meanwhile are newer (log entry 5). -/
def DirLine.arrived (l : DirLine) (m : BridgeMsg) : List Byte := l.late.foldl (fun d x => Sys2Proof.Machine.patch d x.1 x.2) (m.data.take 128)

/-- Does a write that some agents may not see yet cover a byte? -/
def Recent.covers (r : Recent) (pa : Nat) : Bool := decide (r.pa ≤ pa) && decide (pa < r.pa + r.old.length)

/-- One byte into memory and every copy of its line (log entry 5: an access is performed whole in its step). An earlier write of the byte is then performed everywhere (R91). -/
def State.setPhysByte (s : State) (pa : Nat) (b : Byte) : State :=
  { s with
    mem := Memory.write s.mem pa b
    lines := match s.lines.find (pa / 128) with
      | some l => s.lines.put (pa / 128) (l.patch (pa % 128) b)
      | none => s.lines
    recent := s.recent.filter fun r => !r.covers pa }

/-- Bytes into memory, byte by byte. -/
def State.setPhysBytes : State → Nat → List Byte → State
  | s, _, [] => s
  | s, pa, b :: t => State.setPhysBytes (s.setPhysByte pa b) (pa + 1) t

/-- The sectors a range touches. -/
def sectorsOf (pa n : Nat) : List Nat := if n = 0 then [] else (List.range ((pa + n - 1) / 64 - pa / 64 + 1)).map (· + pa / 64)

/-- The first poisoned sector a range touches, as its physical address (R165). -/
def State.poisonIn (s : State) (pa n : Nat) : Option Nat :=
  (sectorsOf pa n).findSome? fun x => if (s.poison.find x).isSome then some (x * 64) else none

/-- Poison is cleared by a write of a whole sector (R167). -/
def clearPoison (p : Assoc Nat) (pa n : Nat) : Assoc Nat :=
  (sectorsOf pa n).foldl (fun p x => if pa ≤ x * 64 ∧ x * 64 + 64 ≤ pa + n then p.del x else p) p

/-- Bytes in a page of the MIG size code (R157): 64 KiB, 2 MiB, 1 GiB. -/
def migBytes (size : Nat) : Nat := if size = 0 then 65536 else if size = 1 then 2097152 else 1073741824

/-- The migration entry a byte of an old frame falls under. -/
def State.migOf (s : State) (pa : Nat) : Option Mig :=
  s.mig.find? fun g => decide (g.req.old ≤ pa) && decide (pa < g.req.old + migBytes g.req.size)

/-- Where an access to a physical byte is performed: the new frame once a migration has switched (R160). -/
def State.migTarget (s : State) (pa : Nat) : Nat :=
  match s.migOf pa with
  | some g => if g.state = MigSt.redirect then g.req.new + (pa - g.req.old) else pa
  | none => pa

/-- Set the dirty bit of a byte's line while its frame is in COPY or SWITCH (R159). -/
def State.migNote (s : State) (pa : Nat) : State :=
  match s.migOf pa with
  | some g =>
    let line := (pa - g.req.old) / 128
    if g.state = MigSt.redirect ∨ g.dirty.contains line then s
    else { s with mig := s.mig.map fun h => if h.req.old = g.req.old then { h with dirty := line :: h.dirty } else h }
  | none => s

/-- Write bytes to physical memory: into the frame that now holds them, clearing the poison of whole sectors, recording them for a migration. -/
def State.writePhys (s : State) (pa : Nat) (bytes : List Byte) : State :=
  let t := s.migTarget pa
  let s1 := (sectorsOf pa bytes.length).foldl (fun (s : State) x => s.migNote (x * 64)) s
  let s2 := s1.setPhysBytes t bytes
  { s2 with poison := clearPoison s2.poison t bytes.length }

/-! Encrypted sectors (R29, R60, R162-R164; log entry 28). -/

/-- The 64 bytes of a sector as memory holds them (R162). -/
def State.stored (s : State) (x : Nat) : List Byte :=
  match s.seals.find x with
  | some k => k.raw.getD (Config.xtsEncrypt k.pair (x * 64) (s.physBytes (x * 64) 64))
  | none => s.physBytes (x * 64) 64

/-- Does a sector stand as an access under a key expects it: sealed by that key with its tag, or as nothing has written it; with key 0, sealed by none? -/
def State.sealedBy (s : State) (key x : Nat) : Bool :=
  match s.seals.find x with
  | some k => key != 0 && k.key == key && k.ok
  | none => key == 0 || (s.physBytes (x * 64) 64).all (· == 0)

/-- Does an access under a key meet a sector in memory that stands otherwise? Of a line that an L2 holds, as plaintext, it meets nothing: a free choice (R60). -/
def State.misread (s : State) (key x : Nat) : Bool := !s.sealedBy key x && !Config.freeNew s.free (x + 2 ^ 100)

/-- Does the integrity check of a sector fail under a key (R163)? -/
def State.tagBad (s : State) (key x : Nat) : Bool := key != 0 && s.misread key x

/-- A byte as an access under a key has it, where its decrypted value is `b`: under no key a sealed sector gives what stands in memory (R29). -/
def State.underKey (s : State) (key pa : Nat) (b : Byte) : Byte :=
  if key = 0 ∧ s.misread 0 (pa / 64) then (s.stored (pa / 64)).getD (pa % 64) 0 else b

/-- Does a write of a range cover a sector whole? -/
def coversSector (pa n x : Nat) : Bool := decide (pa ≤ x * 64) && decide (x * 64 + 64 ≤ pa + n)

/-- The sectors of a write under a key that need a read-modify-write and fail their check (R164). -/
def State.writeLost (s : State) (key pa n : Nat) : List Nat := (sectorsOf pa n).filter fun x => !coversSector pa n x && s.tagBad key x

/-- A write under a key seals the sectors it leaves encrypted; under no key it unseals a whole sector, and breaks the tag of one it changes in part (R162, R167). -/
def State.reseal (s : State) (key pa : Nat) (bytes : List Byte) : State :=
  (sectorsOf pa bytes.length).foldl (fun (s : State) x =>
    let whole := coversSector pa bytes.length x
    if key ≠ 0 then
      (if whole || s.sealedBy key x then { s with seals := s.seals.put x ⟨key, s.pairs.getD key 0, true, none⟩ } else s)
    else match s.seals.find x with
      | none => s
      | some k =>
        if whole then { s with seals := s.seals.del x }
        else if s.misread 0 x then
          let raw := (List.range 64).map fun i => if pa ≤ x * 64 + i ∧ x * 64 + i < pa + bytes.length then bytes.getD (x * 64 + i - pa) 0 else (s.stored x).getD i 0
          { s with seals := s.seals.put x { k with ok := false, raw := some raw } }
        else s) s

/-- Failed checks that the command processor is to act on (R164). -/
def State.noteTags (s : State) (key : Nat) (xs : List Nat) (rmw : Bool) : State :=
  if xs.isEmpty then s else { s with tagFails := s.tagFails ++ xs.map fun x => { sector := x, key := key, rmw := rmw } }

/-- Write bytes under a key, unless a read-modify-write meets INTEGRITY (R164). -/
def State.writeUnder (s : State) (key pa : Nat) (bytes : List Byte) : State :=
  let t := s.migTarget pa
  match s.writeLost key t bytes.length with
  | [] => (s.reseal key t bytes).writePhys pa bytes
  | xs => s.noteTags key xs true

/-- Read bytes of physical memory under no key from the frame that now holds them. -/
def State.readPhys (s : State) (pa n : Nat) : List Byte :=
  (List.range n).map fun i => s.underKey 0 (s.migTarget pa + i) (s.physByte (s.migTarget pa + i))

/-- The populated GiB of a die's HBM (R10). -/
def State.hbmGiB (s : State) (die : Nat) : Nat :=
  match s.boot with
  | some b => ((b.hbmlen.drop (6 * die)).take 6).foldl (· + ·) 0
  | none => 0

/-- Is the byte range in the populated part of an HBM home region? (R10) -/
def State.inHbm (s : State) (pa n : Nat) : Bool :=
  (decide (pa + n ≤ s.hbmGiB 0 * 2 ^ 30)) ||
  (decide (2 ^ 40 ≤ pa) && decide (pa + n ≤ 2 ^ 40 + s.hbmGiB 1 * 2 ^ 30))

/-- Is the byte range in the populated part of a CXL range? (R10) -/
def State.inCxl (s : State) (pa n : Nat) : Bool :=
  decide (2 ^ 44 ≤ pa) && decide (pa < 2 ^ 44 + 8 * 2 ^ 40) &&
  decide ((pa - 2 ^ 44) % 2 ^ 40 + n ≤ s.cxl.getD ((pa - 2 ^ 44) / 2 ^ 40) 0 * 2 ^ 30)

/-- The home die of a physical address (R10). -/
def homeDie (pa : Nat) : Nat :=
  if pa < 2 ^ 40 then 0 else if pa < 2 ^ 41 then 1 else if (pa - 2 ^ 44) / 2 ^ 40 < 4 then 0 else 1

/-! The directory (R134-R137, R147, R149). -/

/-- The directory's entry and the copies of a line. -/
def State.line (s : State) (n : Nat) : DirLine := s.lines.getD n {}
/-- Replace a line's entry; with no exchange under way nothing is kept for its data. -/
def State.setLine (s : State) (n : Nat) (l : DirLine) : State := { s with lines := s.lines.put n { l with late := if l.moving then l.late else [] } }
/-- The home die of a line (R134). -/
def lineHome (n : Nat) : Nat := homeDie (n * 128)
/-- Is a line in HBM or behind a CXL port (R135)? -/
def State.lineExists (s : State) (n : Nat) : Bool := s.inHbm (n * 128) 128 || s.inCxl (n * 128) 128
/-- The lines a range touches. -/
def linesOf (pa n : Nat) : List Nat := if n = 0 then [] else (List.range ((pa + n - 1) / 128 - pa / 128 + 1)).map (· + pa / 128)
/-- The migration state of a line's frame. -/
def State.lineMig (s : State) (n : Nat) : Option MigSt := (s.migOf (n * 128)).map fun (g : Mig) => g.state

/-- Does the remote L2 hold a copy (R136)? -/
def DirLine.isRemote (l : DirLine) : Bool := match l.rem with | .s | .e | .o | .m => true | _ => false

/-- A read by the home die, its exchange over: after FWDS a copy in M is O and one in E is S, and the home holds the line (R147, R149). -/
def DirLine.homeRead (l : DirLine) (now : List Byte) : DirLine :=
  match l.home, l.rem with
  | .de, .m => { l with home := .dO, rem := .o, homeCopy := some now, homeDirty := true }
  | .de, .e => { l with home := .ds, rem := .s, homeCopy := some now }
  | .de, _ => { l with home := .di, homeCopy := some now }
  | _, _ => { l with homeCopy := some now }
/-- A write or atomic by the home die, its exchange over: after INV or FWDI the remote copy is gone, and the home holds the line dirty (R147). -/
def DirLine.homeWrite (l : DirLine) (now : List Byte) : DirLine :=
  { l with home := .di, rem := .i, remCopy := none, homeCopy := some now, homeDirty := true }
/-- A read by the other die, its exchange over: E where the home holds no copy, else S (R147). -/
def DirLine.remoteRead (l : DirLine) (now : List Byte) : DirLine :=
  if l.isRemote then l
  else if l.homeCopy.isNone then { l with home := .de, rem := .e, remCopy := some now }
  else { l with home := .ds, rem := .s, remCopy := some now }
/-- A write by the other die, its exchange over: M, and the home copy is dropped (R136, R147). -/
def DirLine.remoteWrite (l : DirLine) (now : List Byte) : DirLine :=
  { l with home := .de, rem := .m, remCopy := some now, homeCopy := none, homeDirty := false }

/-- The slices of a die's carve-out (R61). -/
def State.carved (s : State) (die : Nat) : Nat := match s.boot with | some b => if die = 0 then b.scr0 else b.scr1 | none => 0
/-- The slices of a die that serve as cache with some retired: a retired slice of the carve-out has taken the first of those left (R61, R174). -/
def State.cacheSlices (s : State) (ret : BitVec 128) (die : Nat) : List Nat :=
  let here := fun (i : Nat) => !ret.getLsbD (64 * die + i)
  let all := List.range 64
  (((all.drop (s.carved die)).filter here)).drop ((all.take (s.carved die)).filter fun i => !here i).length
/-- The slice of a line at its home with some slices retired: by the hash, and where that slice no longer serves, by the hash over those that do (R60, R174). -/
def State.sliceIn (s : State) (ret : BitVec 128) (n : Nat) : Nat :=
  let first := (List.range 64).drop (s.carved (lineHome n))
  let x := first.getD (Config.lineHash n % first.length) 0
  let xs := s.cacheSlices ret (lineHome n)
  if xs.contains x then x else xs.getD (Config.lineHash n % xs.length) 0
/-- The home slice of a line (R134, R174). -/
def State.sliceOf (s : State) (n : Nat) : Nat := s.sliceIn s.l2retDone n
/-- Directory entries of a slice; the spec gives no number (R135; log entry 6). -/
def directorySize : Nat := 1 + Config.directoryMore
/-- The lines that a slice's directory tracks for the other die. -/
def State.tracked (s : State) (die slice : Nat) : List Nat :=
  (s.lines.filter fun e => (e.2.isRemote || e.2.moving) && lineHome e.1 == die && s.sliceOf e.1 == slice).map Prod.fst
/-- The home takes a line over; data that comes back from M is noted by a migration (R159). -/
def State.homeTurn (s : State) (n : Nat) (l m : DirLine) : State :=
  if l.rem = .m then (s.setLine n m).migNote (n * 128) else s.setLine n m
/-- One of a slice's remote copies is recalled as if for a local write, where no entry is free for another line; which one is free (R135). -/
def State.recallFor (s : State) (n : Nat) : State :=
  let xs := s.tracked (lineHome n) (s.sliceOf n)
  let still := xs.filter fun x => !(s.line x).moving
  if xs.contains n ∨ xs.length < directorySize then s
  else match still[(Config.freeWord (s.free + n)).toNat % still.length]? with
    | some x => s.homeTurn x (s.line x) ((s.line x).homeWrite (s.physBytes (x * 128) 128))
    | none => s

/-- An access of a die to a line: the directory and the copies come to the state that serves it, with the exchange it takes, in one step (R134, R136, R147, R149; log entry 5). A line in an exchange of its own, or beyond a bridge that is down, stays as it is. -/
def State.touchLine (s : State) (die : Nat) (write : Bool) (n : Nat) : State :=
  let now := s.physBytes (n * 128) 128
  if s.bridgeDown || !s.lineExists n || (s.line n).moving then s
  else if die = lineHome n then match s.lines.find n with
    | none => s
    | some l => s.homeTurn n l (if write then l.homeWrite now else l.homeRead now)
  else
    let s1 := s.recallFor n
    let l := s1.line n
    let m := if write then l.remoteWrite now else l.remoteRead now
    let s2 := s1.setLine n m
    if m.home = .de ∧ l.home ≠ .de then s2.migNote (n * 128) else s2

/-- An access of a die to bytes of memory; one to a frame in REDIRECT is served by the home of the new frame (R158). -/
def State.touch (s : State) (die : Nat) (write : Bool) (pa n : Nat) : State :=
  let t := s.migTarget pa
  (linesOf t n).foldl (fun (s : State) x => s.touchLine (if t = pa then die else lineHome x) write x) s

/-- Must an access to bytes of memory wait: an exchange about one of its lines is under way, or the frame is being switched (R148, R149, R158)? -/
def State.lineBusy (s : State) (pa n : Nat) : Bool :=
  (match s.migOf pa with | some g => g.state == MigSt.switch | none => false) || (linesOf (s.migTarget pa) n).any fun x => (s.line x).moving

/-! Causes (R263). -/

/-- The code of a cause. -/
def Cause.code : Cause → Nat
  | .none => 0 | .illegal => 0x01 | .regRange => 0x02 | .tileOwner => 0x03 | .giveTarget => 0x04 | .tagRange => 0x05
  | .memberMask => 0x06 | .nonuniform => 0x07 | .divOverflow => 0x08 | .addrRange => 0x09 | .misaligned => 0x0A
  | .addrHole => 0x0B | .windowStraddle => 0x0C | .notValid => 0x10 | .pageRetired => 0x11 | .writeProtect => 0x12
  | .execFault => 0x13 | .keyMismatch => 0x14 | .pteFormat => 0x15 | .physHole => 0x16 | .peerDenied => 0x17
  | .peerUnreachable => 0x18 | .handleSet => 0x20 | .handleUnderrun => 0x21 | .handleOverrun => 0x22 | .handleRole => 0x23
  | .cmpt => 0x24 | .software => 0x30 | .breakpoint => 0x31 | .sequencerFault => 0x38 | .ueConsumed => 0x40
  | .barrierTimeout => 0x41 | .doubleTrap => 0x42 | .noHandler => 0x43

/-- The rank of a cause among the conditions of one lane (R265, R22). -/
def Cause.rank : Cause → Nat
  | .illegal => 1 | .regRange => 2 | .tileOwner => 3
  | .giveTarget | .tagRange | .memberMask | .nonuniform | .divOverflow => 4
  | .addrRange => 5 | .misaligned => 6 | .addrHole | .windowStraddle => 7
  | _ => 8

/-! Page tables (R23-R26). -/

/-- A field of an entry. -/
def pteBits (e : BitVec 128) (lo n : Nat) : Nat := (e.extractLsb' lo n).toNat
/-- V (R24). -/
def pteV (e : BitVec 128) : Bool := e.getLsbD 64
/-- W (R24). -/
def pteW (e : BitVec 128) : Bool := e.getLsbD 65
/-- X (R24). -/
def pteX (e : BitVec 128) : Bool := e.getLsbD 66
/-- LEAF (R24). -/
def pteLeaf (e : BitVec 128) : Bool := e.getLsbD 67
/-- TIER (R24). -/
def pteTier (e : BitVec 128) : Nat := pteBits e 68 2
/-- PEER (R24). -/
def ptePeer (e : BitVec 128) : Bool := e.getLsbD 70
/-- PC (R24). -/
def ptePc (e : BitVec 128) : Bool := e.getLsbD 71
/-- RT (R24). -/
def pteRt (e : BitVec 128) : Bool := e.getLsbD 73
/-- KEY (R24). -/
def pteKey (e : BitVec 128) : Nat := pteBits e 80 8
/-- PKG (R24). -/
def ptePkg (e : BitVec 128) : Nat := pteBits e 88 15
/-- ADDR (R24). -/
def pteAddr (e : BitVec 128) : Nat := pteBits e 0 52

/-- Bytes a leaf of a level maps (R23). -/
def pageBytes (level : Nat) : Nat := if level = 0 then 2 ^ 16 else if level = 1 then 2 ^ 21 else 2 ^ 30
/-- Bytes of a table of a level (R23). -/
def tableBytes (level : Nat) : Nat :=
  match level with
  | 0 => 512
  | 1 => 8192
  | 2 => 65536
  | _ => 262144
/-- The index of a virtual address at a level (R23). -/
def pteIndex (level va : Nat) : Nat :=
  match level with
  | 0 => va / 2 ^ 16 % 32
  | 1 => va / 2 ^ 21 % 512
  | 2 => va / 2 ^ 30 % 4096
  | _ => va / 2 ^ 42 % 16384

/-- The range lies in one of the two HBM home regions. -/
def inHomeRegion (pa n : Nat) : Bool := decide (pa + n ≤ 2 ^ 40) || (decide (2 ^ 40 ≤ pa) && decide (pa + n ≤ 2 ^ 41))
/-- The range lies in one CXL port range. -/
def inCxlRange (pa n : Nat) : Bool := decide (2 ^ 44 ≤ pa) && decide (pa + n ≤ 2 ^ 44 + 8 * 2 ^ 40)

/-- The package's own id. -/
def State.pkgid (s : State) : Nat := match s.boot with | some b => b.pkgid | none => 0

/-- The PTE-FORMAT checks of an entry with V = 1 (R25).
DESIGN CHOICE (log entry 29): a pointer entry whose table lies in a home region but not in its populated part is PTE-FORMAT too; R25 gives PHYS-HOLE to leaves alone. -/
def State.pteBad (s : State) (level : Nat) (e : BitVec 128) : Bool :=
  pteBits e 103 25 != 0 || pteBits e 74 6 != 0 || pteBits e 52 12 != 0 ||
  (pteLeaf e && level == 3) || (!pteLeaf e && level == 0) ||
  pteTier e == 3 || (ptePeer e != (pteTier e == 2)) || (ptePc e && pteTier e != 2) ||
  (ptePkg e != 0 && pteTier e != 2) || (pteTier e == 2 && ptePkg e == s.pkgid) ||
  (if pteLeaf e then
     pteAddr e % pageBytes level != 0 ||
     (pteTier e == 0 && !inHomeRegion (pteAddr e) (pageBytes level)) ||
     (pteTier e == 1 && !inCxlRange (pteAddr e) (pageBytes level))
   else
     pteAddr e % tableBytes (level - 1) != 0 || pteTier e != 0 || ptePeer e || ptePc e || ptePkg e != 0 ||
     !s.inHbm (pteAddr e) (tableBytes (level - 1)))

/-- What one entry of a walk gives: a leaf, the next table, or the fault, `sized` where a leaf gives the page its size (R25, R26). -/
inductive WalkStep where
  | leaf (e : BitVec 128)
  | table (pa : Nat)
  | fault (c : Cause) (sized : Bool)
  deriving DecidableEq, Repr

/-- The walker that stands for path TK at the home of a table: it never needs the bridge. -/
def tkWalker : Nat := 2

/-- One level of a walk by a walker of a die (R23-R26). An entry that is poisoned or lies beyond a bridge that is down has no format (R153; log entry 21). -/
def State.walkStep (s : State) (die va table level : Nat) : WalkStep :=
  let pa := table + 16 * pteIndex level va
  let e : BitVec 128 := BitVec.ofNat 128 (leNat (s.readPhys pa 16))
  if (s.bridgeDown && die != tkWalker && homeDie pa != die) || (s.poisonIn (s.migTarget pa) 16).isSome then .fault .pteFormat false
  else if !pteV e then .fault .notValid false
  else if s.pteBad level e then .fault .pteFormat false
  else if pteLeaf e then
    if (pteTier e == 0 && !s.inHbm (pteAddr e) (pageBytes level)) || (pteTier e == 1 && !s.inCxl (pteAddr e) (pageBytes level))
    then .fault .physHole true
    else if pteRt e then .fault .pageRetired true
    else .leaf e
  else .table (pteAddr e)

/-- The walk from a table of the topmost of `n` levels down: the leaf and the bytes it maps, or the fault and the bytes of its page; the page of a fault that no leaf gives a size is 64 KiB (log entry 21). -/
def State.walkFrom (s : State) (die va : Nat) : Nat → Nat → Except (Cause × Nat) (BitVec 128 × Nat)
  | 0, _ => .error (.pteFormat, 65536)
  | n + 1, table => match s.walkStep die va table n with
    | .leaf e => .ok (e, pageBytes n)
    | .table t => State.walkFrom s die va n t
    | .fault c sized => .error (c, if sized then pageBytes n else 65536)

/-- A page walk of a context by a walker of a die (R31). -/
def State.walk (s : State) (die ctx va : Nat) : Except (Cause × Nat) (BitVec 128 × Nat) :=
  match s.ctx ctx with
  | some x => s.walkFrom die va 4 x.root
  | none => .error (.notValid, 65536)

end Sys2Proof.Machine
end

