-- ==== Sys2Proof/Machine/Access.lean ====
section
/-! DEFINITION. The generic space and its windows (R9-R22), translation with its caches, misses and faults (R32-R40), and the accesses of an agent to bytes (R57, R88-R92). -/
namespace Sys2Proof.Machine
open Sys2Proof

/-! Spaces. -/

/-- Where a byte of an access lies: a global virtual address, shared storage of a core, or L2 scratch of a die. -/
inductive Loc where
  | glob (va : Nat)
  | shared (core off : Nat)
  | scratch (die off : Nat)
  deriving DecidableEq, Repr

/-- A contiguous valid range of the generic space and where it leads. -/
structure Region where
  base : Nat
  len : Nat
  to_ : Loc
  deriving DecidableEq, Repr

/-- First byte of the windows: the end of the global space (R11). -/
def windowsBase : Nat := 0x00FFF00000000000
/-- SHARED (R11). -/
def sharedBase : Nat := 0x00FFF00000000000
/-- CLUSTER (R11). -/
def clusterBase : Nat := 0x00FFF10000000000
/-- LANE (R11). -/
def laneWin : Nat := 0x00FFF20000000000
/-- L2 SCRATCH (R11). -/
def scratchBase : Nat := 0x00FFF80000000000

/-- The path's code (R38). -/
def Path.code : Path → Nat
  | .ls => 0 | .sq => 1 | .cp => 2 | .se => 3 | .co => 4 | .tk => 5

/-- Who makes an access: its path, context, block, core, and for a lane its lane index (R15, R84). -/
structure Agt where
  path : Path
  who : Who
  ctx : Nat
  core : Option Nat := none
  die : Nat
  block : Option Nat := none
  laneIdx : Option Nat := none
  /-- The number of the queue entry, copy, record or collective whose writes to peers it sends (R28). -/
  work : Nat := 0
  deriving DecidableEq, Repr

/-- Does the path use a space (R19)? -/
def Path.uses : Path → Nat → Bool
  | .ls, _ => true
  | .sq, sp | .cp, sp => sp != 4
  | .se, sp | .tk, sp => sp == 1 || sp == 5
  | .co, sp => sp == 1

/-- The shared-memory region of a block, at a base in the generic space. -/
def sharedRegion (base : Nat) (b : Block) : Region := ⟨base, b.shSize, .shared b.core b.shBase⟩

/-- The CLUSTER slices an agent of a block reaches (R14, R59). -/
def State.clusterRegions (s : State) (bid : Nat) (b : Block) : List Region :=
  let isCluster := match s.launches.find b.launch with
    | some l => fieldAt l.fields 0x2F 1 % 2 == 1
    | none => false
  if isCluster then
    s.blocks.filterMap fun (_, x) =>
      if x.launch = b.launch ∧ clusterOf x.core = clusterOf b.core then
        some (sharedRegion (clusterBase + clusterCore x.core * 0x100000) x) else none
  else match s.block bid with
    | some x => [sharedRegion (clusterBase + clusterCore x.core * 0x100000) x]
    | none => []

/-- The valid regions of the generic space for an agent (R11-R16, R19). Each space is one region of its valid bytes; the two L2 SCRATCH grants are one region where the first fills its half of the window, since they then adjoin (R21). -/
def State.regions (s : State) (g : Agt) : List Region :=
  let glob : List Region := [⟨0, windowsBase, .glob 0⟩]
  let blk := g.block.bind s.block
  let shr := match blk with
    | some b => if g.path.uses 2 then [sharedRegion sharedBase b] else []
    | none => []
  let clu := match g.block, blk with
    | some i, some b => if g.path.uses 3 then s.clusterRegions i b else []
    | _, _ => []
  let lan := match s.ctx g.ctx, g.laneIdx with
    | some x, some i => if g.path.uses 4 then [⟨laneWin, x.laneSize, .glob (x.laneBase + i * x.laneSize)⟩] else []
    | _, _ => []
  let scr := match s.ctx g.ctx with
    | some x => if g.path.uses 5 then
        if x.scr0.2 = 16 then [⟨scratchBase, 0x4000000 + x.scr1.2 * 0x400000, .scratch 0 0⟩] else
        [⟨scratchBase, x.scr0.2 * 0x400000, .scratch 0 (x.scr0.1 * 0x400000)⟩,
         ⟨scratchBase + 0x4000000, x.scr1.2 * 0x400000, .scratch 1 (x.scr1.1 * 0x400000)⟩] else []
    | none => []
  glob ++ shr ++ clu ++ lan ++ scr

/-- A location moved on by some bytes. -/
def Loc.plus : Loc → Nat → Loc
  | .glob va, n => .glob (va + n)
  | .shared c o, n => .shared c (o + n)
  | .scratch d o, n => .scratch d (o + n)

/-- Bytes of [a, a + n) that lie in a region. -/
def overlap (a n : Nat) (r : Region) : Nat := min (a + n) (r.base + r.len) - max a r.base

/-- The window a space field selects: its base and size (R11, R18). -/
def windowOf (sp : Nat) : Nat × Nat :=
  match sp with
  | 2 => (sharedBase, 0x100000)
  | 3 => (clusterBase, 0x1000000)
  | 4 => (laneWin, 0x4000000)
  | _ => (scratchBase, 0x8000000)

/-- A range classified as a whole (R12, R21): inside one region, in holes entirely, or across an edge. -/
def classify (rs : List Region) (a n : Nat) : Except Cause Loc :=
  match rs.find? fun r => decide (r.base ≤ a) && decide (a + n ≤ r.base + r.len) with
  | some r => .ok (r.to_.plus (a - r.base))
  | none => if (rs.foldl (fun t r => t + overlap a n r) 0) = 0 then .error .addrHole else .error .windowStraddle

/-- Resolve an effective address of n bytes in a space (R9, R18, R21). -/
def State.resolve (s : State) (g : Agt) (sp : Nat) (ea : Word64) (n : Nat) : Except Cause Loc :=
  if sp ≤ 1 then
    if 2 ^ 56 ≤ ea.toNat then .error .addrRange
    else if sp = 1 then
      (if windowsBase ≤ ea.toNat then .error .addrHole else classify [⟨0, windowsBase, .glob 0⟩] ea.toNat n)
    else classify (s.regions g) ea.toNat n
  else
    let (base, size) := windowOf sp
    if size ≤ ea.toNat then .error .addrHole else classify (s.regions g) (base + ea.toNat) n

/-! Translation. -/

/-- The context's entry that covers a page. -/
def tlbFind (l : List TlbEntry) (ctx page : Nat) : Option TlbEntry :=
  l.find? fun e => decide (e.ctx = ctx) && decide (e.page ≤ page) && decide (page < e.page + e.span)

/-- The shared cache of a die (R32). -/
def State.dieTlb (s : State) (die : Nat) : List TlbEntry := if die = 0 then s.tlbDie.1 else s.tlbDie.2
/-- Replace the shared cache of a die. -/
def State.setDieTlb (s : State) (die : Nat) (l : List TlbEntry) : State :=
  { s with tlbDie := if die = 0 then (l, s.tlbDie.2) else (s.tlbDie.1, l) }

/-- What a translation of one page gives. -/
inductive Xl where
  | hit (e : TlbEntry)
  | miss
  | failed (f : XFail)
  deriving DecidableEq, Repr

/-- Look a page up for an agent: a fault a walk delivered to it, the core's cache, the die's cache (R32, R34). -/
def State.lookup (s : State) (g : Agt) (page : Nat) : Xl :=
  match s.xlfail.find? fun f => decide (f.who = g.who) && decide (f.walked = page) with
  | some f => .failed f
  | none =>
    let core := match g.core with
      | some c => tlbFind (s.core c).tlb g.ctx page
      | none => none
    match core with
    | some e => .hit e
    | none => match tlbFind (s.dieTlb g.die) g.ctx page with
      | some e => .hit e
      | none => .miss

/-- The checks of R26 that depend on the access, against a cached entry.
DESIGN CHOICE (log entry 29): the KEY check is made here for a peer page too, although R28 lets its KEY name a slot at the peer. -/
def State.leafCheck (s : State) (g : Agt) (acc : Acc) (e : BitVec 128) : Option Cause :=
  if (acc == .write || acc == .atomic) && !pteW e then some .writeProtect
  else if acc == .fetch && (!pteX e || pteTier e != 0) then some .execFault
  else if pteKey e != 0 && s.keys.find (pteKey e) != some g.ctx then some .keyMismatch
  else none

/-- Is a cause replayable in the context (R26)? -/
def State.replayable (s : State) (ctx : Nat) (c : Cause) : Bool :=
  match s.ctx ctx with
  | some x => x.fmode == 1 && (c == .notValid || c == .pageRetired || c == .writeProtect)
  | none => false

/-- Drop the entries that cover a page from the requester's caches (R33). -/
def State.dropEntry (s : State) (g : Agt) (page : Nat) : State :=
  let keep := fun (e : TlbEntry) => !(decide (e.ctx = g.ctx) && decide (e.page ≤ page) && decide (page < e.page + e.span))
  let s1 := s.setDieTlb g.die ((s.dieTlb g.die).filter keep)
  match g.core with
  | some c => s1.setCore c { s1.core c with tlb := (s1.core c).tlb.filter keep }
  | none => s1

/-- The parts of a virtual range that lie in different 64-KiB pages: page, first byte, length. -/
def pagesOf (va n : Nat) : List (Nat × Nat × Nat) :=
  let p0 := va / 65536
  let p1 := (va + n - 1) / 65536
  (List.range (p1 - p0 + 1)).map fun i =>
    let a := max va ((p0 + i) * 65536)
    (p0 + i, a, min (va + n) ((p0 + i + 1) * 65536) - a)

/-- What the translation of an access of an agent gives (R36): the pieces of the pages that translate, the pages that miss with the lowest byte in each, and the faults, all in address order. -/
structure Tr where
  ps : List Piece := []
  missed : List (Nat × Nat) := []
  faults : List XFault := []
  deriving DecidableEq, Repr

/-- The parts of one access together. -/
def Tr.join (a b : Tr) : Tr := ⟨a.ps ++ b.ps, a.missed ++ b.missed, a.faults ++ b.faults⟩

/-- Translate one page's part. -/
def State.trPage (s : State) (g : Agt) (acc : Acc) (part : Nat × Nat × Nat) : Tr :=
  match s.lookup g part.1 with
  | .failed f => { faults := [⟨f.cause, f.page, f.span, part.2.1, acc⟩] }
  | .miss => { missed := [(part.1, part.2.1)] }
  | .hit e => match s.leafCheck g acc e.pte with
    | some c => { faults := [⟨c, e.page, e.span, part.2.1, acc⟩] }
    | none => { ps := [⟨pteAddr e.pte + (part.2.1 - e.page * 65536), part.2.2, e.pte⟩] }

/-- Translate a global range (R20, R36). -/
def State.translate (s : State) (g : Agt) (acc : Acc) (va n : Nat) : Tr :=
  (pagesOf va n).foldl (fun t p => t.join (s.trPage g acc p)) {}

/-- Walkers of a die (R32). -/
def walkersPerDie : Nat := 32
/-- Distinct pages that a die's shared cache holds missing at once (R34); later requests stand behind them, in arrival order. -/
def missesPerDie : Nat := 1024

/-- Free walkers take misses of a die in the order the shared cache received them (R34). -/
def takeWalks (die done : Nat) : Nat → List Miss → List Miss
  | _, [] => []
  | 0, l => l
  | n + 1, m :: l => if m.die = die ∧ m.due = none then { m with due := some done } :: takeWalks die done n l else m :: takeWalks die done (n + 1) l

/-- Each free walker of a die takes a miss (R34). -/
def State.startWalks (s : State) (die : Nat) : State :=
  let busy := (s.misses.filter fun m => m.die = die ∧ m.due.isSome).length
  { s with free := s.free + 1, misses := takeWalks die (s.clock + s.latency) (walkersPerDie - busy) s.misses }

/-- Has the walk of a miss ended? -/
def Miss.walkDone (m : Miss) (clock : Nat) : Bool := match m.due with | some d => decide (d ≤ clock) | none => false

/-- A miss of an agent's die that takes another requester of a page (R34). -/
def Miss.takes (m : Miss) (g : Agt) (page : Nat) : Bool :=
  decide (m.die = g.die) && decide (m.ctx = g.ctx) && decide (m.page = page) && !m.discarded

/-- Join the misses of an agent to the outstanding ones; a page already missing takes one more waiter (R34). -/
def State.noteMiss (s : State) (g : Agt) (acc : Acc) (page addr : Nat) : State :=
  let x : Waiter := ⟨g.who, g.path, addr, acc⟩
  if s.misses.any (·.takes g page) then
    { s with misses := s.misses.map fun m => if m.takes g page && !(m.waiters.any (·.who == g.who)) then { m with waiters := m.waiters ++ [x] } else m }
  else
    State.startWalks { s with misses := s.misses ++ [{ die := g.die, ctx := g.ctx, page := page, waiters := [x] }] } g.die

/-- A fault queue entry's bytes (R38). -/
def fqEntry (va seq : Nat) (c : Cause) (acc : Acc) (path : Path) (ctx unit holder replays : Nat) : List Byte :=
  let accCode := match acc with | .read => 0 | .write => 1 | .atomic => 2 | .fetch => 3
  leBytes 8 va ++ leBytes 8 seq ++ leBytes 1 c.code ++ leBytes 1 accCode ++ leBytes 1 path.code ++ leBytes 1 ctx ++
  leBytes 2 unit ++ leBytes 1 holder ++ leBytes 1 (min replays 255) ++ leBytes 8 0

/-- The source unit of a requester (R38). -/
def Who.unit : Who → Nat → Nat
  | .warp c _, _ | .seq c, _ | .queue c _, _ | .copy c _, _ => c
  | .engine e, _ => 0x100 + e
  | .coll _ _, die => 0x120 + die
  | .tk d, _ => 0x130 + d % 2

/-- The holder code of a requester on a path (R38); a copy that is checked at issue is the copy unit's. -/
def Who.holder : Who → Path → Nat
  | .warp _ _, .cp => 49
  | .warp _ k, _ => k
  | .seq _, _ => 48
  | .queue _ _, _ => 48
  | .copy _ _, _ => 49
  | .engine _, _ => 50
  | .coll _ _, _ => 51
  | .tk _, _ => 52

/-- Append a record to a ring in memory, if it has room; a ring whose base the driver has not set takes nothing (R38, R169, R281). -/
def LogRing.full (r : LogRing) : Bool := r.size == 0 || decide (r.size ≤ r.tail - r.head)

/-- Write the fault queue entry of a fault that a request of a die meets (R38): whether it was written, and its sequence number. -/
def State.writeFq (s : State) (ctx die : Nat) (c : Cause) (x : Waiter) (replays : Nat) : State × Bool × Nat :=
  match s.ctx ctx with
  | none => (s, false, 0)
  | some k =>
    if k.fq.full then (s.setCtx ctx { k with fq := { k.fq with ovf := true } }, false, k.fq.seq)
    else
      let rec_ := fqEntry x.addr k.fq.seq c x.acc x.path ctx (x.who.unit die) (x.who.holder x.path) replays
      let s1 := s.writePhys (k.fq.base + 32 * (k.fq.tail % k.fq.size)) rec_
      ((s1.setCtx ctx { k with fq := { k.fq with tail := k.fq.tail + 1, seq := k.fq.seq + 1 } }).interrupt (.faultQueue ctx), true, k.fq.seq)

/-- The outstanding fault of a page and cause on an agent's die. -/
def PFault.at_ (f : PFault) (g : Agt) (x : XFault) : Bool :=
  decide (f.die = g.die) && decide (f.ctx = g.ctx) && decide (f.page = x.page) && decide (f.span = x.span) && decide (f.cause = x.cause)

/-- Raise a replayable fault: join the outstanding one of the page and cause on the die, or write an entry for it; one that a replay has released gives the new one its replay count (R36, R38, R40). -/
def State.raiseFault (s : State) (g : Agt) (x : XFault) : State :=
  let y : Waiter := ⟨g.who, g.path, x.addr, x.acc⟩
  match s.pfaults.find? fun f => f.at_ g x with
  | some f =>
    if f.waiters.isEmpty then
      let (s1, w, q) := s.writeFq g.ctx g.die x.cause y f.replays
      { s1 with pfaults := (s1.pfaults.filter fun (z : PFault) => !z.at_ g x) ++ [⟨g.die, g.ctx, x.page, x.span, x.cause, q, f.replays, w, y, [y]⟩] }
    else
      { s with pfaults := s.pfaults.map fun (z : PFault) =>
          if z.at_ g x && !(z.waiters.any (·.who == g.who)) then { z with waiters := z.waiters ++ [y] } else z }
  | none =>
    let (s1, w, q) := s.writeFq g.ctx g.die x.cause y 0
    { s1 with pfaults := s1.pfaults ++ [⟨g.die, g.ctx, x.page, x.span, x.cause, q, 0, w, y, [y]⟩] }

/-- Raise the replayable faults of an agent, one for each distinct page and cause (R36); the entries that failed a check are dropped first (R33). -/
def State.raiseFaults (s : State) (g : Agt) (fs : List XFault) : State :=
  fs.foldl (fun (s : State) f => (s.dropEntry g f.page).raiseFault g f) s

/-- Is the page missing or held by a replayable fault on the die, for this agent? -/
def State.pageBusy (s : State) (g : Agt) (page : Nat) : Bool :=
  s.misses.any (fun m => decide (m.die = g.die) && decide (m.ctx = g.ctx) && decide (m.page = page) && m.waiters.any (·.who == g.who)) ||
  s.pfaults.any (fun f => decide (f.die = g.die) && decide (f.ctx = g.ctx) && decide (f.page ≤ page) && decide (page < f.page + f.span) && f.waiters.any (·.who == g.who))

/-- Forget the faults that walks delivered to an agent, once its instruction has been reported or retired. -/
def State.clearFails (s : State) (w : Who) : State := { s with xlfail := s.xlfail.filter (·.who != w) }

/-! Bytes of an access. -/

/-- What an access of an agent meets before any byte moves: where its bytes lie; pages that miss; a fatal fault with its page and lowest byte; replayable faults; or a condition of its range. -/
inductive Pre where
  | ok (st : Store)
  | miss (pages : List (Nat × Nat))
  | fault (c : Cause) (page : Nat) (addr : Nat)
  | held (fs : List XFault)
  | bad (c : Cause)
  deriving DecidableEq, Repr

/-- What a translation comes to (R22, R36): a fatal fault, once no lower page of the access misses; then the misses; then the replayable faults. -/
def State.settleTr (s : State) (ctx : Nat) (t : Tr) : Pre :=
  match t.faults.find? fun f => !s.replayable ctx f.cause with
  | some f => match t.missed.filter fun m => decide (m.2 < f.addr) with
    | [] => .fault f.cause f.page f.addr
    | l => .miss l
  | none =>
    if !t.missed.isEmpty then .miss t.missed
    else if !t.faults.isEmpty then .held t.faults
    else .ok (.mem t.ps)

/-- Where n bytes of a context's L2 scratch from an offset lie: the second grant continues a first that fills its half of the window (R13, R21). -/
def State.scrStore (s : State) (ctx d o n : Nat) : Store :=
  let second := match s.ctx ctx with
    | some x => x.scr1.1 * 0x400000
    | none => 0
  if d ≠ 0 ∨ o + n ≤ 0x4000000 then .scratch d o
  else if 0x4000000 ≤ o then .scratch 1 (second + (o - 0x4000000))
  else .edge o (0x4000000 - o) second

/-- The checks of an access in R22's order, from the range on (R9, R12, R21, R36). -/
def State.check (s : State) (g : Agt) (acc : Acc) (sp : Nat) (ea : Word64) (n : Nat) : Pre :=
  match s.resolve g sp ea n with
  | .error c => .bad c
  | .ok (.shared c o) => .ok (.shared c o)
  | .ok (.scratch d o) => .ok (s.scrStore g.ctx d o n)
  | .ok (.glob va) => s.settleTr g.ctx (s.translate g acc va n)

/-- May the page's lines of this package's memory stand in an L1 (R27, R57)? Those of a peer's pages stand under their own keys. -/
def cacheable (e : BitVec 128) : Bool := pteTier e != 2

/-! Where a write has been performed (R87, R97, R98). -/

/-- The view of memory an agent has: the path of its accesses and its core; a core's sequencer shares that of its warps (R57). Path TK acts at the home of its bytes and sees every write. -/
def Agt.view (g : Agt) : Option Shown :=
  match g.path with
  | .ls | .sq => g.core.map (⟨.ls, 0, ·⟩)
  | .cp => g.core.map (⟨.cp, 0, ·⟩)
  | .se => some ⟨.se, 0, 0⟩
  | .co => some ⟨.co, 0, 0⟩
  | .tk => none

/-- Are two cores in one instance of a scope (R85)? -/
def inScope (scope a b : Nat) : Bool :=
  match scope with
  | 0 => a == b
  | 1 => clusterOf a == clusterOf b
  | 2 => dieOf a == dieOf b
  | _ => true

/-- Does a performance of a write reach a view? -/
def Shown.reaches (x v : Shown) : Bool := x.path == v.path && inScope x.scope x.core v.core

/-- Is a write performed for a view: at a scope that holds it, or by the time that has passed (R103)? -/
def State.sees (s : State) (r : Recent) (v : Shown) : Bool :=
  r.seen.any (·.reaches v) || decide (r.made + Config.spread r.num.1 r.num.2 (v.path.code * 256 + v.core) ≤ s.clock)

/-- The lines of pod-cacheable pages that a die's L2 holds (R122). -/
def State.pod (s : State) (die : Nat) : Assoc L1Line := if die = 0 then s.podL2.1 else s.podL2.2
/-- Replace the pod-cacheable lines of a die's L2. -/
def State.setPod (s : State) (die : Nat) (l : Assoc L1Line) : State := { s with podL2 := if die = 0 then (l, s.podL2.2) else (s.podL2.1, l) }

/-- A byte of memory as a view sees it: a write not yet performed for it leaves the byte that stood there. -/
def State.viewByte (s : State) (v : Shown) (pa : Nat) : Byte :=
  match s.recent.find? (·.covers pa) with
  | some r => if s.sees r v then s.physByte pa else r.old.getD (pa - r.pa) 0
  | none => s.physByte pa

/-- Every write that an agent sees is performed at a scope for paths: the effect of a release or a fence, which covers what happens before it too (R97, R104, R105). -/
def State.show (s : State) (g : Agt) (scope : Nat) (paths : List Path) : State :=
  { s with recent := s.recent.map fun (r : Recent) => match g.view with
      | some v => if s.sees r v then { r with seen := r.seen ++ paths.map fun p => ⟨p, scope, g.core.getD 0⟩ } else r
      | none => r }

/-- A release to every path of the package (R106, R107, R120). -/
def State.showAll (s : State) (g : Agt) : State := s.show g 3 [.ls, .cp, .se, .co]

/-- Record a write of an agent of a view over the bytes that stood there. -/
def State.noteWrite (s : State) (g : Agt) (pa : Nat) (old : List Byte) : State :=
  match g.view with
  | some v => { s with recent := s.recent ++ [⟨(s.free, s.recent.length), s.clock, pa, old, if v.path = .cp then [v, { v with path := .ls }] else [v]⟩] }
  | none => s

/-- An atomic at the home of bytes: the writes of them are performed everywhere (R90, R91). -/
def State.settleBytes (s : State) (pa n : Nat) : State :=
  { s with recent := s.recent.filter fun (r : Recent) => !(decide (r.pa < pa + n) && decide (pa < r.pa + r.old.length)) }

/-! The L1 and pod-cacheable lines (R27, R55, R57, R122). -/

/-- The shared partition of a core: the sizes of its resident blocks (R55). -/
def State.partition (s : State) (c : Nat) : Nat :=
  s.blocks.foldl (fun n e => if e.2.core = c ∧ e.2.st ≠ .ended ∧ e.2.saved.isNone then n + e.2.shSize else n) 0

/-- The lines a core's L1 has room for: the rest of 384 KiB (R55). -/
def State.l1Lines (s : State) (c : Nat) : Nat := (0x60000 - s.partition c) / 128

/-- Put a line into an L1 of a size; a full one loses another. -/
def l1Put (room : Nat) (l1 : Assoc L1Line) (n : Nat) (x : L1Line) : Assoc L1Line :=
  let rest := l1.del n
  Assoc.put (rest.drop (rest.length + 1 - room)) n x

/-- Keep what an L1 has room for (R55). -/
def State.l1Trim (s : State) (c : Nat) : State :=
  let k := s.core c
  s.setCore c { k with l1 := k.l1.drop (k.l1.length - s.l1Lines c) }

/-- Drop the L1 lines of a context (R57). -/
def State.l1Drop (s : State) (core ctx : Nat) : State :=
  let k := s.core core
  s.setCore core { k with l1 := k.l1.filter fun e => e.2.ctx != ctx }

/-- A POD acquire drops every line of a pod-cacheable page that the issuer's die holds for the context (R122). -/
def State.podDrop (s : State) (die ctx : Nat) : State := s.setPod die ((s.pod die).filter fun e => e.2.ctx != ctx)

/-- An acquire of an agent of a core at a scope: beyond CORE it drops the L1's lines of the context, at POD the pod-cacheable lines of the die too (R57, R122). -/
def State.acquireAt (s : State) (core ctx scope : Nat) : State :=
  if scope = 0 then s else if scope = 4 then (s.l1Drop core ctx).podDrop (dieOf core) ctx else s.l1Drop core ctx

/-- Drop one line of an L1. -/
def State.l1DropLine (s : State) (core line : Nat) : State :=
  let k := s.core core
  s.setCore core { k with l1 := k.l1.del line }

/-- Fill a line of a core's L1 with what the core sees of memory. -/
def State.l1Fill (s : State) (core ctx line : Nat) : State :=
  let k := s.core core
  let ps := [2 * line, 2 * line + 1].filter fun x => (s.poison.find x).isSome
  s.setCore core { k with l1 := l1Put (s.l1Lines core) k.l1 line ⟨ctx, bytesFrom (s.viewByte ⟨.ls, 0, core⟩) (line * 128) 128, ps⟩ }

/-- Does a plain load of a line take the L1's copy, where it holds one: a free choice, since a line may have been replaced (R57, R103)? -/
def State.l1Hit (s : State) (core line : Nat) : Option L1Line :=
  match (s.core core).l1.find line with
  | some l => if Config.freeNew s.free line then none else some l
  | none => none

/-- A byte a plain load of a view reads through the core's L1: a present line's byte or the current one. -/
def State.l1Byte (s : State) (core pa : Nat) (v : Shown) : Byte :=
  match s.l1Hit core (pa / 128) with
  | some l => l.bytes.getD (pa % 128) 0
  | none => s.viewByte v pa

/-- A byte of memory as an access of an agent reads it; `thro` through the L1 (R57, R98). -/
def State.readByte (s : State) (g : Agt) (thro : Bool) (pa : Nat) : Byte :=
  match g.view, g.core, thro with
  | some v, some c, true => s.l1Byte c pa v
  | some v, _, _ => s.viewByte v pa
  | none, _, _ => s.physByte pa

/-- The poison of a byte that a load reads: that of the L1's copy where it takes one, else memory's (R165). -/
def State.readPoison (s : State) (g : Agt) (thro : Bool) (pa n : Nat) : Option Nat :=
  match g.core, thro with
  | some c, true => match s.l1Hit c (pa / 128) with
    | some l => (sectorsOf pa n).findSome? fun x => if l.poison.contains x then some (x * 64) else none
    | none => s.poisonIn pa n
  | _, _ => s.poisonIn pa n

/-- A store updates a present line of the storing core's L1 (R57). -/
def State.l1Update (s : State) (core pa : Nat) (bytes : List Byte) : State :=
  let k := s.core core
  let put := fun (l1 : Assoc L1Line) (x : Nat × Byte) =>
    match l1.find (x.1 / 128) with
    | some l => l1.put (x.1 / 128) { l with bytes := l.bytes.set (x.1 % 128) x.2 }
    | none => l1
  s.setCore core { k with l1 := ((List.range bytes.length).map fun i => (pa + i, bytes.getD i 0)).foldl put k.l1 }

/-- The first poison a range of a sparse store touches: the physical sector it came from (R165). -/
def poisonAt (p : Assoc Nat) (o n : Nat) : Option Nat := (sectorsOf o n).findSome? p.find

/-- Mark the sectors of a range as poisoned by data of a physical sector (R165). -/
def markPoison (p : Assoc Nat) (o n sector : Nat) : Assoc Nat := (sectorsOf o n).foldl (fun (p : Assoc Nat) x => p.put x sector) p

/-- Does an address lie behind a CXL port that has gone down (R455)? -/
def State.portDown (s : State) (pa : Nat) : Bool := decide (2 ^ 44 ≤ pa) && s.cxlDown.contains ((pa - 2 ^ 44) / 2 ^ 40)

/-- Does an access from a die need the bridge while it is down (R153), or a CXL port that is down (R455)? -/
def State.cutOff (s : State) (die pa : Nat) : Bool := (s.bridgeDown && homeDie pa != die) || s.portDown pa

/-- Does an access need the bridge while it is down, for shared storage or scratch of a die (R58, R62, R153)? -/
def State.cutDie (s : State) (die other : Nat) : Bool := s.bridgeDown && die != other

/-- Does some byte of the access lie beyond a bridge that is down (R153)? -/
def State.severed (s : State) (g : Agt) (st : Store) : Bool :=
  match st with
  | .shared c _ => s.cutDie g.die (dieOf c)
  | .scratch d _ => s.cutDie g.die d
  | .edge _ _ _ => s.bridgeDown
  | .mem ps => ps.any fun p => pteTier p.pte != 2 && s.cutOff g.die (s.migTarget p.pa)

/-- The poison a read of memory under a key meets: the bridge down, a poisoned sector, or a failed integrity check (R153, R163, R165). -/
def State.poisonFor (s : State) (g : Agt) (thro : Bool) (key pa n : Nat) : Option Nat :=
  if s.cutOff g.die pa then some (pa / 64 * 64)
  else match s.readPoison g thro pa n with
    | some x => some x
    | none => ((sectorsOf pa n).find? (s.tagBad key)).map (· * 64)

/-- Bytes of a die's L2 scratch, with the poisoned sector they come from. -/
def State.scrBytes (s : State) (g : Agt) (d o n : Nat) : List Byte × Option Nat :=
  (bytesFrom (byteOf s.scratch) (d * 2 ^ 26 + o) n, if s.cutDie g.die d then some 0 else poisonAt s.scrPoison (d * 2 ^ 26 + o) n)

/-- Write bytes of a die's L2 scratch. -/
def State.putScratch (s : State) (d o : Nat) (bytes : List Byte) : State :=
  let a := d * 2 ^ 26 + o
  { s with scratch := putBytes s.scratch a bytes, scrPoison := clearPoison s.scrPoison a bytes.length }

/-- May a load hold a piece's lines in an L1: memory of this package, whose old frame is not in REDIRECT (R27, R57, R160)? -/
def State.fillable (s : State) (p : Piece) : Bool := cacheable p.pte && s.migTarget p.pa == p.pa

/-- Read the bytes of a store location, with the poisoned sector they come from; `plain` loads of a core go through its L1 (R57, R165). -/
def State.loadBytes (s : State) (g : Agt) (plain : Bool) (st : Store) (n : Nat) : List Byte × Option Nat :=
  match st with
  | .shared c o => (bytesFrom (byteOf (s.core c).shared) o n, if s.cutDie g.die (dieOf c) then some 0 else poisonAt (s.core c).shPoison o n)
  | .scratch d o => s.scrBytes g d o n
  | .edge o m o1 => ((s.scrBytes g 0 o m).1 ++ (s.scrBytes g 1 o1 (n - m)).1, ((s.scrBytes g 0 o m).2 <|> (s.scrBytes g 1 o1 (n - m)).2))
  | .mem ps => ps.foldl (fun acc p =>
      let thro := plain && s.fillable p
      let pa := s.migTarget p.pa
      (acc.1 ++ bytesFrom (fun a => s.underKey (pteKey p.pte) a (s.readByte g thro a)) pa p.len, match acc.2 with
        | some x => some x
        | none => s.poisonFor g thro (pteKey p.pte) pa p.len)) ([], none)

/-- Does an agent act at the home of the bytes it reaches (R147)? -/
def Agt.acts (g : Agt) (pa : Nat) : Nat := match g.path with
  | .co | .tk => homeDie pa
  | _ => g.die

/-- Lines of memory that a load fills enter a core's L1 (R57). -/
def State.l1Load (s : State) (c ctx pa n : Nat) : State :=
  (linesOf pa n).foldl (fun s l => match (s.core c).l1.find l with
    | some _ => if Config.freeNew s.free l then s.l1Fill c ctx l else s
    | none => s.l1Fill c ctx l) s

/-- A read or atomic behind a CXL port that is down meets CXL-UE, which is logged (R155, R168, R455). -/
def State.notePort (s : State) (die key pa n : Nat) : State :=
  if s.portDown pa && !(s.bridgeDown && homeDie pa != die) then { s with tagFails := s.tagFails ++ (sectorsOf pa n).map fun x => { sector := x, key := key, rmw := false, port := true } } else s

/-- A read of a piece of this package's memory at its lines and in its sectors: the directory follows (R147), failed integrity checks are noted (R164). -/
def State.pieceRead (s : State) (g : Agt) (p : Piece) : State :=
  let pa := s.migTarget p.pa
  if pteTier p.pte = 2 then s
  else if s.cutOff g.die pa then s.notePort g.die (pteKey p.pte) pa p.len
  else (s.touch (g.acts pa) false p.pa p.len).noteTags (pteKey p.pte) ((sectorsOf pa p.len).filter (s.tagBad (pteKey p.pte))) false

/-- What a read leaves behind: the directory, failed integrity checks, and the L1's lines where it is a plain load (R57, R147, R164). -/
def State.loadFill (s : State) (g : Agt) (plain : Bool) (st : Store) : State :=
  match st with
  | .mem ps => ps.foldl (fun (s : State) p =>
      let s1 := s.pieceRead g p
      match g.core with
      | some c => if plain && s1.fillable p then s1.l1Load c g.ctx p.pa p.len else s1
      | none => s1) s
  | _ => s

/-- Write a piece of this package's memory: the directory follows, the bytes go to memory under the piece's key, some agents may see them later, the storing core's L1 is updated (R57, R98, R147); nothing where a read-modify-write meets INTEGRITY (R164). -/
def State.storePiece (s : State) (g : Agt) (p : Piece) (now : List Byte) : State :=
  let pa := s.migTarget p.pa
  if !(s.writeLost (pteKey p.pte) pa now.length).isEmpty then s.writeUnder (pteKey p.pte) p.pa now
  else
    let s1 := ((s.touch (g.acts pa) true p.pa now.length).writeUnder (pteKey p.pte) p.pa now).noteWrite g pa (s.physBytes pa now.length)
    match g.core with
    | some c => s1.l1Update c pa now
    | none => s1

/-- Do two accesses meet in a byte? -/
def Store.meets (a : Store) (n : Nat) (b : Store) (m : Nat) : Bool :=
  let cross := fun (x n y m : Nat) => decide (x < y + m) && decide (y < x + n)
  match a, b with
  | .mem ps, .mem qs => ps.any fun p => qs.any fun q => cross p.pa p.len q.pa q.len
  | .shared c o, .shared d p => c == d && cross o n p m
  | .scratch d o, .scratch e p => d == e && cross o n p m
  | .scratch _ _, .edge _ _ _ | .edge _ _ _, .scratch _ _ | .edge _ _ _, .edge _ _ _ => true
  | _, _ => false

/-- The descriptors of the rings in use: of running records, of warps' waiting claims, of posts that their unit holds (R81, R83). -/
def State.ringsUsed (s : State) : List Store :=
  s.engines.flatMap (fun e => e.2.filterMap (·.desc)) ++ s.ringHeld.map (·.place) ++
  s.warps.filterMap fun e => match e.2.wait with
    | some (.ring _ st _ _ _) => some st
    | _ => none

/-- A write of software to the descriptor of a ring in use is a race with its unit (R83). -/
def State.noteRace (s : State) (g : Agt) (st : Store) (n : Nat) : State :=
  if g.path = .tk then s
  else match s.ringsUsed.filter fun x => Store.meets st n x 64 with
    | [] => s
    | xs => { s with raced := s.raced ++ xs }

/-- Write bytes at a store location (R57); a store that needs the bridge while it is down is discarded (R153). -/
def State.storeBytes (s0 : State) (g : Agt) (st : Store) (bytes : List Byte) : State :=
  let s := s0.noteRace g st bytes.length
  if s.severed g st then s
  else match st with
  | .shared c o =>
    let k := s.core c
    s.setCore c { k with shared := putBytes k.shared o bytes, shPoison := clearPoison k.shPoison o bytes.length }
  | .scratch d o => s.putScratch d o bytes
  | .edge o m o1 => (s.putScratch 0 o (bytes.take m)).putScratch 1 o1 (bytes.drop m)
  | .mem ps => (ps.foldl (fun (acc : State × List Byte) p => (acc.1.storePiece g p (acc.2.take p.len), acc.2.drop p.len)) (s, bytes)).1

/-- Is a write not performed: beyond a bridge that is down, or met by INTEGRITY in some piece (R153, R164)? -/
def State.unwritten (s : State) (g : Agt) (st : Store) : Bool :=
  s.severed g st || (match st with
    | .mem ps => ps.any fun p => !(s.writeLost (pteKey p.pte) (s.migTarget p.pa) p.len).isEmpty
    | _ => false)

/-- Mark the sectors of a store location as poisoned: poison moves with copied data (R66, R165). -/
def State.poisonBytes (s : State) (st : Store) (n sector : Nat) : State :=
  match st with
  | .shared c o => s.setCore c { s.core c with shPoison := markPoison (s.core c).shPoison o n sector }
  | .scratch d o => { s with scrPoison := markPoison s.scrPoison (d * 2 ^ 26 + o) n sector }
  | .edge o m o1 => { s with scrPoison := markPoison (markPoison s.scrPoison o m sector) (2 ^ 26 + o1) (n - m) sector }
  | .mem ps => ps.foldl (fun (s : State) p => { s with poison := markPoison s.poison (s.migTarget p.pa) p.len sector }) s

/-- Store data that may be poisoned. -/
def State.storeWith (s : State) (g : Agt) (st : Store) (bytes : List Byte) (poison : Option Nat) : State :=
  let s1 := s.storeBytes g st bytes
  match poison, s.unwritten g st with
  | some x, false => s1.poisonBytes st bytes.length x
  | _, _ => s1

/-- Must an access to a location wait for the exchange of a line, or for the switch of a frame (R148, R158)? -/
def State.storeBusy (s : State) (st : Store) : Bool :=
  match st with
  | .mem ps => ps.any fun p => pteTier p.pte != 2 && s.lineBusy p.pa p.len
  | _ => false

/-- The agent that performs an atomic of another: it acts at the home of the bytes (R134). -/
def State.atUnit (s : State) (g : Agt) (st : Store) : Agt :=
  match st with
  | .mem (p :: _) => { g with die := homeDie (s.migTarget p.pa) }
  | _ => g

/-- An atomic drops any line of its address from the core's L1 (R57). -/
def State.atomDrop (s : State) (g : Agt) (st : Store) : State :=
  match st, g.core with
  | .mem ps, some c => ps.foldl (fun s p => (s.l1DropLine c (s.migTarget p.pa / 128)).settleBytes (s.migTarget p.pa) p.len) s
  | .mem ps, none => ps.foldl (fun s p => s.settleBytes (s.migTarget p.pa) p.len) s
  | _, _ => s

/-- The agent that stands for path TK, the command processors and the host's own walks of a context, with no waiting: the walk is made at once. -/
def tkAgt (ctx die : Nat) : Agt := { path := .tk, who := .tk die, ctx := ctx, die := die }

/-- A fault of path TK that no leaf gives a page. -/
def tkFault (c : Cause) (acc : Acc) (va : Nat) : XFault := ⟨c, va / 65536, 1, va, acc⟩

/-- Translate a range of a context by walking its tables now, for a structure path TK reaches (R19, R37). -/
def State.walkRange (s : State) (ctx : Nat) (acc : Acc) (va n : Nat) : Except XFault (List Piece) :=
  (pagesOf va n).foldl (fun r part => match r with
    | .error e => .error e
    | .ok ps => match s.walk tkWalker ctx part.2.1 with
      | .error c => .error ⟨c.1, part.2.1 / c.2 * (c.2 / 65536), c.2 / 65536, part.2.1, acc⟩
      | .ok (e, size) => match s.leafCheck (tkAgt ctx 0) acc e with
        | some c => .error ⟨c, part.2.1 / size * (size / 65536), size / 65536, part.2.1, acc⟩
        | none => .ok (ps ++ [⟨pteAddr e + part.2.1 % size, part.2.2, e⟩]))
    (.ok [])

end Sys2Proof.Machine
end

