-- ==== Sys2Proof/Machine/Ops.lean ====
section
/-! DEFINITION. The shared operations of warps, sequencers and blocks: records for the host, counters, the cells of a sewing map, the first-event log, termination, abandonment, taking a trap and returning from one, sequencer faults and halts, and retiring an instruction. -/
namespace Sys2Proof.Machine
open Sys2Proof

/-! Records for the host. -/

/-- A diagnostic record but for its sequence number and time (R281). -/
structure Diag where
  kind : Nat
  core : Nat := 0xFFFF
  slot : Nat := 0xFF
  cause : Cause := .none
  reason : Nat := 0
  barrier : Nat := 0xFF
  lpb : Word64 := 0
  block : Nat := 0
  arrived : Word32 := 0
  gone : Word32 := 0
  expect : Nat := 0
  pc : Word64 := 0
  addr : Nat := 0
  deriving DecidableEq, Repr

/-- The 64 bytes of a diagnostic record (R281). -/
def Diag.bytes (d : Diag) (ctx seq time : Nat) : List Byte :=
  leBytes 8 seq ++ leBytes 8 time ++ leBytes 1 d.kind ++ leBytes 1 ctx ++ leBytes 2 d.core ++ leBytes 1 d.slot ++
  leBytes 1 d.cause.code ++ leBytes 1 d.reason ++ leBytes 1 d.barrier ++ leBytes 8 d.lpb.toNat ++ leBytes 4 d.block ++
  leBytes 4 d.arrived.toNat ++ leBytes 4 d.gone.toNat ++ leBytes 1 d.expect ++ leBytes 3 0 ++ leBytes 8 d.pc.toNat ++ leBytes 8 d.addr

/-- Device time in 64-cycle units (R281, R451). -/
def State.deviceTime (s : State) : Nat := s.clock / 64

/-- Write a diagnostic record, or drop and count it when the ring is full; the interrupt is raised in either case (R281). -/
def State.writeDiag (s : State) (ctx : Nat) (d : Diag) : State :=
  match s.ctx ctx with
  | none => s
  | some x =>
    let r := x.diag
    if r.full then
      (s.setCtx ctx { x with diag := { r with ovf := true, drops := r.drops + 1, seq := r.seq + 1 } }).interrupt (.diag ctx)
    else
      let s1 := s.writePhys (r.base + 64 * (r.tail % r.size)) (d.bytes ctx r.seq s.deviceTime)
      (s1.setCtx ctx { x with diag := { r with tail := r.tail + 1, seq := r.seq + 1 } }).interrupt (.diag ctx)

/-! Structures in a context's memory that path TK reaches. -/

/-- Write pieces of memory in order. -/
def State.writePieces (s : State) (ps : List Piece) (bytes : List Byte) : State :=
  (ps.foldl (fun (acc : State × List Byte) p => (acc.1.writePhys p.pa (acc.2.take p.len), acc.2.drop p.len)) (s, bytes)).1

/-- Read pieces of memory in order. -/
def State.readPieces (s : State) (ps : List Piece) : List Byte := ps.foldl (fun b p => b ++ s.readPhys p.pa p.len) []

/-- A range of a context's global memory on TIER 0 pages, or of its L2 scratch where the structure allows it (R19). -/
def State.tkRange (s : State) (ctx : Nat) (acc : Acc) (va n : Nat) (scratchOk : Bool) : Except XFault Store :=
  if windowsBase ≤ va then
    if scratchOk then
      match s.check (tkAgt ctx 0) acc 0 (BitVec.ofNat 64 va) n with
      | .ok st => .ok st
      | .bad c => .error (tkFault c acc va)
      | _ => .error (tkFault .addrHole acc va)
    else .error (tkFault .addrHole acc va)
  else if windowsBase < va + n then .error (tkFault .windowStraddle acc va)
  else match s.walkRange ctx acc va n with
    | .error e => .error e
    | .ok ps => if ps.all (fun p => pteTier p.pte == 0) then .ok (.mem ps) else .error (tkFault .addrHole acc va)

/-- Read a structure of a context; none when the range cannot be reached. -/
def State.tkRead (s : State) (ctx va n : Nat) : Option (List Byte) :=
  match s.tkRange ctx .read va n true with
  | .ok st => some (s.loadBytes (tkAgt ctx 0) false st n).1
  | .error _ => none

/-- The address and length of a write of path TK. -/
def TkOp.range : TkOp → Nat × Nat
  | .bytes va b => (va, b.length)
  | .count va _ => (va, 8)
  | .cell va _ _ _ => (va, 1)

/-- The value of a completion counter after one more, with bit 63 when the unit was cancelled (R177, R179). -/
def countUp (v : Nat) (cancelled : Bool) : Nat := if cancelled then (v + 1) % 2 ^ 63 + 2 ^ 63 else (v + 1) % 2 ^ 64

/-- The bytes a write of path TK leaves over those that stand there (R177, R222). -/
def TkOp.after (op : TkOp) (old : List Byte) : List Byte :=
  match op with
  | .bytes _ b => b
  | .count _ c => leBytes 8 (countUp (leNat old) c)
  | .cell _ p src code =>
    let x := (old.getD 0 0).toNat
    let now := x / 4 ^ p % 4
    if src.any (· != now) then old else [BitVec.ofNat 8 (x - now * 4 ^ p + code * 4 ^ p)]

/-- Path TK raises a replayable fault and waits for it, unless it waits for the page already (R37). -/
def State.raiseTk (s : State) (ctx : Nat) (x : XFault) : State :=
  if s.pageBusy (tkAgt ctx 0) (x.addr / 65536) then s else s.raiseFault (tkAgt ctx 0) x

/-- Is it an atomic, which writes nothing over poisoned bytes (R155)? -/
def TkOp.atomic : TkOp → Bool
  | .bytes _ _ => false
  | _ => true

/-- Perform a write of path TK; one whose line is in an exchange or whose page cannot be reached is owed: a replayable fault is raised and waited for, a fatal one ends the context at the next cycle (R26, R37, R148, R177; log entry 25). -/
def State.tkDo (s : State) (ctx : Nat) (op : TkOp) : State :=
  let r := op.range
  match s.tkRange ctx .atomic r.1 r.2 true with
  | .ok st =>
    let old := s.loadBytes (tkAgt ctx 0) false st r.2
    if s.storeBusy st then { s with owed := s.owed ++ [⟨ctx, op⟩] }
    else if op.atomic && old.2.isSome then s
    else s.storeBytes (tkAgt ctx 0) st (op.after old.1)
  | .error x =>
    let s1 := { s with owed := s.owed ++ [⟨ctx, op⟩] }
    if s.replayable ctx x.cause then s1.raiseTk ctx x else s1

/-- Write a structure of a context. -/
def State.tkWrite (s : State) (ctx va : Nat) (bytes : List Byte) : State := s.tkDo ctx (.bytes va bytes)

/-- A completion counter updated at its home (R177): one more, with bit 63 when the unit was cancelled (R179). -/
def State.bumpCounter (s : State) (ctx : Nat) (va : Word64) (cancelled : Bool) : State := s.tkDo ctx (.count va.toNat cancelled)

/-! The sewing map (R221, R222). -/

/-- A 4-byte field of a list of fields in a launch parameter block. -/
def Launch.field4 (l : Launch) (off i : Nat) : Nat := fieldAt l.fields (off + 4 * i) 4
/-- KIND (R213). -/
def Launch.kind (l : Launch) : Nat := fieldAt l.fields 0x2C 1
/-- FLAGS (R213). -/
def Launch.flags (l : Launch) : Nat := fieldAt l.fields 0x2F 1
/-- CLUSTER (R213). -/
def Launch.isCluster (l : Launch) : Bool := l.flags % 2 == 1
/-- PREEMPTIBLE (R213). -/
def Launch.preemptible (l : Launch) : Bool := l.flags / 2 % 2 == 1
/-- DCLASS of the launch (R213). -/
def Launch.dclass (l : Launch) : Bool := l.flags / 4 % 2 == 1
/-- REPAIR (R213). -/
def Launch.repair (l : Launch) : Bool := l.flags / 8 % 2 == 1
/-- PRIO (R213). -/
def Launch.prio (l : Launch) : Nat := fieldAt l.fields 0x2D 1 % 8
/-- ISIZE of a dimension (R213). -/
def Launch.isize (l : Launch) (d : Nat) : Nat := l.field4 0xC0 d
/-- The grain of a dimension (R221). -/
def Launch.grain (l : Launch) (d : Nat) : Nat := 2 ^ (fieldAt l.fields (0xD8 + d) 1)
/-- Cells along a dimension (R221). -/
def Launch.cells (l : Launch) (d : Nat) : Nat := (l.isize d + l.grain d - 1) / l.grain d
/-- Cells of the space (R221). -/
def Launch.cellCount (l : Launch) : Nat := (List.range 6).foldl (fun n d => n * l.cells d) 1
/-- The index of a cell (R221). -/
def Launch.cellIndex (l : Launch) (c : List Nat) : Nat :=
  ((List.range 6).foldl (fun (acc : Nat × Nat) d => (acc.1 + c.getD d 0 * acc.2, acc.2 * l.cells d)) (0, 1)).1
/-- SEWMAP (R213). -/
def Launch.sewmap (l : Launch) : Nat := fieldAt l.fields 0xA0 8

/-- DONECTR: the launch's completion counter (R177, R213). -/
def Launch.counter (l : Launch) : Word64 := BitVec.ofNat 64 (fieldAt l.fields 0x10 8)

/-- The state code of a cell (R222). -/
def State.cell (s : State) (l : Launch) (i : Nat) : Nat :=
  match s.tkRead l.ctx (l.sewmap + i / 4) 1 with
  | some b => (b.getD 0 0).toNat / 4 ^ (i % 4) % 4
  | none => 0

/-- Set the state code of a cell (R222). -/
def State.setCell (s : State) (l : Launch) (i code : Nat) : State := s.tkDo l.ctx (.cell (l.sewmap + i / 4) (i % 4) none code)

/-- All tuples of coordinates of a box, dimension 0 fastest. -/
def boxCoords : List (Nat × Nat) → List (List Nat)
  | [] => [[]]
  | (o, n) :: t => (boxCoords t).flatMap fun r => (List.range n).map fun i => (o + i) :: r

/-- The cells of a leaf's box, by index. -/
def Launch.leafCells (l : Launch) (f : Leaf) : List Nat :=
  let dims := (List.range 6).map fun d =>
    (f.org.getD d 0 / l.grain d, (f.ext.getD d 0 + l.grain d - 1) / l.grain d)
  (boxCoords dims).map l.cellIndex

/-- Set the cells of a leaf that hold one code to another. -/
def State.recodeLeaf (s : State) (l : Launch) (f : Leaf) (src dst : Nat) : State :=
  (l.leafCells f).foldl (fun (s : State) i => s.tkDo l.ctx (.cell (l.sewmap + i / 4) (i % 4) (some src) dst)) s

/-! Signature records and the claim cursor (R223, R224). -/

/-- SIGREC (R213). -/
def Launch.sigrec (l : Launch) : Nat := fieldAt l.fields 0x38 8

/-- A signature record. -/
structure Sig where
  bytes : List Byte
  deriving DecidableEq, Repr

/-- The dimension of a loop level. -/
def Sig.perm (g : Sig) (k : Nat) : Nat := fieldAt g.bytes 0 4 / 8 ^ k % 8
/-- LEAF of a dimension. -/
def Sig.leaf (g : Sig) (d : Nat) : Nat := fieldAt g.bytes (0x10 + 4 * d) 4

/-- The current signature of a launch, as it stands at its home. -/
def State.sigOf (s : State) (l : Launch) : Sig := ⟨(s.tkRead l.ctx l.sigrec 64).getD []⟩

/-- Cells of a leaf along a dimension. -/
def Sig.span (g : Sig) (l : Launch) (d : Nat) : Nat := g.leaf d / l.grain d
/-- Leaves along a dimension. -/
def Sig.along (g : Sig) (l : Launch) (d : Nat) : Nat := (l.cells d + g.span l d - 1) / g.span l d

/-- The position in the walk of the leaf that holds a cell. -/
def Sig.position (g : Sig) (l : Launch) (cell : List Nat) : Nat :=
  ((List.range 6).foldl (fun (r : Nat × Nat) k =>
    let d := g.perm k
    (r.1 + cell.getD d 0 / g.span l d * r.2, r.2 * g.along l d)) (0, 1)).1

/-- Cached leaves are open again, and the claim cursor stands no later than the first of them (R225, R226; log entry 18). -/
def State.reopen (s : State) (li : Nat) (fs : List Leaf) : State :=
  match s.launches.find li with
  | none => s
  | some l =>
    let g := s.sigOf l
    let s1 := fs.foldl (fun s f => s.recodeLeaf l f 1 0) s
    let cur := fs.foldl (fun n f => min n (g.position l ((List.range 6).map fun d => f.org.getD d 0 / l.grain d))) l.cursor
    { s1 with launches := s1.launches.put li { l with cursor := cur } }

/-! The first-event log (R307, R308). -/

/-- The lowest event code of a mask. -/
def lowEvent (ev : BitVec 32) : Nat := ((List.range 32).find? fun c => ev.getLsbD c).getD 0

/-- Record the events of one element: the summary bits, and the full record when the log is empty (R307, R308). Instructions are recorded in program order, lanes and elements in ascending order, so the first record is the earliest. -/
def Fel.record (f : Fel) (ev : BitVec 32) (pc : Word64) (elem lane slot : Nat) : Fel :=
  if ev = 0 then f
  else if f.sum = 0 then { code := lowEvent ev, pc := pc, elem := elem, lane := lane, slot := slot, sum := ev }
  else { f with sum := f.sum ||| ev }

/-! Warps, their homes and registers' places. -/

/-- The key of a home warp set aside while regrouped warps run (R195). -/
def homeKey (c k : Nat) : Nat := 100000 + slotKey c k
/-- The warp of a home slot: the warp set aside by a regroup, else the slot's own (R196). -/
def State.home (s : State) (c k : Nat) : Option Warp :=
  match s.warps.find (homeKey c k) with
  | some w => some w
  | none => s.warp c k
/-- Replace the warp of a home slot. -/
def State.setHome (s : State) (c k : Nat) (w : Warp) : State :=
  match s.warps.find (homeKey c k) with
  | some _ => { s with warps := s.warps.put (homeKey c k) w }
  | none => s.setWarp c k w
/-- The home slot of a lane (R196). -/
def Warp.homeOf (w : Warp) (k l : Nat) : Nat := if w.isRegrouped then w.homes.getD l k else k
/-- The lanes of a warp that live. -/
def Warp.live (w : Warp) : Word32 := ~~~ w.exited
/-- The value of an s register (R314). -/
def Warp.sreg (w : Warp) (n : Nat) : Word64 := w.sregs.getD n 0
/-- Replace an s register. -/
def Warp.setS (w : Warp) (n : Nat) (v : Word64) : Warp := { w with sregs := w.sregs.put n v }
/-- The lanes in which a predicate is true; p7 is true everywhere (R311). -/
def Warp.pred (w : Warp) (n : Nat) : Word32 := if n = 7 then 0xFFFFFFFF else w.preds.getD n 0

/-- Land a register write in its core (R371). -/
def State.landWrite (s : State) (c k : Nat) : RegWrite → State
  | .elem t i e =>
    let x := s.tile c t
    s.setTile c t { x with elems := x.elems.put i e }
  | .sreg n v => match s.home c k with
    | some w => s.setHome c k (w.setS n v)
    | none => s

/-- The tiles a list of writes touches, each once. -/
def writtenTiles (ws : List RegWrite) : List Nat :=
  (ws.filterMap fun | .elem t _ _ => some t | .sreg _ _ => none).eraseDups

/-- Land one result in flight: its writes, and the pending-write counts that GIVE captured (R50, R371). -/
def State.landFlight (s : State) (c k : Nat) (f : Flight) : State :=
  let s1 := f.writes.foldl (fun s w => s.landWrite c k w) s
  (writtenTiles f.writes).foldl (fun s t =>
    let x := s.tile c t
    if (x.st == .given || x.giving.isSome) && decide (0 < x.pend) then s.setTile c t { x with pend := x.pend - 1, readyAt := s.clock + 1 } else s) s1

/-- Land every result in flight of a warp (R264, R237). -/
def State.landAll (s : State) (c k : Nat) : State :=
  match s.warp c k with
  | none => s
  | some w =>
    let s1 := w.flights.foldl (fun s f => s.landFlight c k f) (s.setWarp c k { w with flights := [] })
    s1

/-! Termination (R279, R280). -/

/-- Every tile of a context on a core becomes FREE (R185). -/
def freeCtxTiles (k : Core) (ctx : Nat) : Core :=
  { k with tiles := mapVals k.tiles fun (_ : Nat) (t : Tile) =>
      if t.ctx = ctx ∧ t.st ≠ .free then { t with st := .free, hold := 63, pend := 0, giving := none, kept := false, lastCtx := some ctx } else t }

/-- A tile with no holder (R49, R185), remembering the context it had. -/
def Tile.freed (t : Tile) (ctx : Nat) : Tile := { t with st := .free, hold := 63, pend := 0, giving := none, kept := false, lastCtx := some ctx }

/-- Is the tile held in the name of a block's warp slots or sequencer? -/
def Block.holds (b : Block) (t : Tile) : Bool :=
  t.st != .free && !t.kept && t.ctx == b.ctx && (b.slots.contains t.hold || (t.hold == 48 && b.hasSeq))

/-- The tiles suspended blocks keep on a core (R185, R187). -/
def State.keptTiles (s : State) (c : Nat) : List Nat :=
  s.blocks.flatMap fun e => if e.2.core = c then (match e.2.saved with | some v => v.tiles | none => []) else []

/-- The tiles of a block: those it keeps while suspended, or those held by its slots and sequencer. -/
def State.blockTiles (s : State) (b : Block) : List Nat :=
  match b.saved with
  | some v => v.tiles
  | none =>
    let kept := s.keptTiles b.core
    (s.core b.core).tiles.filterMap fun e => if b.holds e.2 && !kept.contains e.1 then some e.1 else none

/-- Free the tiles held in the name of a block's warp slots and sequencer (R181, R185). -/
def State.freeBlockTiles (s : State) (b : Block) : State :=
  (s.blockTiles b).foldl (fun (s : State) t => s.setTile b.core t ((s.tile b.core t).freed b.ctx)) s

/-- The number under which a warp's read of a structure is known to peers. -/
def warpWork (c k : Nat) : Nat := 1000000000 + slotKey c k

/-- The waits of a block's agents for pages are forgotten, with the faults walks brought them and the answers kept for them (R41). -/
def State.forgetAgents (s : State) (b : Block) : State :=
  let mine := fun (w : Who) => match w with
    | .warp c k => c == b.core && b.slots.contains k
    | .seq c | .queue c _ => c == b.core && b.hasSeq
    | .copy c n => c == b.core && b.slots.any fun k => n == warpWork c k
    | _ => false
  if b.saved.isSome then s
  else { s with
    misses := s.misses.map fun (m : Miss) => { m with waiters := m.waiters.filter fun x => !mine x.who }
    pfaults := s.pfaults.map fun (f : PFault) => { f with waiters := f.waiters.filter fun x => !mine x.who }
    xlfail := s.xlfail.filter fun x => !mine x.who
    pxData := s.pxData.filter fun e => !(b.slots.any fun k => e.1 == warpWork b.core k) }

/-- The handed-out leaves of a block that are still claimed become abandoned, its cached leaves open (R179, R275, R282). -/
def State.dropLeaves (s : State) (bid : Nat) : State :=
  match s.block bid with
  | none => s
  | some b => match s.launches.find b.launch with
    | none => s
    | some l =>
      let s1 := b.handed.foldl (fun s f => s.recodeLeaf l f 1 3) s
      (s1.reopen b.launch b.chunk).setBlock bid { b with handed := [], chunk := [] }

/-- A block of a terminated context ends: its warps, sequencer, tiles, tags and shared bytes are released (R181, R280). -/
def State.killBlock (s : State) (bid : Nat) : State :=
  match s.block bid with
  | none => s
  | some b =>
    let s1 := (((s.dropLeaves bid).freeBlockTiles b).forgetAgents b)
    let s2 := { s1 with warps := s1.warps.filter fun (e : Nat × Warp) => e.2.block != bid }
    let k := s2.core b.core
    let s3 := if b.hasSeq ∧ (k.seq.map (·.block)) = some bid then s2.setCore b.core { k with seq := none } else s2
    match s3.block bid with
    | some x => s3.setBlock bid { x with st := .ended, regroups := [], saved := none, wdogStart := none }
    | none => s3

/-- The cause a TERMINATED record gives for a reason (R473). -/
def termCause (reason : Nat) : Cause :=
  match reason with
  | 1 => .barrierTimeout
  | 2 => .doubleTrap
  | 3 => .noHandler
  | 9 => .sequencerFault
  | _ => .none

/-- Termination of a context for a reason of R279: its record (R281, R473), and steps 1 to 5 of R280 on both dies; a counter that cannot be reached stays as it stands. Step 6 is TERMINATION_COMPLETE. -/
def State.terminate (s : State) (ctx reason : Nat) : State :=
  match s.ctx ctx with
  | none => s
  | some x =>
    if x.terminating.isSome then s
    else
      let s0 := if s.frzCtl.onterm && s.frzTrig.isNone then { s with frzTrig := some s.clock } else s
      let s1 := s0.setCtx ctx { x with terminating := some ⟨reason, s.clock⟩ }
      let s2 := s1.writeDiag ctx { kind := 4, reason := reason, cause := termCause reason }
      -- 1: queues stop
      let s3 := { s2 with queues := mapVals s2.queues fun (_ : Nat) (e : Queue) => if e.ctx = ctx ∧ e.st = QueueSt.running then { e with st := QueueSt.stopped, running := [], graph := none, phase := none } else e }
      -- 3: accesses not performed are dropped
      let s4 := { s3 with
        cores := mapVals s3.cores fun (_ : Nat) (k : Core) => { k with copies := k.copies.filter fun (y : Copy) => y.ctx != ctx }
        engines := mapVals s3.engines fun (_ : Nat) (l : List StreamRec) => l.filter fun r => r.ctx != ctx
        qpushes := s3.qpushes.filter fun (r : QPushRec) => r.ctx != ctx
        ringHeld := s3.ringHeld.filter fun (r : RingHeld) => r.ctx != ctx
        taskRun := s3.taskRun.filter fun (r : TaskRun) => r.ctx != ctx
        taskQ := mapVals s3.taskQ fun (_ : Nat) (q : TaskQueue) => if q.ctx = some ctx then { q with held := [] } else q
        peerReqs := s3.peerReqs.filter fun (r : PeerOut) => r.ctx != ctx
        misses := s3.misses.filter fun (m : Miss) => m.ctx != ctx
        pfaults := s3.pfaults.filter fun (f : PFault) => f.ctx != ctx
        owed := s3.owed.filter fun (x : Owed) => x.ctx != ctx }
      -- 2, 4: blocks stop; leaves and counters
      let bids := (s4.blocks.filter fun (e : Nat × Block) => e.2.ctx == ctx && e.2.st != BlockSt.ended).map Prod.fst
      let s5 := bids.foldl State.killBlock s4
      let s6 := (s5.launches.filter fun (e : Nat × Launch) => e.2.ctx == ctx && !e.2.complete).foldl (fun (s : State) e => s.bumpCounter ctx e.2.counter true) s5
      let s7 := (s6.graphs.filter fun (e : Nat × Graph) => e.2.ctx == ctx && !e.2.complete).foldl (fun (s : State) e => s.bumpCounter ctx e.2.counter true) s6
      let s8 := (s7.phases.filter fun (e : Nat × Phase) => e.2.ctx == ctx && !e.2.complete).foldl (fun (s : State) e => match e.2.counter with
        | some a => s.bumpCounter ctx a true
        | none => s) s7
      let s9 := if x.counter ≠ 0 then s8.bumpCounter ctx x.counter true else s8
      -- 5: tiles and keys
      { s9 with
        launches := mapVals s9.launches fun (_ : Nat) (l : Launch) => if l.ctx = ctx then { l with complete := true, cancelled := l.cancelled || !l.complete } else l
        graphs := mapVals s9.graphs fun (_ : Nat) (g : Graph) => if g.ctx = ctx then { g with complete := true } else g
        phases := mapVals s9.phases fun (_ : Nat) (p : Phase) => if p.ctx = ctx then { p with complete := true } else p
        cores := mapVals s9.cores fun (_ : Nat) (k : Core) => freeCtxTiles k ctx
        pfaults := s9.pfaults.filter fun (f : PFault) => f.ctx != ctx
        owed := s9.owed.filter fun (x : Owed) => x.ctx != ctx
        keys := s9.keys.filter fun e => e.2 != ctx }

/-- The context of a warp. -/
def State.ctxOf (s : State) (w : Warp) : Nat := match s.block w.block with | some b => b.ctx | none => 0

/-! Spilling of the divergence stack (R189, R192). -/

/-- The code of a kind (R189). -/
def DivKind.code : DivKind → Nat
  | .reconv => 0
  | .pending => 1
  | .ret => 2

/-- The 16 bytes of an entry (R189). -/
def DivEntry.bytes (e : DivEntry) : List Byte := leBytes 8 e.pc.toNat ++ leBytes 4 e.mask.toNat ++ leBytes 1 e.kind.code ++ leBytes 3 0

/-- Resident entries (R189). -/
def residentMax : Nat := 16
/-- Spilled entries at which a push traps (R192). -/
def spillMax : Nat := 256

/-- Entries of a warp's stack that are resident; a regrouped warp's list keeps its spilled ones at the bottom, which go home when the regroup dissolves (R189, R197). -/
def Warp.residents (w : Warp) : Nat := if w.isRegrouped then w.stack.length - w.spilled else w.stack.length

/-- Entries in the spill area below a warp's own: those of the home warp of its slot under a regrouped warp (R192; log entry 14). -/
def State.spillBase (s : State) (c k : Nat) (w : Warp) : Nat :=
  if w.isRegrouped then ((s.warps.find (homeKey c k)).map fun (h : Warp) => h.spilled).getD 0 else 0

/-- Is the spill area full (R192)? -/
def State.spillFull (s : State) (c k : Nat) (w : Warp) : Bool := decide (spillMax ≤ s.spillBase c k w + w.spilled)

/-- The agent that spills and fills: lane 0 of the home warp of the slot (R192). -/
def State.spillAgt (s : State) (c k : Nat) (w : Warp) : Agt :=
  { path := .ls, who := .warp c k, ctx := s.ctxOf w, core := some c, die := dieOf c, block := some w.block, laneIdx := some ((c * 48 + k) * 32) }

/-- The offset in LANE of a spilled entry (R192). -/
def State.spillAt (s : State) (c k : Nat) (w : Warp) (i : Nat) : Word64 :=
  BitVec.ofNat 64 (((s.ctx (s.ctxOf w)).map (·.laneSize)).getD 0 - 4096 + 16 * (s.spillBase c k w + i))

/-- The oldest 8 resident entries are stored in push order (R192). -/
def State.spillTo (s : State) (c k : Nat) (w : Warp) (st : Store) : State × Warp :=
  let keep := w.residents - 8
  let old := ((w.stack.drop keep).take 8).reverse
  (s.storeBytes (s.spillAgt c k w) st (old.flatMap DivEntry.bytes),
    { w with stack := if w.isRegrouped then w.stack else w.stack.take keep, spilled := w.spilled + 8 })

/-- A home warp to which entries were returned spills down to 16; where its area cannot be written at once it does so before it issues (R192; log entry 14). -/
def State.trimStack (s : State) (c k : Nat) : Nat → Warp → State × Warp
  | 0, w => (s, w)
  | n + 1, w =>
    if w.stack.length ≤ residentMax ∨ s.spillFull c k w then (s, w)
    else match s.check (s.spillAgt c k w) .write 4 (s.spillAt c k w w.spilled) 128 with
      | .ok st =>
        let r := s.spillTo c k w st
        State.trimStack r.1 c k n r.2
      | _ => (s, w)

/-- A warp stands in its slot with its stack trimmed. -/
def State.putHome (s : State) (c k : Nat) (w : Warp) : State :=
  let r := s.trimStack c k w.stack.length w
  { r.1 with warps := (r.1.warps.del (homeKey c k)).put (slotKey c k) r.2 }

/-! Regrouping: returning every lane to its home (R197). -/

/-- A warp continues at a clause header (R323). -/
def Warp.goTo (w : Warp) (pc : Word64) (clock : Nat) : Warp :=
  { w with pc := pc, clause := none, pos := 0, readyAge := clock, losses := 0 }

/-- A warp's lanes resume at an address at which they stopped: inside its clause where they stopped there, else at a clause header (R194, R197). -/
def Warp.backTo (w : Warp) (pc : Word64) (clock : Nat) : Warp :=
  match w.mids.find? fun m => m.1 == pc with
  | some (_, a, h) => { w.goTo pc clock with clause := some (a, h), pos := (pc.toNat - a.toNat) / 8 - 1 }
  | none => w.goTo pc clock

/-- Remember the clause of an address inside one. -/
def Warp.addMid (w : Warp) (pc : Word64) (cl : Option (Word64 × Word64)) : Warp :=
  match cl with
  | some (a, h) => { w with mids := (pc, a, h) :: w.mids.filter fun m => m.1 != pc }
  | none => { w with mids := w.mids.filter fun m => m.1 != pc }

/-- The return of the lanes of one home warp: it resumes at the lowest address, the other lanes are pushed as PENDING entries, highest address first (R195, R197). With no lane left it stands at the lowest address with none active, and performs the effect of JOIN at its next turn (R191). -/
def resumeAt (w : Warp) (clock : Nat) (groups : List (Word64 × Word32)) : Warp :=
  let live := (groups.map fun (p, m) => (p, m &&& ~~~ w.exited)).filter fun (_, m) => m != 0
  let sorted := sortBy (fun (a b : Word64 × Word32) => decide (a.1.toNat ≤ b.1.toNat)) live
  let all := sortBy (fun (a b : Word64 × Word32) => decide (a.1.toNat ≤ b.1.toNat)) groups
  match sorted with
  | [] =>
    let w1 := match all with
      | (p, _) :: _ => w.goTo p clock
      | [] => w
    { w1 with st := if w.exited = 0xFFFFFFFF then .exited else if w.st = .trap then .trap else .ready, wait := none, active := 0 }
  | (p, m) :: rest =>
    { w.backTo p clock with
      st := if w.st = .trap then .trap else .ready
      wait := none
      active := m
      stack := (rest.map fun (q, n) => (⟨q, n, .pending⟩ : DivEntry)) ++ w.stack }

/-- Add lanes at an address to a list of groups. -/
def addGroup (gs : List (Word64 × Word32)) (pc : Word64) (m : Word32) : List (Word64 × Word32) :=
  if gs.any (fun g => g.1 == pc) then gs.map fun g => if g.1 = pc then (pc, g.2 ||| m) else g
  else gs ++ [(pc, m)]

/-- Dissolve every regroup of a block (R197): each entry of a regrouped warp's stack is copied to its lanes' home warps, each lane returns to its home with its address, lanes not yet run are pushed last, as PENDING at the fall-through address (log entry 14). -/
def State.dissolve (s : State) (bid : Nat) : State :=
  match s.block bid with
  | none => s
  | some b =>
    b.regroups.foldl (fun s g =>
      let c := b.core
      -- results in flight of the regrouped warps land
      let s := g.running.foldl (fun s k => s.landAll c k) s
      let rws := g.running.filterMap fun k => (s.warp c k).map fun w => (k, w)
      let homes := g.arrived.map Prod.fst
      let s := { s with warps := g.running.foldl (fun m k => m.del (slotKey c k)) s.warps }
      homes.foldl (fun s h =>
        match s.warps.find (homeKey c h) with
        | none => s
        | some hw =>
          let laneMask := fun (w : Warp) (m : Word32) => maskOf fun l => laneBit m l && w.homes.getD l 48 == h
          let copied := (rws.flatMap fun (_, w) => (w.stack.map fun e => { e with mask := laneMask w e.mask })).filter fun e => e.mask != 0
          let at_ := rws.foldl (fun gs (_, w) => addGroup gs w.pc (laneMask w w.active)) ([] : List (Word64 × Word32))
          let fall := maskOf fun l => g.falling.contains (h, l)
          let gs := g.ended.foldl (fun gs (hh, l, p) => if hh = h then addGroup gs p (1#32 <<< l) else gs) at_
          let hw1 := rws.foldl (fun (h : Warp) (_, w) => if laneMask w w.active = 0 then h else h.addMid w.pc w.clause) { hw with stack := copied ++ hw.stack }
          let back := resumeAt hw1 s.clock (gs.filter fun x => x.2 != 0)
          s.putHome c h (if fall &&& ~~~ hw.exited = 0 then back else { back with st := if back.st = .trap then .trap else .ready, stack := ⟨g.fallPc, fall, .pending⟩ :: back.stack })) s)
      (s.setBlock bid { b with regroups := [] })

/-! Abandonment (R275) and halts (R273, R274). -/

/-- The status code ABANDONED (R417). -/
def stAbandoned : Word64 := 0x01

/-- A waiting warp becomes READY, or goes on in its handler (R183). -/
def Warp.wake (w : Warp) (clock : Nat) : Warp :=
  { w with st := if w.st = .waiting then .ready else w.st, wait := none, readyAge := clock }

/-- A warp begins to wait; in trap mode it stays in TRAP (R183). -/
def Warp.sleep (w : Warp) (x : Wait) : Warp :=
  { w with st := if w.st = .trap then .trap else .waiting, wait := some x }

/-- The number of instructions of a clause (R323). -/
def clauseCount (h : Word64) : Nat := (h.extractLsb' 52 4).toNat + 1

/-- The clause and position of the instruction after a warp's next one: inside the clause, or the next clause header (R323). -/
def Warp.after (w : Warp) : Word64 × Option (Word64 × Word64) × Nat :=
  match w.clause with
  | some (a, h) => if w.pos + 1 < clauseCount h then (w.pc + 8, some (a, h), w.pos + 1) else (w.pc + 8, none, 0)
  | none => (w.pc + 8, none, 0)

/-- A warp moves past the instruction it has issued: to the next of its clause, or to the next clause (R218, R323). -/
def Warp.advance (w : Warp) (clock : Nat) : Warp :=
  let (pc, cl, pos) := w.after
  { w with pc := pc, clause := cl, pos := pos, readyAge := if cl.isNone then clock else w.readyAge, losses := 0, mark := none }

/-- A waiting instruction retires with a status. -/
def Warp.retire (w : Warp) (dst : Nat) (v : Word64) (clock : Nat) : Warp := ((w.setS dst v).wake clock).advance clock

/-- A warp waiting at a barrier or a TAKE is released with ABANDONED (R275). -/
def releaseAbandoned (clock : Nat) (w : Warp) : Warp :=
  match w.wait with
  | some (.barrier _ _ dst) => w.retire dst stAbandoned clock
  | some (.take _ _ dst _) => w.retire dst stAbandoned clock
  | _ => w

/-- Abandon a block (R275). -/
def State.abandon (s : State) (bid : Nat) : State :=
  match s.block bid with
  | none => s
  | some b =>
    if b.abandoned then s
    else
      let s1 := s.dropLeaves bid
      let b1 := (s1.block bid).getD b
      let s2 := s1.setBlock bid { b1 with abandoned := true, wdogStart := none }
      let s3 := { s2 with warps := mapVals s2.warps fun (_ : Nat) (w : Warp) => if w.block = bid then releaseAbandoned s.clock w else w }
      -- stream records that target a handle of the halted sequencer
      let halted := match s3.seq b.core with
        | some q => q.block == bid && q.st == SeqSt.halted
        | none => false
      if halted then
        let hits := fun (r : StreamRec) => r.owner == some bid
        let doomed := s3.engines.flatMap fun (e : Nat × List StreamRec) => e.2.filter hits
        let s4 := { s3 with engines := mapVals s3.engines fun (_ : Nat) (l : List StreamRec) => l.filter fun r => !hits r }
        doomed.foldl (fun s r =>
          let done := BitVec.ofNat 64 (fieldAt r.fields 0x38 8)
          if done = 0 then s else s.bumpCounter r.ctx done true) s4
      else s3

/-- Warps of a block that have exited or halted, as a mask over warp indices (R281). -/
def State.goneMask (s : State) (b : Block) : Word32 :=
  (List.range b.slots.length).foldl (fun m i =>
    match s.home b.core (b.slots.getD i 48) with
    | some w => if w.st = .exited ∨ w.st = .halted then m ||| (1#32 <<< i) else m
    | none => m ||| (1#32 <<< i)) 0

/-- The diagnostic record of a warp (R281). -/
def State.warpDiag (s : State) (c k : Nat) (w : Warp) (kind : Nat) (cause : Cause) (addr : Nat) : Diag :=
  match s.block w.block with
  | some b => { kind := kind, core := c, slot := k, cause := cause, lpb := b.lpb, block := b.number, gone := s.goneMask b, pc := w.pc, addr := addr }
  | none => { kind := kind, core := c, slot := k, cause := cause, pc := w.pc, addr := addr }

/-- The block of a warp. -/
def State.blockOf (s : State) (w : Warp) : Option Block := s.block w.block
/-- Is a context about to end for a failed integrity check, which overtakes any consumption of the data (R276)? -/
def State.endsSoon (s : State) (ctx : Nat) : Bool := s.tagFails.any fun x => !x.port && s.keys.find x.key == some ctx

/-- A warp that consumes poison halts at the instruction, its record is written and its block abandoned (R273). -/
def State.haltWarp (s : State) (c k : Nat) (sector : Nat) : State :=
  match s.warp c k with
  | none => s
  | some w =>
    if s.endsSoon (s.ctxOf w) then s.setWarp c k (w.sleep .retry)
    else
    let s1 := s.setWarp c k { w with st := .halted, wait := none }
    let s2 := s1.writeDiag (s.ctxOf w) (s1.warpDiag c k w 2 .ueConsumed sector)
    s2.abandon w.block

/-! Taking a trap and returning from one (R264-R270). -/

/-- What a trap reports. -/
structure TrapInfo where
  cause : Cause
  lane : Nat := 0
  addr : Nat := 0
  imm : Nat := 0
  /-- The address saved in TRAP.PC, where it is not the instruction's own. -/
  pc : Option Word64 := none
  /-- The instruction after the trapping one is resumed (R28). -/
  past : Bool := false
  /-- TRAP.PC itself is the address after the instruction (SOFTWARE, BREAKPOINT). -/
  after : Bool := false
  scause : Nat := 0
  sslot : Nat := 0
  /-- The active mask saved, where it is not the warp's (R191). -/
  active : Option Word32 := none
  /-- Pages whose cached entry failed a check (R33). -/
  drops : List Nat := []
  deriving DecidableEq, Repr

/-- The value of TRAP.CAUSE (R268). -/
def TrapInfo.word (t : TrapInfo) : Word64 :=
  BitVec.ofNat 64 (t.scause % 256 * 2 ^ 40 + t.sslot % 8 * 2 ^ 37 + t.lane % 32 * 2 ^ 32 + t.imm % 65536 * 2 ^ 16 + t.cause.code)

/-- The trap registers at entry (R268): the address, the resume address, the cause, the mask with the position in the clause of the instruction to resume. -/
def Warp.trapRegs (w : Warp) (t : TrapInfo) : TrapRegs :=
  let (ppc, pcl, ppos) := match t.pc with
    | some p => (p, none, 0)
    | none => if t.after then w.after else (w.pc, w.clause, w.pos)
  let (npc, ncl, npos) := if t.past then w.after else (ppc, pcl, ppos)
  { w.traps with
    pc := ppc
    npc := npc
    cause := t.word
    mask := BitVec.ofNat 64 (npos % 16 * 2 ^ 32 + (t.active.getD w.active).toNat)
    addr := BitVec.ofNat 64 t.addr
    entryNpc := npc
    clause := ncl }

/-- A warp in trap mode: its handler's address, the mask it had (R267). -/
def Warp.enterTrap (w : Warp) (t : TrapInfo) (handler : Word64) : Warp :=
  { w with
    traps := w.trapRegs t
    st := .trap
    wait := none
    pc := handler
    clause := none
    pos := 0
    active := t.active.getD w.active
    pxRes := []
    mark := none }

/-- A home warp stands at the faulting instruction of a regrouped warp; lanes that would resume at a lower address wait as PENDING (R197). -/
def Warp.faultAt (hw rw : Warp) (h : Nat) : Warp :=
  let m := maskOf fun l => laneBit rw.active l && rw.homes.getD l 48 == h
  let w := if hw.pc = rw.pc then hw
    else { hw with stack := ⟨hw.pc, hw.active, .pending⟩ :: hw.stack.filter fun e => !(e.kind == .pending && e.pc == rw.pc && e.mask == m), active := m }
  { w with pc := rw.pc, clause := rw.clause, pos := rw.pos }

/-- A trap is taken (R264-R270): the regroup dissolves, every result in flight lands, the warp saves its state, enters TRAP and continues at CTX.TRAPH; in trap mode or with no handler the context is terminated. -/
def State.takeTrap (s : State) (c k : Nat) (t : TrapInfo) : State :=
  match s.warp c k with
  | none => s
  | some w0 =>
    let h := w0.homeOf k t.lane
    let s0 := if w0.isRegrouped then
        (match (s.dissolve w0.block).warp c h with
         | some hw => (s.dissolve w0.block).putHome c h (hw.faultAt w0 h)
         | none => s.dissolve w0.block)
      else s
    match s0.warp c h with
    | none => s0
    | some w =>
      let ctx := s0.ctxOf w
      let frz := s0.frzCtl.trapen && s0.frzTrig.isNone && s0.frzCtl.mcause == t.cause.code
      let s1 := if frz then { s0 with frzTrig := some s0.clock } else s0
      if w.st = .trap then s1.terminate ctx 2
      else
        match (s1.ctx ctx).map (·.traph) with
        | some handler =>
          if handler = 0 then s1.terminate ctx 3
          else
            let s2 := s1.landAll c h
            match s2.warp c h with
            | some v => (s2.setWarp c h (v.enterTrap t handler)).clearFails (.warp c h)
            | none => s2
        | none => s1

/-- RFT (R269, R270): the warp leaves TRAP with the saved mask and continues at TRAP.NPC, inside the saved clause when the handler left it as it was. -/
def Warp.leaveTrap (w : Warp) (clock : Nat) : Warp :=
  let same := w.traps.npc == w.traps.entryNpc
  { w with
    st := .ready
    active := (w.traps.mask.extractLsb' 0 32) &&& ~~~ w.exited
    pc := w.traps.npc
    clause := if same then w.traps.clause else none
    pos := if same then (w.traps.mask.extractLsb' 32 4).toNat else 0
    readyAge := clock
    barHeld := if same then w.barHeld else [] }

/-! Sequencer faults and halts (R271, R274). -/

/-- The SSLOT code of a slot (R268). -/
def Slot.code : Slot → Nat
  | .b => 0 | .s => 1 | .v0 => 2 | .v1 => 3 | .m => 4 | .c0 => 5 | .c1 => 6

/-- A sequencer fault: the bundle takes no effect, the sequencer halts, the block's fault registers are written and the block abandoned; SEQUENCER_FAULT_DELIVERY follows once the results of the earlier bundles have landed (R271, R272, R275). -/
def State.seqFaultCode (s : State) (c code slot addr : Nat) : State :=
  match s.seq c with
  | none => s
  | some q =>
    match s.block q.block with
    | none => s
    | some b =>
      let s1 := s.setSeq c { q with st := .halted, taking := false, fault := some ⟨code, slot, q.pc, s.clock + 1⟩ }
      let s2 := s1.setBlock q.block { b with fpc := q.pc, finfo := BitVec.ofNat 64 (code + 256 * slot), faddr := BitVec.ofNat 64 addr }
      (s2.clearFails (.seq c)).abandon q.block

/-- A sequencer fault with a cause of R263. -/
def State.seqFault (s : State) (c : Nat) (cause : Cause) (slot addr : Nat) : State := s.seqFaultCode c cause.code slot addr

/-- A sequencer that consumes poison halts with no trap, writes its record and its block is abandoned (R274). -/
def State.seqHalt (s : State) (c : Nat) (slot : Nat) (pc : Word64) (sector : Nat) : State :=
  match s.seq c with
  | none => s
  | some q =>
    match s.block q.block with
    | none => s
    | some b =>
      if s.endsSoon b.ctx then s
      else
      let s1 := s.setSeq c { q with st := .halted, taking := false }
      let s2 := s1.setBlock q.block { b with fpc := pc, finfo := BitVec.ofNat 64 (Cause.ueConsumed.code + 256 * slot), faddr := BitVec.ofNat 64 sector }
      let d : Diag := { kind := 3, core := c, slot := 48, cause := .ueConsumed, lpb := b.lpb, block := b.number, gone := s2.goneMask b, pc := pc, addr := sector }
      ((s2.writeDiag b.ctx d).clearFails (.seq c)).abandon q.block

/-! Retiring a warp's instruction. -/

/-- What a warp's instruction comes to. -/
inductive WRes where
  /-- It retires; the state is that after its effect, the warp still at the instruction. -/
  | done (s : State)
  /-- It retires and has set the address the warp continues at. -/
  | jump (s : State)
  /-- It traps precisely (R264). -/
  | trap (t : TrapInfo)
  /-- It consumes poison from a sector (R273). -/
  | halt (sector : Nat)
  /-- It has not retired; the state holds the warp's wait. -/
  | wait (s : State)
  deriving DecidableEq, Repr

/-- Drop the translations of pages that failed a check, from a core's cache and its die's (R33). -/
def State.dropPages (s : State) (c ctx : Nat) (pages : List Nat) : State :=
  pages.foldl (fun (s : State) p => s.dropEntry { path := .ls, who := .seq c, ctx := ctx, core := some c, die := dieOf c } p) s

/-- Carry out what an instruction of a warp comes to. -/
def State.finish (s : State) (c k : Nat) : WRes → State
  | .done t => match t.warp c k with
    | some w => ((t.setWarp c k (w.advance t.clock)).draw).clearFails (.warp c k)
    | none => t
  | .jump t => (t.draw).clearFails (.warp c k)
  | .trap i => ((s.dropPages c (match s.warp c k with | some w => s.ctxOf w | none => 0) i.drops).takeTrap c k i).draw
  | .halt x => (s.haltWarp c k x).draw
  | .wait t => t.draw

/-- Execute an instruction for the acting warp. -/
def asWarp (s : State) (f : Nat → Nat → Warp → WRes) : Host.Outcome State Fault Refusal :=
  match s.cur with
  | .warp c k => match s.warp c k with
    | some w => .next (s.finish c k (f c k w))
    | none => .fault .noAgent
  | _ => .fault .noAgent

/-- Do the clocks of the package run (R284, R460)? -/
def State.clocked (s : State) : Bool := !s.frozen && (s.power == Power.active || s.power == Power.idle)

/-- A step of the package's own agents or a message to them: it needs running clocks, and always gives a next state. -/
def asEvent (s : State) (f : Arg → State) : Host.Outcome State Fault Refusal := .next (if s.clocked then f s.arg else s)

/-- A request that the housekeeping controller takes whatever the clocks do (R457, R460, R463). -/
def asRequest (s : State) (f : Arg → State) : Host.Outcome State Fault Refusal := .next (f s.arg)

end Sys2Proof.Machine
end

