-- ==== Sys2Proof/Machine/Operands.lean ====
section
/-! DEFINITION. The operands of warp instructions: guards (R311, R336), v, s and p registers with their owners, poison and results in flight (R44-R46, R51, R196, R322, R335-R339), and the writing of results. -/
namespace Sys2Proof.Machine
open Sys2Proof

/-! Guards. -/

/-- The predicate bit of a lane, from its home warp (R196, R338). -/
def State.predBit (s : State) (c k : Nat) (w : Warp) (l n : Nat) : Bool :=
  if w.isRegrouped then
    match s.home c (w.homeOf k l) with
    | some h => laneBit (h.pred n) l
    | none => false
  else laneBit (w.pred n) l

/-- The lanes in which a guard is true (R311). -/
def State.guardMask (s : State) (c k : Nat) (w : Warp) (g : BitVec 4) : Word32 :=
  let n := (g.extractLsb' 0 3).toNat
  let m := if w.isRegrouped then maskOf (fun l => s.predBit c k w l n) else w.pred n
  if g.getLsbD 3 then ~~~ m else m

/-- The lanes that take part (R336). -/
def State.taking (s : State) (c k : Nat) (w : Warp) (g : BitVec 4) : Word32 := w.active &&& s.guardMask c k w g

/-- The guard agrees among the active lanes (R311). -/
def uniformGuard (active taking : Word32) : Bool := taking == 0 || taking == active

/-! v registers. -/

/-- The tile of a v register through a warp's map; none where the entry is 0xFF (R44). -/
def Warp.tileOf (w : Warp) (r : Nat) : Option Nat :=
  match w.tmap[r / 32]? with
  | some t => if t = 0xFF then none else some t
  | none => none

/-- The element of a v register in a lane (R45). -/
def elemIdx (r l : Nat) : Nat := r % 32 / 2 * 64 + l + 32 * (r % 2)

/-- May a warp slot read and write the tile (R51)? -/
def Tile.ownedBy (t : Tile) (ctx hold : Nat) : Bool := t.st == .owned && t.ctx == ctx && t.hold == hold

/-- The home slots an instruction of the warp reads through. -/
def Warp.homeSlots (w : Warp) (k : Nat) : List Nat :=
  if w.isRegrouped then ((lanesOf w.active).map (w.homeOf k)).eraseDups else [k]

/-- REG-RANGE and TILE-OWNER over the v registers an instruction names (R337). -/
def State.checkV (s : State) (c k : Nat) (w : Warp) (regs : List Nat) : Option Cause :=
  let hs := (w.homeSlots k).filterMap fun h => (s.home c h).map fun x => (h, x)
  if hs.any (fun (h : Nat × Warp) => regs.any fun r => (h.2.tileOf r).isNone) then some .regRange
  else if hs.any (fun (h : Nat × Warp) => regs.any fun r => match h.2.tileOf r with
      | some t => !(s.tile c t).ownedBy (s.ctxOf w) h.1
      | none => true) then some .tileOwner
  else none

/-- Tiles of the registers, for the bank check. -/
def State.tilesFor (s : State) (c k : Nat) (w : Warp) (regs : List Nat) : List Nat :=
  ((w.homeSlots k).flatMap fun h => match s.home c h with
    | some x => regs.filterMap x.tileOf
    | none => []).eraseDups

/-- A bank of a core (R43, R53). -/
def State.bank (s : State) (c b : Nat) : Bank := (s.core c).banks.getD b {}
/-- Replace a bank. -/
def State.setBank (s : State) (c b : Nat) (x : Bank) : State := s.setCore c { s.core c with banks := (s.core c).banks.put b x }

/-- Begin the return to ON of every bank in RETENTION that holds one of the tiles; none when all are ON (R53). -/
def State.wakeBanks (s : State) (c : Nat) (tiles : List Nat) : Option State :=
  let bs := ((tiles.map (· / 8)).eraseDups).filter fun b => (s.bank c b).st != BankState.on
  if bs.isEmpty then none
  else some (bs.foldl (fun (s : State) b =>
    if (s.bank c b).backAt.isNone then s.setBank c b { s.bank c b with backAt := some (s.clock + 24) } else s) s)

/-- The newest write in flight to an element. -/
def flightElem (fs : List Flight) (t i : Nat) : Option Elem :=
  fs.foldl (fun r f => f.writes.foldl (fun r x => match x with
    | .elem t' i' e => if t' = t ∧ i' = i then some e else r
    | .sreg _ _ => r) r) none

/-- The newest write in flight to an s register. -/
def flightS (fs : List Flight) (n : Nat) : Option Word64 :=
  fs.foldl (fun r f => f.writes.foldl (fun r x => match x with
    | .sreg n' v => if n' = n then some v else r
    | .elem _ _ _ => r) r) none

/-- An element as a warp reads it: where a result in flight has not been waited for, the old or the new value (R322). -/
def State.readElem (s : State) (c : Nat) (w : Warp) (t i : Nat) : Elem :=
  let old := (s.tile c t).elems.getD i {}
  match flightElem w.flights t i with
  | some e => if Config.freeNew s.free (t * 1024 + i) then e else old
  | none => old

/-- A v register of a lane (R45, R196). -/
def State.readV (s : State) (c k : Nat) (w : Warp) (l r : Nat) : Elem :=
  match (if w.isRegrouped then s.home c (w.homeOf k l) else some w) with
  | some h => match h.tileOf r with
    | some t => s.readElem c w t (elemIdx r l)
    | none => {}
  | none => {}

/-- An s register as a lane reads it: its home warp's (R338). -/
def State.readS (s : State) (c k : Nat) (w : Warp) (l n : Nat) : Word64 :=
  let old := match (if w.isRegrouped then s.home c (w.homeOf k l) else some w) with
    | some h => h.sreg n
    | none => 0
  match flightS w.flights n with
  | some v => if Config.freeNew s.free (1000000 + n) then v else old
  | none => old

/-- A source operand: a v or s register read at 32 or 64 bits (R335). -/
structure Src where
  code : Nat
  isS : Bool
  wide : Bool
  deriving DecidableEq, Repr

/-- The v registers a source names. -/
def Src.vregs (x : Src) : List Nat := if x.isS then [] else if x.wide then [x.code, x.code + 1] else [x.code]

/-- The value of a source in a lane, and the poison it carries (R335, R339). -/
def State.readSrc (s : State) (c k : Nat) (w : Warp) (l : Nat) (x : Src) : Word64 × Option Nat :=
  if x.isS then
    let v := s.readS c k w l x.code
    (if x.wide then v else (v.extractLsb' 0 32).setWidth 64, none)
  else if x.wide then
    let lo := s.readV c k w l x.code
    let hi := s.readV c k w l (x.code + 1)
    ((hi.bits ++ lo.bits : BitVec 64), match lo.poison with | some p => some p | none => hi.poison)
  else
    let e := s.readV c k w l x.code
    (e.bits.setWidth 64, e.poison)

/-- The first poison among the sources of the lanes that take part, in the registers the warp may read (R339). -/
def State.poisonOf (s : State) (c k : Nat) (w : Warp) (lanes : Word32) (xs : List Src) : Option Nat :=
  let ok := xs.filter fun x => (s.checkV c k w x.vregs).isNone
  (lanesOf lanes).findSome? fun l => ok.findSome? fun x => (s.readSrc c k w l x).2

/-! Writing results. -/

/-- A write at once over a write in flight leaves either value: the one in flight is dropped, or stays to land (R322). -/
def dropFlights (free : Nat) (fs : List Flight) (x : RegWrite) : List Flight :=
  match x with
  | .elem t i _ =>
    if (flightElem fs t i).isSome ∧ Config.freeNew free (t * 1024 + i) then
      fs.map fun f => { f with writes := f.writes.filter fun | .elem t' i' _ => !(t' == t && i' == i) | .sreg _ _ => true }
    else fs
  | .sreg n _ =>
    if (flightS fs n).isSome ∧ Config.freeNew free (1000000 + n) then
      fs.map fun f => { f with writes := f.writes.filter fun | .sreg n' _ => n' != n | .elem _ _ _ => true }
    else fs

/-- Perform register writes at once. -/
def State.writeNow (s : State) (c k : Nat) (ws : List RegWrite) : State :=
  ws.foldl (fun (s : State) x =>
    let s1 := match s.warp c k with
      | some w => if w.flights.isEmpty then s else s.setWarp c k { w with flights := dropFlights s.free w.flights x }
      | none => s
    s1.landWrite c k x) s

/-- Put register writes in flight under a scoreboard; they land after a latency the spec leaves open (R322, R371, log entry 4). -/
def State.writeLater (s : State) (c k sbd : Nat) (ws : List RegWrite) : State :=
  match s.warp c k with
  | some w =>
    let (id, s1) := s.newId
    s1.setWarp c k { w with flights := w.flights ++ [⟨id, sbd, s.clock + s.latency, ws⟩] }
  | none => s

/-- The writes of a 32- or 64-bit value to a v register of a lane. -/
def State.vWrites (s : State) (c k : Nat) (w : Warp) (l r : Nat) (wide : Bool) (v : Word64) (poison : Option Nat) : List RegWrite :=
  match (if w.isRegrouped then s.home c (w.homeOf k l) else some w) with
  | none => []
  | some h =>
    let lo := match h.tileOf r with
      | some t => [RegWrite.elem t (elemIdx r l) ⟨v.extractLsb' 0 32, poison⟩]
      | none => []
    let hi := match wide, h.tileOf (r + 1) with
      | true, some t => [RegWrite.elem t (elemIdx (r + 1) l) ⟨v.extractLsb' 32 32, poison⟩]
      | _, _ => []
    lo ++ hi

/-- Set a predicate in lanes, in their home warps; p7 is discarded (R314, R338). -/
def State.setPred (s : State) (c k : Nat) (w : Warp) (n : Nat) (lanes val : Word32) : State :=
  if n = 7 then s
  else if w.isRegrouped then
    (lanesOf lanes).foldl (fun (s : State) l =>
      let h := w.homeOf k l
      match s.home c h with
      | some x =>
        let m := (x.pred n &&& ~~~ (1#32 <<< l)) ||| (if laneBit val l then 1#32 <<< l else 0)
        s.setHome c h { x with preds := x.preds.put n m }
      | none => s) s
  else match s.warp c k with
    | some x => s.setWarp c k { x with preds := x.preds.put n ((x.pred n &&& ~~~ lanes) ||| (val &&& lanes)) }
    | none => s

/-- A result extended for an s or x destination: a 32-bit one is sign-extended when TY is I32 and zero-extended otherwise (R335). -/
def extendS (ty : BitVec 5) (wide : Bool) (v : Word64) : Word64 :=
  if wide then v else if ty = 0 then (v.extractLsb' 0 32).signExtend 64 else (v.extractLsb' 0 32).setWidth 64

end Sys2Proof.Machine
end

