-- ==== Sys2Proof/Machine/Flags.lean ====
section
/-! DEFINITION. The status an instruction leaves beside its result: the events of its elements in the first-event log (R289, R307, R308), and the rounding mode and number an element is rounded with (R288-R290). -/
namespace Sys2Proof.Machine
open Sys2Proof

/-- The rounding mode of a code, .DYN taking CTL.ROUND.RM (R288, R290). -/
def rmOf (code dyn : Nat) : Rm :=
  match (if code = 5 then dyn else code) with
  | 1 => .rtz
  | 2 => .rup
  | 3 => .rdn
  | 4 => .rsn
  | _ => .rne

/-- The element index E of position i of a v register's element (R289). -/
def vElemIndex (r l i : Nat) : Nat := 16 * elemIdx r l + i

/-- The rounding of an element for a lane: its home warp's mode and seed (R289, R290, R338). -/
def State.rndFor (s : State) (c k : Nat) (w : Warp) (l code elem : Nat) : Rnd :=
  match (if w.isRegrouped then s.home c (w.homeOf k l) else some w) with
  | some h => ⟨rmOf code h.rm, rsnU h.seed elem⟩
  | none => ⟨.rne, 0⟩

/-- One event to record: the lane, the element index, the mask of codes. -/
structure Event where
  lane : Nat
  elem : Nat
  ev : BitVec 32
  deriving DecidableEq, Repr

/-- Record the events of an instruction at an address, lanes in ascending order, each in its home warp's log (R308, R338). -/
def State.recordEvents (s : State) (c k : Nat) (w : Warp) (evs : List Event) : State :=
  evs.foldl (fun (s : State) (e : Event) =>
    if e.ev = 0 then s
    else
      let h := w.homeOf k e.lane
      match s.home c h with
      | some x => s.setHome c h { x with fel := x.fel.record e.ev w.pc e.elem e.lane 0 }
      | none => s) s

/-- Record an event that belongs to no element (R307: codes 0x10 to 0x13). -/
def State.recordOne (s : State) (c k : Nat) (w : Warp) (code lane : Nat) : State :=
  s.recordEvents c k w [⟨lane, 0, evBit code⟩]

end Sys2Proof.Machine
end

