-- ==== Sys2Proof/Machine/Waiting.lean ====
section
/-! DEFINITION. Waiting for translations and for replayable faults (R34, R36), and what an access of a warp comes to before any byte moves (R20-R22). -/
namespace Sys2Proof.Machine
open Sys2Proof

/-- Distinct pages missing at once for a core's agents (R34). -/
def State.coreMissing (s : State) (c : Nat) : Nat :=
  (s.misses.filter fun m => !m.discarded && m.waiters.any fun x => match x.who with
    | .warp d _ | .seq d | .queue d _ | .copy d _ => d == c
    | _ => false).length

/-- The missing pages of an access that its core may take on now: those that are missing already, and fresh ones while no 65th distinct one is (R34). -/
def State.missFit (s : State) (g : Agt) (pages : List (Nat × Nat)) : List (Nat × Nat) :=
  match g.core with
  | none => pages
  | some c =>
    let known := fun (p : Nat) => s.misses.any (·.takes g p)
    let fresh := ((pages.map Prod.fst).eraseDups).filter fun p => !known p
    let fit := fresh.take (64 - s.coreMissing c)
    pages.filter fun p => known p.1 || fit.contains p.1

/-- An agent stands as waiting at the missing pages that its core has room for (R34). -/
def State.noteMisses (s : State) (g : Agt) (acc : Acc) (pages : List (Nat × Nat)) : State :=
  (s.missFit g pages).foldl (fun (s : State) p => s.noteMiss g acc p.1 p.2) s

/-- A warp waits for the pages of an access: it stands as waiting at the missing pages that there is room for; with room for none it tries again (R34, R36). -/
def State.holdWarp (s : State) (c k : Nat) (g : Agt) (acc : Acc) (pages : List (Nat × Nat)) : State :=
  let now := s.missFit g pages
  let s1 := s.noteMisses g acc pages
  match s1.warp c k with
  | some w => s1.setWarp c k (w.sleep (if now.isEmpty then .retry else .xlate ((now.map Prod.fst).eraseDups)))
  | none => s1

/-- A warp waits on replayable faults: one is raised for each distinct page and cause (R36). -/
def State.holdFaults (s : State) (c k : Nat) (g : Agt) (fs : List XFault) : State :=
  let s1 := s.raiseFaults g fs
  match s1.warp c k with
  | some w => s1.setWarp c k (w.sleep (.xlate ((fs.map fun f => f.page).eraseDups)))
  | none => s1

/-! Accesses of a warp. -/

/-- The agent a lane of a warp is: a regrouped lane is its home lane (R15, R84). -/
def State.laneAgt (s : State) (c k : Nat) (w : Warp) (l : Nat) : Agt :=
  { path := .ls, who := .warp c k, ctx := s.ctxOf w, core := some c, die := dieOf c, block := some w.block,
    laneIdx := some ((c * 48 + w.homeOf k l) * 32 + l) }

/-- The agent a warp's own operations are. -/
def State.warpAgt (s : State) (c k : Nat) (w : Warp) : Agt := s.laneAgt c k w (lowLane w.active)

/-- The generic address of an effective address (R18). -/
def genericOf (sp : Nat) (ea : Word64) : Nat := if sp ≤ 1 then ea.toNat else ((windowOf sp).1 + ea.toNat) % 2 ^ 64

/-- The conditions of one access in R22's order: the range, the alignment of atomics and of ordered accesses, then the rest. -/
def State.meet (s : State) (g : Agt) (acc : Acc) (sp : Nat) (aligned : Bool) (ea : Word64) (n : Nat) : Pre :=
  if sp ≤ 1 ∧ 2 ^ 56 ≤ ea.toNat then .bad .addrRange
  else if aligned && ea.toNat % n != 0 then .bad .misaligned
  else s.check g acc sp ea n

/-- One lane's access: the lane, its agent, its address and what it meets. -/
structure LaneAcc where
  lane : Nat
  g : Agt
  ea : Word64
  pre : Pre
  deriving DecidableEq, Repr

/-- The trap condition of a lane's access, if it has one (R22). -/
def trapOf (sp : Nat) (a : LaneAcc) : Option TrapInfo :=
  match a.pre with
  | .bad x => some { cause := x, lane := a.lane, addr := genericOf sp a.ea }
  | .fault x p y => some { cause := x, lane := a.lane, addr := y, drops := [p] }
  | _ => none

/-- A warp waits and tries again (R183). -/
def State.tryAgain (s : State) (c k : Nat) : State := match s.warp c k with
  | some w => s.setWarp c k (w.sleep .retry)
  | none => s

/-- What the accesses of an instruction come to before any is performed (R22, R36): every page that a lane below the trapping one misses is waited for, then the lowest lane's trap, then the other misses, then the replayable faults, then an exchange about a line or the switch of a frame that is waited for (R148, R158); else where each lane's bytes lie. -/
def State.reach (s : State) (c k : Nat) (acc : Acc) (sp : Nat) (as : List LaneAcc) : Except WRes (List (LaneAcc × Store)) :=
  let pages := fun (xs : List LaneAcc) => xs.flatMap fun a => match a.pre with | .miss l => l | _ => []
  let held := fun (xs : List LaneAcc) => match xs.head? with
    | some a => s.holdWarp c k a.g acc (pages xs)
    | none => s
  match as.findSome? (trapOf sp) with
  | some t =>
    let before := as.filter fun a => decide (a.lane < t.lane)
    if (pages before).isEmpty then .error (.trap t) else .error (.wait (held before))
  | none =>
    if !(pages as).isEmpty then .error (.wait (held as))
    else
      let faults := as.flatMap fun a => match a.pre with | .held fs => fs | _ => []
      match faults, as.head? with
      | [], _ =>
        let sts := as.filterMap fun a => match a.pre with | .ok st => some (a, st) | _ => none
        if sts.any fun a => s.storeBusy a.2 then .error (.wait (s.tryAgain c k)) else .ok sts
      | fs, some a => .error (.wait (s.holdFaults c k a.g fs))
      | _, none => .ok []

/-- One access for the whole warp, its traps reported at a lane. -/
def State.reachOne (s : State) (c k : Nat) (g : Agt) (acc : Acc) (sp : Nat) (aligned : Bool) (ea : Word64) (n report : Nat) : Except WRes Store :=
  match s.reach c k acc sp [⟨report, g, ea, s.meet g acc sp aligned ea n⟩] with
  | .ok ((_, st) :: _) => .ok st
  | .ok [] => .error (.wait s)
  | .error r => .error r

end Sys2Proof.Machine
end

