-- ==== Sys2Proof/Machine/Diverge.lean ====
section
/-! DEFINITION. The divergence stack (R189-R192): pushing with the spill of the oldest entries, popping with the fill of spilled ones, and the effect of JOIN. The top of `Warp.stack` is its head. -/
namespace Sys2Proof.Machine
open Sys2Proof

/-- An entry from its 16 bytes; software must not have written there (R192). -/
def divEntryOf (b : List Byte) : DivEntry :=
  { pc := BitVec.ofNat 64 (leNat (b.take 8)), mask := BitVec.ofNat 32 (leNat ((b.drop 8).take 4)),
    kind := match leNat ((b.drop 12).take 1) with | 0 => .reconv | 1 => .pending | _ => .ret }

/-- Push one entry (R192): a seventeenth resident entry sends the oldest 8 to memory. -/
def State.push (s : State) (c k : Nat) (w : Warp) (e : DivEntry) : Except WRes (State × Warp) :=
  if s.spillFull c k w then .error (.trap { cause := .divOverflow, lane := lowLane w.active })
  else if w.residents < residentMax then .ok (s, { w with stack := e :: w.stack })
  else match s.reachOne c k (s.spillAgt c k w) .write 4 false (s.spillAt c k w w.spilled) 128 (lowLane w.active) with
    | .error r => .error r
    | .ok st =>
      let (s1, w1) := s.spillTo c k w st
      .ok (s1, { w1 with stack := e :: w1.stack })

/-- A home warp that holds more than 16 entries spills before it issues again (R192, R195, R197; log entry 14). -/
def State.spillFirst (s : State) (c k : Nat) (w : Warp) : WRes :=
  if s.spillFull c k w then .trap { cause := .divOverflow, lane := lowLane w.active }
  else match s.reachOne c k (s.spillAgt c k w) .write 4 false (s.spillAt c k w w.spilled) 128 (lowLane w.active) with
    | .error r => r
    | .ok st =>
      let (s1, w1) := s.spillTo c k w st
      .jump (s1.setWarp c k w1)

/-- Push entries in order (R190). -/
def State.pushAll (s : State) (c k : Nat) (w : Warp) : List DivEntry → Except WRes (State × Warp)
  | [] => .ok (s, w)
  | e :: t => match s.push c k w e with
    | .ok (s1, w1) => State.pushAll s1 c k w1 t
    | .error r => .error r

/-- Bring the most recent 8 spilled entries back when none is resident (R192). Lanes that have exited leave the entries (R191). -/
def State.fillStack (s : State) (c k : Nat) (w : Warp) : Except WRes Warp :=
  if w.residents != 0 || w.spilled == 0 then .ok w
  else
    let g := s.spillAgt c k w
    let n := min 8 w.spilled
    match s.reachOne c k g .read 4 false (s.spillAt c k w (w.spilled - n)) (16 * n) (lowLane w.active) with
    | .error r => .error r
    | .ok st => match s.loadBytes g false st (16 * n) with
      | (_, some x) => .error (.halt x)
      | (b, none) =>
        let es := (List.range n).map fun i => divEntryOf ((b.drop (16 * i)).take 16)
        .ok { w with stack := (es.map fun e => { e with mask := e.mask &&& ~~~ w.exited }).reverse ++ w.stack.drop n, spilled := w.spilled - n }

/-- What JOIN comes to: the warp runs on, or its live lanes stand in no entry (R191). -/
inductive Joined where
  | runs (w : Warp)
  | stuck (w : Warp)
  deriving DecidableEq, Repr

/-- The effect of JOIN with its continuation address (R191), over at most `fuel` entries. -/
def State.joinFrom (s : State) (c k : Nat) (report : Nat) (cont : Word64) : Nat → Warp → Except WRes Joined
  | 0, w => .ok (.stuck w)
  | fuel + 1, w => match s.fillStack c k w with
    | .error r => .error r
    | .ok v => match v.stack with
      | [] => if v.active = 0 then .ok (.stuck v) else .ok (.runs (v.goTo cont s.clock))
      | e :: rest =>
        if e.kind = .ret then .error (.trap { cause := .illegal, lane := report })
        else
          let m := e.mask &&& ~~~ v.exited
          let x := { v with stack := rest, active := m }
          if m = 0 then State.joinFrom s c k report cont fuel x
          else .ok (.runs (if e.kind = .pending then x.backTo e.pc s.clock else x.goTo cont s.clock))

/-- The effect of JOIN on a warp in the state an instruction leaves it in; live lanes that no entry holds trap at the continuation address, the instruction's effect standing (R191). -/
def State.joinAt (s : State) (c k : Nat) (w : Warp) (report : Nat) (cont : Word64) : WRes :=
  match s.joinFrom c k report cont (w.stack.length + w.spilled + 1) w with
  | .error r => r
  | .ok (.runs v) => .jump (s.setWarp c k v)
  | .ok (.stuck v) =>
    .jump ((s.setWarp c k v).takeTrap c k { cause := .illegal, lane := lowLane v.live, pc := some cont, active := some v.live })

end Sys2Proof.Machine
end

