-- ==== Sys2Proof/Machine/Fetch.lean ====
section
/-! DEFINITION. Fetching a warp's clauses and instructions (R309, R323, R37), and the end of a waiting warp's wait (R183). -/
namespace Sys2Proof.Machine
open Sys2Proof

/-! Words of a program. -/

/-- The agent that fetches for a warp. -/
def State.fetchAgt (s : State) (c k : Nat) (w : Warp) : Agt :=
  { path := .ls, who := .warp c k, ctx := s.ctxOf w, core := some c, die := dieOf c, block := some w.block }

/-- The agent that fetches and accesses memory for a sequencer. -/
def State.seqAgt (s : State) (c : Nat) (q : Seq) : Agt :=
  { path := .sq, who := .seq c, ctx := ((s.block q.block).map (·.ctx)).getD 0, core := some c, die := dieOf c, block := some q.block }

/-- Eight bytes in memory as a word, least significant byte first (R309). -/
def wordOf (b : List Byte) : Word64 := BitVec.ofNat 64 (leNat b)

/-- Bytes of memory as a fetch under a key reads them (R29). -/
def State.codeBytes (s : State) (key pa n : Nat) : List Byte := bytesFrom (fun a => s.underKey key a (s.physByte a)) pa n

/-- The poison that a fetch of a word from memory meets: beyond a bridge that is down, a poisoned sector, a failed integrity check (R153, R163, R166). -/
def State.codePoison (s : State) (g : Agt) (key pa : Nat) : Option Nat := s.poisonFor { g with core := none } false key pa 8

/-- Does a fetch take the word of a line that the core's instruction buffer holds? With another in memory it may take either: a free choice (R309). -/
def State.ibufHit (s : State) (c pa : Nat) : Option Word64 :=
  match (s.core c).ibuf.find (pa / 128) with
  | some line => if Config.freeNew s.free pa then none else some (wordOf ((line.drop (pa % 128)).take 8))
  | none => none

/-- A fetch from memory: the directory follows (R147), and the buffer keeps the line where neither of its sectors is poisoned (R166, R309). -/
def State.fillIbuf (s : State) (c key pa : Nat) : State :=
  let s1 := s.touch (dieOf c) false pa 8
  match (s.core c).ibuf.find (pa / 128), s.poisonIn (pa / 128 * 128) 128 with
  | none, none => s1.setCore c { s1.core c with ibuf := (s1.core c).ibuf.put (pa / 128) (s.codeBytes key (pa / 128 * 128) 128) }
  | _, _ => s1

/-- What a fetch of one word gives. -/
inductive Fet where
  | word (w : Word64) (s : State)
  | miss (pages : List (Nat × Nat))
  | fault (c : Cause) (page addr : Nat)
  | held (fs : List XFault)
  | bad (c : Cause)
  | poison (sector : Nat)
  /-- Its integrity check has failed: the context is about to end (R276). -/
  | ends (s : State)
  deriving DecidableEq, Repr

/-- Fetch one word (R26, R153, R166, R309); a fetch from memory waits for an exchange about its line (R148, R158). -/
def State.fetchWord (s : State) (c : Nat) (g : Agt) (pc : Nat) : Fet :=
  match s.check g .fetch 1 (BitVec.ofNat 64 pc) 8 with
  | .ok (.mem (p :: _)) =>
    let pa := s.migTarget p.pa
    let key := pteKey p.pte
    match s.ibufHit c pa with
    | some w => .word w s
    | none =>
      if s.lineBusy p.pa 8 then .miss []
      else match s.codePoison g key pa with
        | some x => if (sectorsOf pa 8).any (s.tagBad key) then .ends (s.noteTags key ((sectorsOf pa 8).filter (s.tagBad key)) false) else .poison x
        | none => .word (wordOf (s.codeBytes key pa 8)) (s.fillIbuf c key pa)
  | .ok _ => .bad .execFault
  | .miss l => .miss l
  | .fault c p a => .fault c p a
  | .held fs => .held fs
  | .bad x => .bad x

/-! A warp's turn. -/

/-- What a warp's turn comes to: an instruction to execute in a state, or a state alone. -/
inductive Turned where
  | issue (i : Instr) (s : State)
  | idle (s : State)
  deriving DecidableEq, Repr

/-- Instructions that may stand only last in a clause (R323). -/
def lastOnly : Instr → Bool
  | .bra _ | .brx _ | .brxG _ | .join _ | .call _ | .ret _ | .bri _ | .exit _ | .rft _ | .yield _ => true
  | _ => false

/-- The header's RGP bit (R323). -/
def clauseRgp (h : Word64) : Bool := h.getLsbD 44

/-- Does an instruction stand in its clause as R323 demands? -/
def clausePlace (h : Word64) (pos : Nat) (i : Instr) : Bool :=
  let last := decide (pos + 1 = clauseCount h)
  let g := match i with
    | .brxG _ => true
    | _ => false
  (!lastOnly i || last) && (!g || clauseRgp h) && (!(last && clauseRgp h) || g)

/-- A clause header is well formed (R323). -/
def headerOk (h : Word64) : Bool := h.extractLsb' 56 8 == 0xC1#8 && h.extractLsb' 0 44 == 0

/-- The scoreboards a header waits on are clear (R322, R323). -/
def waitsMet (w : Warp) (h : Word64) : Bool :=
  w.flights.all fun f => f.sbd == 0 || !h.getLsbD (45 + f.sbd)

/-- Does a warp's block run (R181, R237)? -/
def State.blockRuns (s : State) (w : Warp) : Bool :=
  match s.block w.block with
  | some b => b.st == BlockSt.resident && !b.stopping
  | none => false

/-- Is a warp READY, or in its handler (R183)? -/
def Warp.isReady (w : Warp) : Bool := (w.st == .ready || w.st == .trap) && w.wait.isNone

/-- Does a warp wait for something whose end it sees by trying its instruction again: anything but a page that is still missing or held by a fault? -/
def State.mayTry (s : State) (c k : Nat) (w : Warp) : Bool :=
  (w.st == .waiting || w.st == .trap) && match w.wait with
    | some .retry => true
    | some (.xlate ps) => !(ps.any fun p => s.pageBusy { path := .ls, who := .warp c k, ctx := s.ctxOf w, core := some c, die := dieOf c } p)
    | _ => false

/-- May a warp's next instruction be tried, but for its header's waits (R181, R183)? -/
def State.runnable (s : State) (c k : Nat) (w : Warp) : Bool := s.blockRuns w && (w.isReady || s.mayTry c k w)

/-- An ILLEGAL trap whose TRAP.PC is an address (R320, R323). -/
def illegalAt (pc : Word64) : TrapInfo := { cause := .illegal, pc := some pc }

/-- What a fetch that gives no word does to the warp (R37, R166, R273). -/
def State.fetchFailed (s : State) (c k : Nat) (w : Warp) : Fet → State
  | .word _ t => t
  | .miss l => s.holdWarp c k (s.fetchAgt c k w) .fetch l
  | .fault x p a => (s.dropEntry (s.fetchAgt c k w) p).takeTrap c k { cause := x, addr := a, lane := lowLane w.active }
  | .held fs => s.holdFaults c k (s.fetchAgt c k w) fs
  | .bad x => s.takeTrap c k { cause := x, addr := w.pc.toNat, lane := lowLane w.active }
  | .poison x => s.haltWarp c k x
  | .ends t => t.tryAgain c k

/-- The issue classes (R218). -/
inductive IssueClass where
  | alu
  | xu
  | lsp
  | ctl
  deriving DecidableEq, Repr

/-- The class of a word, by its opcode (R218, R345, R371, R416). -/
def classOf (x : Word64) : IssueClass :=
  let opc := (x.extractLsb' 54 10).toNat
  if 0x048 ≤ opc ∧ opc ≤ 0x04E then .xu
  else if opc < 0x0B0 then .alu
  else if opc < 0x0D0 then .ctl
  else if 0x108 ≤ opc ∧ opc ≤ 0x10C then .ctl
  else if opc < 0x160 ∨ opc = 0x169 ∨ opc = 0x16A then .lsp
  else .ctl

/-- May a warp's earlier plain loads still be performed after an instruction: no order to wider agents and no change of the warp's tiles is in it (R93, R102, R128)? -/
def mayPass (x : Word64) : Instr → Bool
  | .ld f | .st f => f.ord == 0
  | _ => match classOf x with
    | .alu | .xu => true
    | _ => false

/-- The loads of a warp that are in flight are performed. -/
def State.fixLoads (s : State) (c k : Nat) : State :=
  match s.warp c k with
  | some w => if w.late.isEmpty then s else s.setWarp c k { w with late := [] }
  | none => s

/-- Issue the instruction at a warp's place in its clause (R323, R329). -/
def State.turnInstr (s : State) (c k : Nat) : Turned :=
  match s.warp c k with
  | none => .idle s
  | some w => match s.fetchWord c (s.fetchAgt c k w) w.pc.toNat with
    | .word x t => match decodeWarp x, w.clause with
      | .ok i, some (_, h) =>
        if clausePlace h w.pos i then .issue i { (if mayPass x i then t else t.fixLoads c k) with cur := .warp c k }
        else .idle (t.takeTrap c k { cause := .illegal, lane := lowLane w.active })
      | _, _ => .idle (t.takeTrap c k { cause := .illegal, lane := lowLane w.active })
    | f => .idle (s.fetchFailed c k w f)

/-- What the other words of a clause meet that the warp waits for at the clause: pages that miss, and replayable faults (R37). -/
def State.clauseHeld (s : State) (c k : Nat) (w : Warp) (h : Word64) : Option State :=
  match s.check (s.fetchAgt c k w) .fetch 1 (w.pc + 8) (8 * clauseCount h) with
  | .miss l => some (s.holdWarp c k (s.fetchAgt c k w) .fetch l)
  | .held fs => some (s.holdFaults c k (s.fetchAgt c k w) fs)
  | _ => none

/-- A warp's turn: a home warp with too many entries spills (R192), one whose lanes all exited in a regroup performs the effect of JOIN (R191); else it begins the clause at its PC once the header's waits are met, then issues one instruction (R219, R323). -/
def State.turnWarp (s : State) (c k : Nat) : Turned :=
  match s.warp c k with
  | none => .idle s
  | some w0 =>
    if !s.runnable c k w0 then .idle s
    else
      let w := { w0 with st := if w0.st = .waiting then .ready else w0.st, wait := none }
      let s0 := s.setWarp c k w
      if residentMax < w.stack.length && !w.isRegrouped && w.st != .trap then .idle (s0.finish c k (s0.spillFirst c k w))
      else if w.active = 0 then .idle (s0.finish c k (s0.joinAt c k w (lowLane w.live) w.pc))
      else match w.clause with
      | some _ => s0.turnInstr c k
      | none =>
        if w.pc.toNat % 8 ≠ 0 then .idle (s0.takeTrap c k { illegalAt w.pc with lane := lowLane w.active })
        else match s0.fetchWord c (s0.fetchAgt c k w) w.pc.toNat with
          | .word h t =>
            if !headerOk h then .idle (t.takeTrap c k { illegalAt w.pc with lane := lowLane w.active })
            else if !waitsMet w h then .idle (t.setWarp c k (w.sleep .retry))
            else match t.clauseHeld c k w h with
              | none => (t.setWarp c k { w with clause := some (w.pc, h), pos := 0, pc := w.pc + 8 }).turnInstr c k
              | some u => .idle u
          | f => .idle (s0.fetchFailed c k w f)

/-! The end of a wait (R183). -/

/-- The word at an address as the selection sees it. -/
def State.peekWord (s : State) (c k : Nat) (w : Warp) (pc : Word64) : Option Word64 :=
  match s.fetchWord c (s.fetchAgt c k w) pc.toNat with
  | .word x _ => some x
  | _ => none

/-- Does a READY warp stand at a clause whose header waits for its scoreboards (R183, R323)? -/
def State.atHeader (s : State) (c k : Nat) (w : Warp) : Bool :=
  w.clause.isNone && (match s.peekWord c k w w.pc with
    | some h => headerOk h && !waitsMet w h
    | none => false)

/-- The warps that look in this cycle whether their wait is over, and those whose wait at a clause header begins. -/
def State.polls (s : State) : List Turn :=
  s.warps.flatMap fun e =>
    let c := e.1 / 48
    let k := e.1 % 48
    if e.1 < 192 * 48 && s.blockRuns e.2 && (s.mayTry c k e.2 || (e.2.isReady && s.atHeader c k e.2)) then [.poll c k] else []

/-- What a warp's look comes to: while the instruction waits as before it stands as tried; else the warp is READY with a new age, and issues it when it is selected (R183, R219). -/
def State.polled (s : State) (c k : Nat) (o : Host.Outcome State Fault Refusal) : Host.Outcome State Fault Refusal :=
  let woken := match s.warp c k with
    | some w => s.setWarp c k (w.wake s.clock)
    | none => s
  match o with
  | .next t => match (t.warp c k).bind fun w => w.wait with
    | some .retry | some (.xlate _) => .next t
    | _ => .next woken
  | _ => .next woken

end Sys2Proof.Machine
end

