-- ==== Sys2Proof/Machine/SeqOps.lean ====
section
/-! DEFINITION. The shared operations of the sequencer: its registers with results still to come (R202, R372, R373), operand codes and handles (R69-R73, R314), ports (R375), tiles as lists of elements, landing of results (R373, R409), and what a slot's operation comes to (R271, R274, R311). -/
namespace Sys2Proof.Machine
open Sys2Proof

/-! A tile's 1,024 elements as a list. -/

/-- The n elements of a sparse tile from element i on, unlisted ones at zero. -/
def expandFrom : Nat → Nat → Assoc Elem → List Elem
  | 0, _, _ => []
  | n + 1, i, [] => {} :: expandFrom n (i + 1) []
  | n + 1, i, (k, v) :: t => if k = i then v :: expandFrom n (i + 1) t else {} :: expandFrom n (i + 1) ((k, v) :: t)

/-- Every element of a tile. -/
def expand (m : Assoc Elem) : List Elem := expandFrom 1024 0 m

/-- Elements written over a list from element i on. -/
def overlayFrom : Nat → Assoc Elem → List Elem → List Elem
  | _, _, [] => []
  | i, [], x :: xs => x :: overlayFrom (i + 1) [] xs
  | i, (k, v) :: t, x :: xs => if k = i then v :: overlayFrom (i + 1) t xs else x :: overlayFrom (i + 1) ((k, v) :: t) xs

/-- The list as a sparse tile again. -/
def compressFrom : Nat → List Elem → Assoc Elem
  | _, [] => []
  | i, x :: xs => if x = {} then compressFrom (i + 1) xs else (i, x) :: compressFrom (i + 1) xs

/-- Write elements into a sparse tile. -/
def overlayTile (new old : Assoc Elem) : Assoc Elem := compressFrom 0 (overlayFrom 0 new (expand old))

/-- Number the elements of a list. -/
def numberFrom {α : Type} : Nat → List α → Assoc α
  | _, [] => []
  | i, x :: xs => (i, x) :: numberFrom (i + 1) xs

/-! What a slot's operation comes to. -/

/-- Why a slot's operation stops its bundle. -/
inductive SErr where
  /-- A sequencer fault with its cause and faulting byte (R271). -/
  | fault (c : Cause) (addr : Nat)
  /-- Poison consumed, from a sector (R274). -/
  | halt (sector : Nat)
  deriving DecidableEq, Repr

/-- A q register; q7 is constant true (R311). A write still to come leaves the old or the new value (R202). -/
def State.qReg (s : State) (q : Seq) (n : Nat) : Bool :=
  if n = 7 then true
  else
    let old := q.qs.getD n false
    let new := q.pend.foldl (fun r p => p.writes.foldl (fun r w => match w with
      | .q n' b => if n' = n then some b else r
      | _ => r) r) none
    match new with
    | some b => if Config.freeNew s.free (3000000 + n) then b else old
    | none => old

/-- Does a slot's guard hold (R311)? -/
def State.qGuard (s : State) (q : Seq) (g : BitVec 4) : Bool := s.qReg q (g.extractLsb' 0 3).toNat != g.getLsbD 3

/-- Carry out what a slot's operation comes to. -/
def State.finishSlot (s : State) (c : Nat) (sl : Slot) (pc : Word64) : Except SErr State → State
  | .ok t => t.draw
  | .error (.fault x a) => (s.seqFault c x (Slot.code sl) a).draw
  | .error (.halt x) => (s.seqHalt c (Slot.code sl) pc x).draw

/-- The sequencer as a slot of the bundle being issued reads it: without what the bundle's own slots leave (R372). -/
def Seq.before (q : Seq) : Seq := { q with pend := q.pend.filter fun p => p.bundle != q.bundles }

/-- Execute an instruction for the acting slot: nothing where its guard is false (R311). -/
def asSlot (s : State) (g : BitVec 4) (f : Nat → Slot → Seq → Except SErr State) : Host.Outcome State Fault Refusal :=
  match s.cur with
  | .slot c sl => match s.seq c with
    | some q => if s.qGuard q.before g then .next (s.finishSlot c sl q.pc (f c sl q.before)) else .next s
    | none => .fault .noAgent
  | _ => .fault .noAgent

/-- An ILLEGAL condition of a slot. -/
def sIllegal : Except SErr State := .error (.fault .illegal 0)

/-! Registers. -/

/-- A free 64-bit value for one use at this draw (log entry 1). -/
def State.freeFor (s : State) (k : Nat) : Word64 := Config.freeWord (s.free * 65536 + k)

/-- Mix two words byte by byte by free choice (R382). -/
def State.mixBytes (s : State) (key : Nat) (a b : Word64) : Word64 :=
  (List.range 8).foldl (fun (r : Word64) i =>
    let x := if Config.freeNew s.free (key + i) then b else a
    r ||| ((x.extractLsb' (8 * i) 8).setWidth 64 <<< (8 * i))) 0

/-- What the newest effect still to come brings to an x register: a value, or bytes of SHARED at an offset. -/
inductive NewX where
  | value (v : Word64)
  | shared (off n : Nat)
  deriving DecidableEq, Repr

/-- The newest write still to come to an x register. -/
def Seq.pendX (q : Seq) (n : Nat) : Option NewX :=
  q.pend.foldl (fun r p => p.writes.foldl (fun r w => match w with
    | .x n' v => if n' = n then some (.value v) else r
    | .xread n' sz off _ _ => if n' = n then some (.shared off (min sz 8)) else if sz = 16 ∧ n' + 1 = n then some (.shared (off + 8) 8) else r
    | _ => r) r) none

/-- The core of a sequencer. -/
def State.seqCore (s : State) (q : Seq) : Nat := ((s.block q.block).map fun (b : Block) => b.core).getD 0

/-- The value an effect still to come brings; a read of SHARED brings what its bytes hold now (log entry 1). -/
def State.newX (s : State) (q : Seq) : NewX → Word64
  | .value v => v
  | .shared off n => BitVec.ofNat 64 (leNat ((List.range n).map fun i => byteOf (s.core (s.seqCore q)).shared (off + i)))

/-- An XLDG that has not been performed writes the register. -/
def Seq.loadingX (q : Seq) (n : Nat) : Bool :=
  q.c0.any fun e => match e.work with
    | .xload r sz _ _ _ _ _ => r == n || (sz == 16 && r + 1 == n)
    | _ => false

/-- An x register as a bundle reads it (R202, R372, R382). -/
def State.xReg (s : State) (q : Seq) (n : Nat) : Word64 :=
  let old := q.xs.getD n 0
  let v := match q.pendX n with
    | some x => if Config.freeNew s.free (2000000 + n) then s.newX q x else old
    | none => old
  if q.loadingX n then s.mixBytes (2100000 + 8 * n) v (s.freeFor (1000 + n)) else v

/-- A loop counter. -/
def Seq.lReg (q : Seq) (n : Nat) : Word32 := q.ls.getD n 0

/-- An x or l register by its code (R314, R378). -/
def State.xlReg (s : State) (q : Seq) (code : BitVec 8) : Word64 :=
  if code.toNat < 64 then s.xReg q code.toNat else (q.lReg (code.toNat - 0x58)).setWidth 64

/-- An m register; each bit of a write still to come is old or new (R202). -/
def State.mReg (s : State) (q : Seq) (n : Nat) : BitVec 1024 :=
  let old := q.ms.getD n 0
  let new := q.pend.foldl (fun r p => p.writes.foldl (fun r w => match w with
    | .m n' mask b => if n' = n then some ((r.getD old &&& ~~~ mask) ||| (b &&& mask)) else r
    | _ => r) r) none
  match new with
  | some b => (List.range 1024).foldl (fun (m : BitVec 1024) i =>
      if Config.freeNew s.free (4000000 + 1024 * n + i) then (m &&& ~~~ (1#1024 <<< i)) ||| (if b.getLsbD i then 1#1024 <<< i else 0) else m) old
  | none => old

/-! Results still to come. -/

/-- Leave effects to be seen from a cycle on (R373). -/
def State.later (s : State) (c : Nat) (slot lat : Nat) (ws : List SeqWrite) : State :=
  match s.seq c with
  | none => s
  | some q =>
    let (id, s1) := s.newId
    s1.setSeq c { q with pend := q.pend ++ [⟨id, q.bundles, q.pc, s.clock + lat, slot, ws⟩] }

/-- A result of an x or l register, seen from the next bundle on (R373, R378). -/
def xlWrite (code : BitVec 8) (v : Word64) : List SeqWrite :=
  if code.toNat < 64 then [.x code.toNat v] else [.l (code.toNat - 0x58) (v.extractLsb' 0 32)]

/-- A result of a q register; a write to q7 is discarded (R344). -/
def qWrite (n : Nat) (b : Bool) : List SeqWrite := if n = 7 then [] else [.q n b]

/-! Handles. -/

/-- Filled slots (R69). -/
def Handle.filled (h : Handle) : Nat := (h.fp + 2 * h.n - h.dp) % (2 * h.n)
/-- Free slots (R69). -/
def Handle.free (h : Handle) : Nat := h.n - h.filled
/-- The tile of the slot at a position (R69). -/
def Handle.tileAt (h : Handle) (pos : Nat) : Nat := h.base + pos % h.n
/-- The tiles of a ring. -/
def Handle.tiles (h : Handle) : List Nat := (List.range h.n).map (h.base + ·)

/-- A handle that an HSET has set; naming an unset one is HANDLE-SET (R70). -/
def Seq.handle (q : Seq) (n : Nat) : Except SErr Handle :=
  match q.handles.find n with
  | some h => .ok h
  | none => .error (.fault .handleSet 0)

/-- May the sequencer name the tile: owned by it, and not being given (R51, R389)? -/
def State.seqOwns (s : State) (c ctx t : Nat) : Bool :=
  let x := s.tile c t
  x.st == .owned && x.ctx == ctx && x.hold == 48 && x.giving.isNone

/-- The context of a sequencer's block. -/
def State.seqCtx (s : State) (q : Seq) : Nat := ((s.block q.block).map (·.ctx)).getD 0

/-- TILE-OWNER unless the sequencer owns the tile (R51). -/
def State.needOwn (s : State) (c : Nat) (q : Seq) (t : Nat) : Except SErr Nat :=
  if s.seqOwns c (s.seqCtx q) t then .ok t else .error (.fault .tileOwner 0)

/-- The tile a source operand names, at a depth (R71). -/
def State.srcTile (s : State) (c : Nat) (q : Seq) (code : BitVec 8) (d : Nat) : Except SErr Nat :=
  if code.toNat < 0x80 then s.needOwn c q code.toNat
  else match q.handle (code.toNat - 0x80) with
    | .error e => .error e
    | .ok h => if d < h.filled then s.needOwn c q (h.tileAt (h.dp + d)) else .error (.fault .handleUnderrun 0)

/-- The tile a destination operand names, at a depth (R71). -/
def State.dstTile (s : State) (c : Nat) (q : Seq) (code : BitVec 8) (d : Nat) : Except SErr Nat :=
  if code.toNat < 0x80 then s.needOwn c q code.toNat
  else match q.handle (code.toNat - 0x80) with
    | .error e => .error e
    | .ok h => if d < h.free then s.needOwn c q (h.tileAt (h.fp + d)) else .error (.fault .handleOverrun 0)

/-! Ports (R375). -/

/-- Reads and writes reserved of a bank in a cycle. -/
def Seq.portUse (q : Seq) (cycle bank : Nat) : Nat × Nat :=
  q.ports.foldl (fun (r : Nat × Nat) p => if p.1 = cycle ∧ p.2.1 = bank then (r.1 + p.2.2.1, r.2 + p.2.2.2) else r) (0, 0)

/-- Reserve ports: the distinct source tiles' banks in a cycle, the destination's bank in the cycle it is written; ILLEGAL where they are not free (R375). -/
def State.reserve (s : State) (c : Nat) (reads : List (Nat × Nat)) (writes : List (Nat × Nat)) : Except SErr State :=
  match s.seq c with
  | none => .ok s
  | some q =>
    let add := reads.map (fun (r : Nat × Nat) => (r.1, r.2 / 8, 1, 0)) ++ writes.map (fun (r : Nat × Nat) => (r.1, r.2 / 8, 0, 1))
    let q1 := { q with ports := (q.ports.filter fun p => decide (s.clock ≤ p.1)) ++ add }
    if add.all fun p => decide ((q1.portUse p.1 p.2.1).1 ≤ 2) && decide ((q1.portUse p.1 p.2.1).2 ≤ 1)
    then .ok (s.setSeq c q1) else .error (.fault .illegal 0)

/-- Reads of the distinct tiles of a list in a cycle. -/
def readsAt (cycle : Nat) (tiles : List Nat) : List (Nat × Nat) := (tiles.eraseDups).map fun t => (cycle, t)

/-! Tile elements. -/

/-- Does a result still to come write the tile? -/
def SeqPend.hits (p : SeqPend) (t : Nat) : Bool :=
  p.writes.any fun w => match w with
    | .elems t' _ => t' == t
    | .tread t' _ _ => t' == t
    | _ => false

/-! Rows of a tile in memory (R67). -/

/-- Rows of a tile transfer and their length in bytes, by transposition (R67). -/
def tileRowsOf (xp : Nat) : Nat × Nat := if xp = 1 then (256, 16) else if xp = 2 then (128, 32) else (16, 256)

/-- The elements of a tile from the bytes of its rows, row after row, with each byte's poison (R67). -/
def tileFromBytes (xp : Nat) (bytes : List (Byte × Option Nat)) : Assoc Elem :=
  let arr := bytes.toArray
  let at_ := fun (i : Nat) => arr.getD i (0, none)
  let elem := fun (bs : List (Byte × Option Nat)) =>
    ({ bits := BitVec.ofNat 32 (leNat (bs.map Prod.fst)), poison := bs.findSome? Prod.snd } : Elem)
  let es := (List.range 1024).map fun i =>
    let r := i / 64
    let c := i % 64
    if xp = 1 then
      -- view element (r, x) := memory element (x, r), x = 4c + j, rows of 16 bytes
      elem ((List.range 4).map fun j => at_ ((4 * c + j) * 16 + r))
    else if xp = 2 then
      -- view element (r, x) := memory element (x, r), x = 2c + j, rows of 16 two-byte elements
      elem ((List.range 2).flatMap fun j => [at_ ((2 * c + j) * 32 + 2 * r), at_ ((2 * c + j) * 32 + 2 * r + 1)])
    else elem ((List.range 4).map fun j => at_ (r * 256 + 4 * c + j))
  compressFrom 0 es

/-- Bytes of SHARED of a core with each byte's poison. -/
def State.sharedBytes (s : State) (c off n : Nat) : List (Byte × Option Nat) :=
  (List.range n).map fun i => (byteOf (s.core c).shared (off + i), (s.core c).shPoison.find ((off + i) / 64))

/-- The elements a result writes into a tile; a TSLD still to be performed brings what its rows of SHARED hold now (log entry 1). -/
def State.elemsOf (s : State) (c : Nat) (p : SeqPend) (t : Nat) : Assoc Elem :=
  p.writes.foldl (fun r w => match w with
    | .elems t' es => if t' = t then es else r
    | .tread t' xp rs => if t' = t then tileFromBytes xp (rs.flatMap fun o => s.sharedBytes c o (tileRowsOf xp).2) else r
    | _ => r) []

/-- A tile as a slot reads it: a result that has not landed leaves the old or the new value of each element (R202, R372), as does the accumulator of a running MLOOP (R402). -/
def State.seqTile (s : State) (c : Nat) (q : Seq) (t : Nat) : List Elem :=
  let some_ := fun (new : Assoc Elem) (r : List Elem) =>
    r.zipIdx.map fun e => if Config.freeNew s.free (t * 1024 + e.2) then (new.find e.2).getD {} else e.1
  let part := fun (new : Assoc Elem) (r : List Elem) => overlayFrom 0 (new.filter fun e => Config.freeNew s.free (t * 1024 + e.1)) r
  let now := expand (s.tile c t).elems
  let old := match q.mloop with
    | some l => if l.accTile = t then some_ l.final now else now
    | none => now
  q.pend.foldl (fun (r : List Elem) p =>
    if !p.hits t then r
    else if p.writes.any fun w => match w with | .tread t' _ _ => t' == t | _ => false then some_ (s.elemsOf c p t) r
    else part (s.elemsOf c p t) r) old

/-- The last result of the matrix engine still to come (R374). -/
def Seq.lastM (q : Seq) : Option SeqPend :=
  q.pend.foldl (fun r p => if p.slot = 4 then some p else r) none

/-- A tile as the matrix engine reads it: the previous operation's result by the accumulator chain (R374). -/
def State.mTile (s : State) (c : Nat) (q : Seq) (t : Nat) : List Elem :=
  match q.lastM with
  | some p => if p.hits t then overlayFrom 0 (s.elemsOf c p t) (s.seqTile c { q with pend := q.pend.filter fun x => x.slot != 4 } t) else s.seqTile c q t
  | none => s.seqTile c q t

/-- The first poison among elements. -/
def poisonIn (es : List Elem) : Option Nat := es.findSome? (·.poison)

/-- No poison among elements (R166, R274). -/
def noPoison (es : List Elem) : Except SErr Unit :=
  match poisonIn es with
  | some x => .error (.halt x)
  | none => .ok ()

/-- The bytes of a tile's 16 rows with each byte's poison. -/
def tileToBytes (m : Assoc Elem) : List (Byte × Option Nat) :=
  (expand m).flatMap fun e => (leBytes 4 e.bits.toNat).map fun b => (b, e.poison)

/-- Bytes of a die's L2 scratch with each byte's poison. -/
def State.scrWithPoison (s : State) (g : Agt) (d o n : Nat) : List (Byte × Option Nat) :=
  let a := d * 2 ^ 26 + o
  (List.range n).map fun i => (byteOf s.scratch (a + i), if s.cutDie g.die d then some 0 else s.scrPoison.find ((a + i) / 64))

/-- Bytes of a store location with each byte's poison, read sector by sector (R153, R165). -/
def State.bytesWithPoison (s : State) (g : Agt) (plain : Bool) (st : Store) (n : Nat) : List (Byte × Option Nat) :=
  match st with
  | .shared c o => (List.range n).map fun i => (byteOf (s.core c).shared (o + i), if s.cutDie g.die (dieOf c) then some 0 else (s.core c).shPoison.find ((o + i) / 64))
  | .scratch d o => s.scrWithPoison g d o n
  | .edge o m o1 => s.scrWithPoison g 0 o m ++ s.scrWithPoison g 1 o1 (n - m)
  | .mem ps => ps.flatMap fun p =>
      let pa := s.migTarget p.pa
      let thro := plain && s.fillable p
      (List.range p.len).map fun i => (s.underKey (pteKey p.pte) (pa + i) (s.readByte g thro (pa + i)), s.poisonFor g thro (pteKey p.pte) (pa + i) 1)

/-- A part of a store location. -/
def Store.part (st : Store) (off len : Nat) : Store :=
  match st with
  | .shared c o => .shared c (o + off)
  | .scratch d o => .scratch d (o + off)
  | .edge o m o1 => if off + len ≤ m then .scratch 0 (o + off) else if m ≤ off then .scratch 1 (o1 + (off - m)) else .edge (o + off) (m - off) o1
  | .mem ps => .mem ((ps.foldl (fun (r : Nat × List Piece) p =>
      -- bytes [off, off + len) of the whole meet piece p at [r.1, r.1 + p.len)
      let lo := max off r.1
      let hi := min (off + len) (r.1 + p.len)
      (r.1 + p.len, if lo < hi then r.2 ++ [⟨p.pa + (lo - r.1), hi - lo, p.pte⟩] else r.2)) (0, [])).2)

/-- Runs of bytes with one poison: offset, bytes, poison. -/
def poisonRuns : Nat → List (Byte × Option Nat) → List (Nat × List Byte × Option Nat)
  | _, [] => []
  | off, (b, p) :: t =>
    match poisonRuns (off + 1) t with
    | (o, bs, p') :: rest => if p = p' then (off, b :: bs, p) :: rest else (off, [b], p) :: (o, bs, p') :: rest
    | [] => [(off, [b], p)]

/-- Write bytes with their poison (R66, R165): all bytes first, then the marks. -/
def State.writeWithPoison (s : State) (g : Agt) (st : Store) (bytes : List (Byte × Option Nat)) : State :=
  let s1 := s.storeBytes g st (bytes.map Prod.fst)
  if s.unwritten g st then s1
  else (poisonRuns 0 bytes).foldl (fun (s : State) r => match r.2.2 with
    | some x => s.poisonBytes (st.part r.1 r.2.1.length) r.2.1.length x
    | none => s) s1

/-! Landing of results. -/

/-- The pending-write count an SGIVE captures: results still to be written into the tile (R50, R389). -/
def Seq.pendingInto (q : Seq) (t : Nat) : Nat :=
  (q.pend.filter (·.hits t)).length + (match q.mloop with
    | some l => if l.accTile = t then 1 else 0
    | none => 0)

/-- One landing write counts down the tile's captured count (R50). -/
def Tile.landed (x : Tile) (clock : Nat) : Tile := if 0 < x.pend then { x with pend := x.pend - 1, readyAt := clock + 1 } else x

/-- Record an element's events in the sequencer's log: the earliest bundle, then slot, element and code (R308). -/
def Seq.note (q : Seq) (pc : Word64) (bundle slot elem : Nat) (ev : BitVec 32) : Seq :=
  if ev = 0 then q
  else
    let key := [bundle, slot, elem, lowEvent ev]
    let first := q.fel.sum == 0 || decide (key < q.felKey)
    if first then { q with fel := { code := lowEvent ev, pc := pc, elem := elem, lane := 0, slot := slot, sum := q.fel.sum ||| ev }, felKey := key }
    else { q with fel := { q.fel with sum := q.fel.sum ||| ev } }

/-- Take HADVC's effect: the EOS bits of the slots passed are cleared (R73, R387). -/
def Handle.advC (h : Handle) (k : Nat) : Handle :=
  { h with
    dp := (h.dp + k) % (2 * h.n)
    eos := (List.range k).foldl (fun (e : BitVec 32) i => e &&& ~~~ (1#32 <<< ((h.dp + i) % h.n))) h.eos }

/-- Elements land in a tile of the sequencer. -/
def State.landElems (s : State) (c t : Nat) (es : Assoc Elem) : State :=
  let x := s.tile c t
  if x.st = .free then s else s.setTile c t (({ x with elems := overlayTile es x.elems } : Tile).landed s.clock)

/-- A running MLOOP keeps what the slots that DP passes hold: a later step may read it, or what a producer has put there since (R402). -/
def State.passed (s : State) (c : Nat) (q : Seq) (h : Handle) (k : Nat) : Seq :=
  match q.mloop with
  | some l => { q with mloop := some { l with released := l.released ++ (List.range k).map fun i => (h.tileAt (h.dp + i), (s.tile c (h.tileAt (h.dp + i))).elems) } }
  | none => q

/-- Land one effect (R373). -/
def State.landSeqWrite (s : State) (c : Nat) (p : SeqPend) (w : SeqWrite) : State :=
  match s.seq c with
  | none => s
  | some q =>
    match w with
    | .x n v => s.setSeq c { q with
        xs := q.xs.put n v
        c0 := q.c0.map fun e => match e.work with
          | .xload r sz st a acq sc _ => if e.bundle < p.bundle ∧ (r = n ∨ (sz = 16 ∧ r + 1 = n)) then { e with work := .xload r sz st a acq sc true } else e
          | _ => e }
    | .q n b => s.setSeq c { q with qs := q.qs.put n b }
    | .m n mask b => s.setSeq c { q with ms := q.ms.put n ((q.ms.getD n 0 &&& ~~~ mask) ||| (b &&& mask)) }
    | .l n v => s.setSeq c { q with ls := q.ls.put n v }
    | .elems t es => s.landElems c t es
    | .latch pipe entry v =>
      s.setSeq c (if pipe = 0 then { q with latch0 := q.latch0.put entry v } else { q with latch1 := q.latch1.put entry v })
    | .rm v => s.setSeq c { q with rm := v }
    | .seed v => s.setSeq c { q with seed := v }
    | .hset n h => s.setSeq c { q with handles := q.handles.put n h }
    | .hadvp n k => match q.handles.find n with
      | some h => s.setSeq c { q with handles := q.handles.put n { h with fp := (h.fp + k) % (2 * h.n) } }
      | none => s
    | .hadvc n k => match q.handles.find n with
      | some h => s.setSeq c { s.passed c q h k with handles := q.handles.put n (h.advC k) }
      | none => s
    | .give t hold =>
      let x := s.tile c t
      s.setTile c t { x with giving := some (hold, p.bundle), pend := q.pendingInto t }
    | .take t =>
      let x := s.tile c t
      s.setTile c t { x with st := .owned, hold := 48, pend := 0, giving := none }
    | .fill t => s.setTile c t { s.tile c t with st := .filling, hold := 49 }
    | .claim id n t =>
      let s1 := s.setTile c t { s.tile c t with st := .filling, hold := 49 }
      s1.setSeq c { q with claims := q.claims ++ [⟨id, n, t, false⟩] }
    | .shStore off bytes => s.writeWithPoison (s.seqAgt c q) (.shared c off) bytes
    | .xread n size off acq scope =>
      match s.loadBytes (s.seqAgt c q) false (.shared c off) size with
      | (_, some x) => s.seqHalt c 1 p.pc x
      | (bs, none) =>
        let q1 := { q with xs := q.xs.put n (BitVec.ofNat 64 (leNat (bs.take 8))) }
        let s1 := s.setSeq c (if size = 16 then { q1 with xs := q1.xs.put (n + 1) (BitVec.ofNat 64 (leNat (bs.drop 8))) } else q1)
        if acq then s1.acquireAt c (s.seqAgt c q).ctx scope else s1
    | .tread t xp rows =>
      let bytes := rows.flatMap fun o => s.bytesWithPoison (s.seqAgt c q) false (.shared c o) (tileRowsOf xp).2
      let x := s.tile c t
      if x.st = .free then s else s.setTile c t (({ x with elems := tileFromBytes xp bytes } : Tile).landed s.clock)
    | .note elem ev => s.setSeq c (q.note p.pc p.bundle p.slot elem ev)

/-- Land one result. -/
def State.landSeq (s : State) (c : Nat) (p : SeqPend) : State :=
  let s1 := match s.seq c with
    | some q => s.setSeq c { q with pend := q.pend.filter (·.id != p.id) }
    | none => s
  p.writes.foldl (fun (s : State) w => s.landSeqWrite c p w) s1

end Sys2Proof.Machine
end

