-- ==== Sys2Proof/Machine/Lanes.lean ====
section
/-! DEFINITION. How a warp instruction acts lane by lane: the checks that come before any lane acts, in their order, and the writing of one result per lane or one for the warp (R264, R265, R335-R339). -/
namespace Sys2Proof.Machine
open Sys2Proof

/-- What an instruction names: its guard, its sources, the v registers it writes, whether its destination is an s register. -/
structure Need where
  g : BitVec 4
  srcs : List Src := []
  dsts : List Nat := []
  sdst : Bool := false
  deriving DecidableEq, Repr

/-- A trap of the whole warp, reported at the lowest active lane (R265). -/
def wholeTrap (w : Warp) (c : Cause) : WRes := .trap { cause := c, lane := lowLane w.active }

/-- The checks before any lane acts (R311, R312, R336-R339, R53): the lanes that take part, or what the instruction comes to instead. Consumption of poison stands before the warp's own trap (R266); an s destination in a regrouped warp is ILLEGAL (R338). -/
def State.prep (s : State) (c k : Nat) (w : Warp) (n : Need) : Except WRes Word32 :=
  if n.g = 0xF then .error (.done s)
  else if n.sdst && w.isRegrouped then .error (wholeTrap w .illegal)
  else
    let lanes := s.taking c k w n.g
    let regs := n.srcs.flatMap Src.vregs ++ n.dsts
    match s.poisonOf c k w lanes n.srcs with
    | some x => .error (.halt x)
    | none => match s.checkV c k w regs with
      | some x => .error (wholeTrap w x)
      | none =>
        if n.sdst && !uniformGuard w.active lanes then .error (wholeTrap w .nonuniform)
        else match s.wakeBanks c (s.tilesFor c k w regs) with
          | some t => .error (.wait (t.setWarp c k (w.sleep .retry)))
          | none => .ok lanes

/-- The outcome either way. -/
def ofExcept : Except WRes WRes → WRes
  | .ok r => r
  | .error r => r

/-- One lane's result: its value, and events by position in the destination element. -/
structure LaneOut where
  v : Word64
  evs : List (Nat × BitVec 32) := []
  deriving DecidableEq, Repr

/-- Where results go: the destination, its width, TY, and the scoreboard of a result in flight (none for an interlocked one). -/
structure Dest where
  code : Nat
  isS : Bool
  wide : Bool
  ty : BitVec 5 := 1
  sbd : Option Nat := none
  deriving DecidableEq, Repr

/-- The v registers a destination names. -/
def Dest.vregs (d : Dest) : List Nat := if d.isS then [] else if d.wide then [d.code, d.code + 1] else [d.code]

/-- Write now, or leave in flight under a scoreboard (R322, R371). -/
def State.putWrites (s : State) (c k : Nat) (d : Dest) (ws : List RegWrite) : State :=
  match d.sbd with
  | some n => s.writeLater c k n ws
  | none => s.writeNow c k ws

/-- Compute in every lane that takes part and write the results: each lane's v register, or once for the warp an s register (R336). -/
def State.laneRun (s : State) (c k : Nat) (w : Warp) (g : BitVec 4) (srcs : List Src) (d : Dest) (f : Nat → LaneOut) : WRes :=
  match s.prep c k w { g := g, srcs := srcs, dsts := d.vregs, sdst := d.isS } with
  | .error r => r
  | .ok lanes =>
    if d.isS then
      match (lanesOf lanes).head? with
      | none => .done s
      | some l =>
        let o := f l
        let s1 := s.recordEvents c k w (o.evs.map fun e => ⟨l, e.1, e.2⟩)
        .done (s1.putWrites c k d [.sreg d.code (extendS d.ty d.wide o.v)])
    else
      let outs := (lanesOf lanes).map fun l => (l, f l)
      let s1 := s.recordEvents c k w (outs.flatMap fun o => o.2.evs.map fun e => ⟨o.1, vElemIndex d.code o.1 e.1, e.2⟩)
      .done (s1.putWrites c k d (outs.flatMap fun o => s.vWrites c k w o.1 d.code d.wide o.2.v none))

/-- Set a predicate from a test in every lane that takes part (R342, R345). -/
def State.predRun (s : State) (c k : Nat) (w : Warp) (g : BitVec 4) (srcs : List Src) (p : Nat) (f : Nat → Bool) : WRes :=
  match s.prep c k w { g := g, srcs := srcs } with
  | .error r => r
  | .ok lanes => .done (s.setPred c k w p lanes (maskOf fun l => laneBit lanes l && f l))

/-- The first n sources of an RR word at a width. -/
def RR.srcs (f : RR) (n : Nat) (wide : Bool) : List Src :=
  ([⟨f.sa.toNat, f.aS, wide⟩, ⟨f.sb.toNat, f.bS, wide⟩, ⟨f.sc.toNat, f.cS, wide⟩] : List Src).take n

/-- The value of an RR source in a lane. -/
def State.rrVal (s : State) (c k : Nat) (w : Warp) (f : RR) (wide : Bool) (l i : Nat) : Word64 :=
  match (RR.srcs f 3 wide)[i]? with
  | some x => (s.readSrc c k w l x).1
  | none => 0

end Sys2Proof.Machine
end

