-- ==== Sys2Proof/Machine/Regroup.lean ====
section
/-! DEFINITION. Regrouping (R193-R197): the arrival at BRX.G, the packing of the arrived lanes into regrouped warps, the end of a regrouped warp's part, and the release of a regroup that times out. -/
namespace Sys2Proof.Machine
open Sys2Proof

/-- BRX (R190): a branch of the whole warp, or a divergence with two entries pushed. -/
def State.branch (s : State) (c k : Nat) (w : Warp) (taking : Word32) (target : Word64) : WRes :=
  if taking = w.active then .jump (s.setWarp c k (w.goTo target s.clock))
  else if taking = 0 then .done s
  else match s.pushAll c k w [⟨0, w.active, .reconv⟩, ⟨w.pc + 8, w.active &&& ~~~ taking, .pending⟩] with
    | .error r => r
    | .ok (s1, w1) => .jump (s1.setWarp c k ({ w1 with active := taking }.goTo target s.clock))

/-- The instance count of a lane for a PC (R193). -/
def Warp.countOf (w : Warp) (pc : Word64) (l : Nat) : Nat :=
  ((w.counts.find? fun e => e.1 == pc && e.2.1 == l).map fun e => e.2.2).getD 0

/-- The count rises by one in lanes (R194). -/
def Warp.countUp (w : Warp) (pc : Word64) (lanes : Word32) : Warp :=
  let rest := w.counts.filter fun e => !(e.1 == pc && laneBit lanes e.2.1)
  { w with counts := rest ++ (lanesOf lanes).map fun l => (pc, l, w.countOf pc l + 1) }

/-- The largest instance count (R193). -/
def countMax : Nat := 0xFFFFFFFF

/-- The arrival of a warp at its BRX.G: the lanes of the lowest count wait, the others are pushed at the BRX.G's own PC (R194). -/
def State.arrive (s : State) (c k : Nat) (w : Warp) (taking : Word32) (low : Nat) (target : Word64) : WRes :=
  let lanes := maskOf fun l => laneBit w.active l && w.countOf w.pc l == low
  let higher := w.active &&& ~~~ lanes
  let pushed := if higher = 0 then .ok (s, w) else s.push c k (w.addMid w.pc w.clause) ⟨w.pc, higher, .pending⟩
  match pushed with
  | .error r => r
  | .ok (s1, w1) =>
    let s2 := s1.setWarp c k ({ w1 with active := lanes }.sleep (.regroup w.pc low lanes (taking &&& lanes) target))
    match s2.block w.block with
    | none => .wait s2
    | some b =>
      let timers := if b.regroupTimers.any fun t => t.1 == w.pc && t.2.1 == low then b.regroupTimers else b.regroupTimers ++ [(w.pc, low, s.clock)]
      let pcs := if b.regroupPcs.contains w.pc then b.regroupPcs else b.regroupPcs ++ [w.pc]
      .wait (s2.setBlock w.block { b with regroupPcs := pcs, regroupTimers := timers })

/-- BRX.G of a warp (R193, R194, R196): a BRX in a regrouped warp, at a ninth PC, and at the largest count. -/
def State.brxG (s : State) (c k : Nat) (w : Warp) (taking : Word32) (target : Word64) : WRes :=
  let low := (lanesOf w.active).foldl (fun m l => min m (w.countOf w.pc l)) countMax
  let pcs := match s.block w.block with
    | some b => b.regroupPcs
    | none => []
  if w.isRegrouped || low == countMax then s.branch c k w taking target
  else if !pcs.contains w.pc && decide (8 ≤ pcs.length) then
    let s1 := s.recordOne c k w 0x11 (lowLane w.active)
    match s1.warp c k with
    | some v => s1.branch c k v taking target
    | none => .done s1
  else s.arrive c k w taking low target

/-! Packing (R195). -/

/-- The home slots by lane of regrouped warp i of a group: at each lane the i-th home slot in ascending order. -/
def packHomes (members : List (Nat × Nat)) (i : Nat) : List Nat :=
  (List.range 32).map fun l => ((sortBy (fun (a b : Nat) => decide (a ≤ b)) ((members.filter fun m => m.2 == l).map Prod.fst))[i]?).getD 48

/-- The number of regrouped warps of a group. -/
def packCount (members : List (Nat × Nat)) : Nat :=
  (List.range 32).foldl (fun n l => max n (members.filter fun m => m.2 == l).length) 0

/-- The regrouped warps of a group take their slots (R195, R196). -/
def State.runGroup (s : State) (bid c : Nat) (slots : List Nat) (members : List (Nat × Nat)) (pc : Word64) : State × List Nat :=
  (List.range (packCount members)).foldl (fun (r : State × List Nat) i =>
    let hs := packHomes members i
    let m := maskOf fun l => hs.getD l 48 != 48
    match slots[i]? with
    | some k => (r.1.setWarp c k { block := bid, idx := 0, pc := pc, active := m, exited := ~~~ m, tmap := [], isRegrouped := true, homes := hs, readyAge := s.clock }, r.2 ++ [k])
    | none => r) (s, [])

/-- Every home warp of a regroup resumes after the JOINs at which its lanes ended (R195). -/
def State.endRegroup (s : State) (bid c : Nat) (g : Regroup) : State :=
  let s1 := match s.block bid with
    | some b => s.setBlock bid { b with regroups := b.regroups.filter fun x => x != g }
    | none => s
  g.arrived.foldl (fun (s : State) h =>
    match s.warps.find (homeKey c h.1) with
    | none => s
    | some hw =>
      let gs := g.ended.foldl (fun gs e => if e.1 = h.1 then addGroup gs e.2.2 (1#32 <<< e.2.1) else gs) ([] : List (Word64 × Word32))
      s.putHome c h.1 (resumeAt hw s.clock gs)) s1

/-- Replace a regroup of a block. -/
def State.setRegroup (s : State) (bid : Nat) (old new : Regroup) : State :=
  match s.block bid with
  | some b => s.setBlock bid { b with regroups := b.regroups.map fun x => if x = old then new else x }
  | none => s

/-- Begin a regroup for the warps waiting under one key (R194, R195): the counts rise, the home warps are set aside, the taking group runs first. -/
def State.startRegroup (s : State) (bid : Nat) (pc : Word64) (waiting : List (Nat × Word32 × Word32)) (target : Word64) : State :=
  match s.block bid with
  | none => s
  | some b =>
    let c := b.core
    let s1 := waiting.foldl (fun (s : State) x =>
      match s.warp c x.1 with
      | some w => { s with warps := (s.warps.del (slotKey c x.1)).put (homeKey c x.1) (w.countUp pc x.2.1) }
      | none => s) s
    let members := fun (f : Word32 × Word32 → Word32) => waiting.flatMap fun x => (lanesOf (f x.2)).map fun l => (x.1, l)
    let taking := members Prod.snd
    let falling := members fun p => p.1 &&& ~~~ p.2
    let slots := waiting.map Prod.fst
    let first := !taking.isEmpty
    let (s2, run) := s1.runGroup bid c slots (if first then taking else falling) (if first then target else pc + 8)
    let g : Regroup := { pc := pc, target := target, fallPc := pc + 8, arrived := waiting.map fun x => (x.1, x.2.1), takingRun := first, falling := if first then falling else [], running := run, ended := [] }
    s2.setBlock bid { b with regroups := b.regroups ++ [g] }

/-! The end of a regrouped warp's part (R195). -/

/-- The regroup a slot runs for. -/
def Block.regroupOf (b : Block) (k : Nat) : Option Regroup := b.regroups.find? fun g => g.running.contains k

/-- Lanes of a regrouped warp end at an address: their home slots, lanes and the address. -/
def Warp.ends (w : Warp) (m : Word32) (pc : Word64) : List (Nat × Nat × Word64) := (lanesOf m).map fun l => (w.homes.getD l 48, l, pc)

/-- Note lanes that ended their part. -/
def State.noteEnded (s : State) (bid k : Nat) (ends : List (Nat × Nat × Word64)) : State :=
  match (s.block bid).bind (·.regroupOf k) with
  | some g => s.setRegroup bid g { g with ended := g.ended ++ ends }
  | none => s

/-- A regrouped warp ends its part; after the last of its group the other group runs, then the home warps resume (R195). -/
def State.endPart (s : State) (c k : Nat) (w : Warp) : State :=
  match (s.block w.block).bind (·.regroupOf k) with
  | none => s
  | some g =>
    let s1 := { s.landAll c k with warps := (s.landAll c k).warps.del (slotKey c k) }
    let g1 := { g with running := g.running.filter (· != k) }
    if !g1.running.isEmpty then s1.setRegroup w.block g g1
    else if !g1.falling.isEmpty then
      let (s2, run) := s1.runGroup w.block c (g1.arrived.map Prod.fst) g1.falling g1.fallPc
      s2.setRegroup w.block g { g1 with takingRun := false, falling := [], running := run }
    else (s1.setRegroup w.block g g1).endRegroup w.block c g1

/-- Exit a lane of its home warp (R363). -/
def Warp.exitLanes (w : Warp) (m : Word32) : Warp :=
  { w with active := w.active &&& ~~~ m, exited := w.exited ||| m, stack := w.stack.map fun e => { e with mask := e.mask &&& ~~~ m } }

/-! Completion and timeout (R194). -/

/-- Does a warp's wait let a regroup of its block complete? -/
def regroupable (w : Warp) : Bool :=
  match w.st, w.wait with
  | .exited, _ | .halted, _ => true
  | _, some (.regroup _ _ _ _ _) | _, some (.barrier _ _ _) => true
  | _, _ => false

/-- Can the regroups of a block complete? -/
def State.regroupReady (s : State) (b : Block) : Bool :=
  b.st == .resident && b.regroups.isEmpty &&
  b.slots.all (fun k => match s.warp b.core k with | some w => regroupable w | none => true) &&
  b.slots.any fun k => match s.warp b.core k with
    | some w => (match w.wait with | some (.regroup _ _ _ _ _) => true | _ => false)
    | none => false

/-- A warp waiting at a BRX.G. -/
structure Arrived where
  slot : Nat
  pc : Word64
  count : Nat
  lanes : Word32
  taking : Word32
  target : Word64
  deriving DecidableEq, Repr

/-- The warps of a block waiting at a BRX.G, in slot order. -/
def State.regroupWaiters (s : State) (b : Block) : List Arrived :=
  (sortBy (fun (a b : Nat) => decide (a ≤ b)) b.slots).filterMap fun k => match s.warp b.core k with
    | some w => (match w.wait with | some (.regroup p n l t g) => some ⟨k, p, n, l, t, g⟩ | _ => none)
    | none => none

/-- The keys of waiting warps, each once (R193). -/
def regroupKeys (ws : List Arrived) : List (Word64 × Nat) := (ws.map fun x => (x.pc, x.count)).eraseDups

/-- Every key's regroup begins (R194). -/
def State.regroupAll (s : State) (bid : Nat) : State :=
  match s.block bid with
  | none => s
  | some b =>
    if !s.regroupReady b then s
    else
      let ws := s.regroupWaiters b
      let s1 := s.setBlock bid { b with regroupTimers := [] }
      (regroupKeys ws).foldl (fun (s : State) key =>
        let mine := ws.filter fun x => x.pc == key.1 && x.count == key.2
        s.startRegroup bid key.1 (mine.map fun x => (x.slot, x.lanes, x.taking)) ((mine.head?.map (·.target)).getD 0)) s1

/-- A waiting warp executes its BRX.G as a BRX (R194). -/
def State.releaseOne (s : State) (c : Nat) (x : Arrived) : State :=
  match s.warp c x.slot with
  | none => s
  | some w =>
    let s1 := s.setWarp c x.slot (w.wake s.clock)
    let s2 := match s1.warp c x.slot with
      | some v => s1.recordOne c x.slot v 0x12 (lowLane v.active)
      | none => s1
    match s2.warp c x.slot with
    | some v => s2.finish c x.slot (s2.branch c x.slot v x.taking x.target)
    | none => s2

/-- Cycles after the first arrival at which a regroup is released (R194). -/
def regroupLimit : Nat := 4096

/-- Has a key's watchdog run out? -/
def State.regroupLate (s : State) (b : Block) : Bool :=
  b.st == .resident && b.regroupTimers.any fun t => decide (t.2.2 + regroupLimit ≤ s.clock)

/-- The regroups of a block whose watchdog has run out are released ungrouped (R194). -/
def State.regroupRelease (s : State) (bid : Nat) : State :=
  match s.block bid with
  | none => s
  | some b =>
    if !s.regroupLate b then s
    else
      let late := b.regroupTimers.filter fun t => decide (t.2.2 + regroupLimit ≤ s.clock)
      let isLate := fun (x : Arrived) => late.any fun t => t.1 == x.pc && t.2.1 == x.count
      let s1 := s.setBlock bid { b with regroupTimers := b.regroupTimers.filter fun t => !late.contains t }
      ((s.regroupWaiters b).filter isLate).foldl (fun (s : State) x => s.releaseOne b.core x) s1

end Sys2Proof.Machine
end

