-- ==== Sys2Proof/Machine/Atomics.lean ====
section
/-! DEFINITION. Atomic operations at their atomic unit (R90, R155, R319, R368), accesses to peer pages as requests to their package (R27, R28), and stores over both. -/
namespace Sys2Proof.Machine
open Sys2Proof

/-- A value of n bytes as a signed number. -/
def signedN (n v : Nat) : Int := if v < 2 ^ (8 * n - 1) then v else (v : Int) - 2 ^ (8 * n)

/-- The operation an ATOP selects, on values of n bytes (R319, R368). -/
def atomOp (atop n old d : Nat) : Nat :=
  match atop with
  | 0 => (old + d) % 2 ^ (8 * n)
  | 1 => if signedN n old ≤ signedN n d then old else d
  | 2 => if signedN n old ≤ signedN n d then d else old
  | 3 => min old d
  | 4 => max old d
  | 5 => old &&& d
  | 6 => old ||| d
  | 7 => old ^^^ d
  | 9 => (fAdd .f32 ⟨.rne, 0⟩ old d).bits
  | _ => d

/-- An atomic's turn at the home of its bytes: as a local write it recalls other copies (R147), and it notes a failed integrity check (R164). -/
def State.atomTouch (s : State) (g : Agt) (st : Store) : State :=
  match st with
  | .mem ps => ps.foldl (fun (s : State) p =>
      if s.cutOff g.die (s.migTarget p.pa) then s.notePort g.die (pteKey p.pte) (s.migTarget p.pa) p.len
      else (s.touch (homeDie (s.migTarget p.pa)) true p.pa p.len).noteTags (pteKey p.pte) ((sectorsOf (s.migTarget p.pa) p.len).filter (s.tagBad (pteKey p.pte))) false) s
  | _ => s

/-- One atomic at its unit (R90, R134, R155): the old bytes with their poison; a new value is written where `f` gives one and nothing read was poisoned. -/
def State.atomically (s : State) (g : Agt) (st : Store) (n : Nat) (f : Nat → Option Nat) : State × List (Byte × Option Nat) :=
  let s1 := (s.atomDrop g st).atomTouch g st
  let old := s1.bytesWithPoison g false st n
  if old.any fun b => b.2.isSome then (s1, old.map fun b => (b.1, old.findSome? Prod.snd))
  else match f (leNat (old.map Prod.fst)) with
    | some v => ((s1.storeBytes (s1.atUnit g st) st (leBytes n v)).atomDrop g st, old)
    | none => (s1, old)

/-! Peer pages. -/

/-- Does a piece lie at a peer (R27)? -/
def Piece.isPeer (p : Piece) : Bool := pteTier p.pte == 2

/-- The pieces of a location that lie at peers. -/
def Store.peers : Store → List Piece
  | .mem ps => ps.filter (·.isPeer)
  | _ => []

/-- The number under which the caches know a line of a package (R57). -/
def podLine (pkg pa : Nat) : Nat := (pkg + 1) * 2 ^ 48 + pa / 128

/-- The lines of a package that a range touches. -/
def podLines (pkg pa n : Nat) : List Nat := (List.range ((pa + n - 1) / 128 - pa / 128 + 1)).map fun i => podLine pkg pa + i

/-- Bytes of a piece of a pod-cacheable page that lines of a cache hold all of. -/
def heldIn (l : Assoc L1Line) (pkg pa n : Nat) : Option (List Byte) :=
  if (podLines pkg pa n).all fun x => (l.find x).isSome then
    some ((List.range n).map fun i => match l.find (podLine pkg (pa + i)) with
      | some x => x.bytes.getD ((pa + i) % 128) 0
      | none => 0)
  else none

/-- Bytes of a pod-cacheable piece that a load finds in the L1, or else in its die's L2: a free choice in each, since a line may have been replaced; an access that is no plain load looks in the L2 only, and a POD acquire in neither (R27, R57, R122). -/
def State.podHit (s : State) (g : Agt) (plain : Bool) (p : Piece) : Option (List Byte) :=
  if !ptePc p.pte then none
  else
    let line := podLine (ptePkg p.pte) p.pa
    let l1 := match g.core, plain with
      | some c, true => if Config.freeNew s.free line then none else heldIn (s.core c).l1 (ptePkg p.pte) p.pa p.len
      | _, _ => none
    match l1 with
    | some b => some b
    | none => if Config.freeNew s.free (line + 2 ^ 80) then none else heldIn (s.pod g.die) (ptePkg p.pte) p.pa p.len

/-- New bytes into the lines of a cache that hold them. -/
def podPatch (l : Assoc L1Line) (pkg pa : Nat) (bytes : List Byte) : Assoc L1Line :=
  (List.range bytes.length).foldl (fun (l : Assoc L1Line) i => match l.find (podLine pkg (pa + i)) with
    | some x => l.put (podLine pkg (pa + i)) { x with bytes := x.bytes.set ((pa + i) % 128) (bytes.getD i 0) }
    | none => l) l

/-- What a request for a pod-cacheable piece does to the copies held for its sender: a store updates them, an atomic drops them (R57, R122). -/
def State.podTouch (s : State) (g : Agt) (p : Piece) (op : PeerOp) : State :=
  let change := fun (l : Assoc L1Line) => match op with
    | .read _ => l
    | .write b _ => podPatch l (ptePkg p.pte) p.pa b
    | .atomic _ _ _ => (podLines (ptePkg p.pte) p.pa p.len).foldl Assoc.del l
  if !ptePc p.pte then s
  else
    let s1 := s.setPod g.die (change (s.pod g.die))
    match g.core with
    | some c => s1.setCore c { s1.core c with l1 := change (s1.core c).l1 }
    | none => s1

/-- The lines a load of a pod-cacheable piece brings: those of a line's whole 128 bytes (R57; log entry 27). -/
def podFillOf (g : Agt) (plain : Bool) (p : Piece) : PeerOp → Option PodFill
  | .read _ => if ptePc p.pte then some ⟨p.pa / 128 * 128, p.pa % 128, if plain then g.core else none⟩ else none
  | _ => none

/-- Send a request for a piece to its package (R28). A read of a pod-cacheable page asks for whole lines. -/
def State.sendPeer (s : State) (g : Agt) (posted plain : Bool) (p : Piece) (addr key data : Nat) (op : PeerOp) : State :=
  let (id, s1) := (s.podTouch g p op).newId
  let slot := match g.who with
    | .warp _ k => k
    | .seq _ => 48
    | .copy _ _ => 49
    | _ => 50
  let fill := podFillOf g plain p op
  let drops := match op with
    | .atomic _ _ _ => podLines (ptePkg p.pte) p.pa p.len
    | _ => []
  let ask : PeerReq := { id := id, src := s1.pkgid, ctx := g.ctx, key := pteKey p.pte, paddr := p.pa, op := op }
  let out := match fill with
    | some f => { ask with paddr := f.base, op := .read ((f.off + p.len + 127) / 128 * 128) }
    | none => ask
  { s1 with
    stoxia := s1.stoxia ++ [.peer (ptePkg p.pte) out]
    peerReqs := s1.peerReqs ++ [{ id := id, core := g.core.getD 0, slot := slot, ctx := g.ctx, posted := posted, addr := addr, lane := key, data := data, size := p.len, pkg := ptePkg p.pte, die := g.die, fill := fill, drops := drops }] }

/-- Store bytes at a location, the pieces at peers by posted requests (R28, R57). -/
def State.storeOut (s : State) (g : Agt) (st : Store) (addr : Nat) (bytes : List Byte) : State :=
  match st with
  | .mem ps =>
    (ps.foldl (fun (r : State × List Byte × Nat) p =>
      let now := r.2.1.take p.len
      let s1 := if p.isPeer then r.1.sendPeer g true false p r.2.2 0 g.work (.write now []) else r.1.storeBytes g (.mem [p]) now
      (s1, r.2.1.drop p.len, r.2.2 + p.len)) (s, bytes, addr)).1
  | _ => s.storeBytes g st bytes

/-! Atomics that cross the bridge (R142, R154). -/

/-- A message put on its way to the other die (R142). -/
def State.sendBridge (s : State) (i : Instr) (m : BridgeMsg) : State := if s.bridgeDown then s else { s with wire := s.wire ++ [(i, m)] }

/-- A message about a line with nothing else in it. -/
def plainMsg (die n : Nat) (txid : BitVec 16) : BridgeMsg := ⟨die, 0, txid, false, false, false, 0, BitVec.ofNat 64 (n * 128), 0, 0, 0, []⟩

/-- Where non-cached addresses of L2 SCRATCH and of CLUSTER begin in a message (log entry 10). -/
def ncScratch : Nat := 0xF000000000000
def ncCluster : Nat := 0xF800000000000

/-- The place of a non-cached address at the die a message arrives at, as the model encodes it (R142; log entry 10): L2 SCRATCH from 0xF_0000_0000_0000, CLUSTER from 0xF_8000_0000_0000 with the core in bits 27:20. -/
def ncPlace (m : BridgeMsg) : Option Store :=
  let a := m.paddr.toNat
  if ncScratch ≤ a ∧ a < ncScratch + 2 ^ 26 then some (.scratch m.die (a - ncScratch))
  else if ncCluster ≤ a ∧ a < ncCluster + 192 * 2 ^ 20 ∧ dieOf ((a - ncCluster) / 2 ^ 20) = m.die then some (.shared ((a - ncCluster) / 2 ^ 20) ((a - ncCluster) % 2 ^ 20))
  else none

/-- The address of a message for a place: a physical address, or a non-cached one (R142). -/
def State.msgAddr (s : State) (st : Store) : Nat :=
  match st with
  | .mem ps => (ps.head?.map fun p => s.migTarget p.pa).getD 0
  | .shared c o => ncCluster + c * 2 ^ 20 + o
  | .scratch _ o => ncScratch + o
  | .edge o _ _ => ncScratch + o

/-- The die of the atomic unit of a place (R90, R134). -/
def State.unitOf (s : State) (st : Store) : Nat :=
  match st with
  | .mem ps => (ps.head?.map fun p => homeDie (s.migTarget p.pa)).getD 0
  | .shared c _ => dieOf c
  | .scratch d _ => d
  | .edge _ _ _ => 0

/-- Does an atomic of an agent cross the bridge (R154)? With the bridge down it completes locally (R153). -/
def State.crosses (s : State) (g : Agt) (st : Store) : Bool := s.unitOf st != g.die && !s.bridgeDown

/-- What stands for the other die where a request names a package. -/
def otherDie : Nat := 2 ^ 15

/-- Operands of an atomic: operation, data, compare value if it has one, ORD and SCOPE. -/
structure AtomOp where
  atop : Nat
  data : Nat
  cmp : Option Nat
  ord : Nat
  scope : Nat
  deriving DecidableEq, Repr

/-- OPX of an ATM as the model lays it out (R142; log entry 10): [7:0] operation, [15:8] bytes, [16] compare, [17] no value wanted, [21:20] ORD, [24:22] SCOPE. -/
def AtomOp.opx (x : AtomOp) (n : Nat) (posted : Bool) : BitVec 96 :=
  BitVec.ofNat 96 (x.atop + n * 2 ^ 8 + (if x.cmp.isSome then 2 ^ 16 else 0) + (if posted then 2 ^ 17 else 0) + x.ord % 4 * 2 ^ 20 + x.scope % 8 * 2 ^ 22)

/-- The L1 lines that an atomic's answer drops (R57). -/
def State.atomLines (s : State) (st : Store) : List Nat := match st with
  | .mem ps => ps.flatMap fun p => if p.isPeer then podLines (ptePkg p.pte) p.pa p.len else linesOf (s.migTarget p.pa) p.len
  | _ => []

/-- Send an atomic of a lane to the other die (R154). -/
def State.sendAtm (s : State) (g : Agt) (st : Store) (posted : Bool) (n addr key data : Nat) (x : AtomOp) : State :=
  let (id, s1) := (s.atomDrop g st).newId
  let slot := match g.who with
    | .warp _ k => k
    | _ => 48
  let m := { plainMsg (1 - g.die) 0 (BitVec.ofNat 16 id) with
    paddr := BitVec.ofNat 64 (s.msgAddr st), opa := BitVec.ofNat 128 x.data, opb := BitVec.ofNat 128 (x.cmp.getD 0), opx := x.opx n posted }
  let out : PeerOut := { id := id, core := g.core.getD 0, slot := slot, ctx := g.ctx, posted := posted, addr := addr, lane := key, data := data, size := n, pkg := otherDie, die := g.die, drops := s.atomLines st }
  State.sendBridge { s1 with peerReqs := s1.peerReqs ++ [out] } .atm m

/-- Is a posted request of a context, sent before a number was given out, still to be acknowledged by its peer (R57, R97)? -/
def State.writesOut (s : State) (ctx mark : Nat) : Bool := s.peerReqs.any fun r => r.posted && r.ctx == ctx && decide (r.id < mark)

/-- Are posted requests that a release of a warp must follow still to be acknowledged: those of its context that had left when it first reached the release (R57, R97, R104)? -/
def State.postedOut (s : State) (c k : Nat) : Bool :=
  match s.warp c k with
  | some w => s.writesOut (s.ctxOf w) (w.mark.getD s.ids)
  | none => false

/-- Are posted requests of a queue entry, copy, record or collective still to be acknowledged (R28, R107)? -/
def State.workOut (s : State) (work : Nat) : Bool := s.peerReqs.any fun r => r.posted && r.data == work

/-- A warp's release waits for posted requests: it tries again, and the requests that leave meanwhile hold it no longer. -/
def State.awaitWrites (s : State) (c k : Nat) (w : Warp) : State :=
  s.setWarp c k { w.sleep .retry with mark := some (w.mark.getD s.ids) }

/-- A warp consumes poisoned bytes that it has read and halts (R273); where an integrity check failed, the end of its context overtakes that (R276). -/
def State.haltFor (s : State) (c k : Nat) (w : Warp) (g : Agt) (plain : Bool) (st : Store) (x : Nat) : WRes :=
  let t := s.loadFill g plain st
  if t.tagFails.all (·.port) then .halt x else .wait (t.setWarp c k (w.sleep .retry))

/-- A posted access that cannot be performed while the bridge is down terminates its context (R153). -/
def State.endSevered (s : State) (g : Agt) (cut : Bool) : State :=
  if cut then s.terminate g.ctx 6 else s

end Sys2Proof.Machine
end

