-- ==== Sys2Proof/Machine/Scalar.lean ====
section
/-! DEFINITION. The B slot (R377-R380) and the S slot's own instructions: scalar memory (R382), masks, CMPT, handles, tile ownership and the scale latches (R384-R391). -/
namespace Sys2Proof.Machine
open Sys2Proof

/-! The B slot. -/

/-- The target of a B-slot branch: the bundle's address and a signed offset (R320, R377). -/
def BR.dest (f : BR) (pc : Word64) : Word64 := pc + f.tgt.signExtend 64

/-- The next bundle is at an address. -/
def State.seqGoto (s : State) (c : Nat) (pc : Word64) : State :=
  match s.seq c with
  | some q => s.setSeq c { q with next := some pc }
  | none => s

/-- Branch where a condition holds. -/
def State.seqIf (s : State) (c : Nat) (cond : Bool) (pc : Word64) : State := if cond then s.seqGoto c pc else s

/-- The l register of LOOPI and LOOPB (R378). -/
def BR.loopReg (f : BR) : Nat := (f.md.extractLsb' 16 2).toNat

/-- SBR (R377). -/
def execSbr (f : BR) (s : State) : Host.Outcome State Fault Refusal :=
  asSlot s f.g fun c _ q => .ok (s.seqGoto c (BR.dest f q.pc))

/-- SBRQ: taken when q xor invert is 1 (R377). -/
def execSbrq (f : BR) (s : State) : Host.Outcome State Fault Refusal :=
  asSlot s f.g fun c _ q => .ok (s.seqIf c (s.qReg q (f.md.extractLsb' 0 3).toNat != f.md.getLsbD 3) (BR.dest f q.pc))

/-- SBRM: mixed bits are NONUNIFORM (R203). -/
def execSbrm (f : BR) (s : State) : Host.Outcome State Fault Refusal :=
  asSlot s f.g fun c _ q =>
    let m := s.mReg q (f.md.extractLsb' 0 3).toNat
    if m = BitVec.allOnes 1024 then .ok (s.seqGoto c (BR.dest f q.pc))
    else if m = 0 then .ok s
    else .error (.fault .nonuniform 0)

/-- LOOPI: l := count; a count of 0 skips the loop (R378). -/
def execLoopi (f : BR) (s : State) : Host.Outcome State Fault Refusal :=
  asSlot s f.g fun c _ q =>
    let n := f.md.extractLsb' 0 16
    .ok ((s.later c 0 1 [.l (BR.loopReg f) (n.setWidth 32)]).seqIf c (n == 0) (BR.dest f q.pc))

/-- LOOPB: l counts down and the branch is taken while it stays nonzero (R378). -/
def execLoopb (f : BR) (s : State) : Host.Outcome State Fault Refusal :=
  asSlot s f.g fun c _ q =>
    let l := q.lReg (BR.loopReg f)
    if l = 0 then .ok s
    else .ok ((s.later c 0 1 [.l (BR.loopReg f) (l - 1)]).seqIf c (l - 1 != 0) (BR.dest f q.pc))

/-- SYNCL: the sequencer stalls until the restart; without a contribution since the last one and without header bit 31 it is ILLEGAL (R204, R380). -/
def execSyncl (f : BR) (s : State) : Host.Outcome State Fault Refusal :=
  asSlot s f.g fun c _ q =>
    if q.arrived.isNone && !q.hdr.getLsbD 31 then sIllegal
    else match s.seq c with
      | some x => .ok (s.setSeq c { x with syncing := true })
      | none => .ok s

/-- SHALT: no later bundle issues (R380). -/
def execShalt (f : BR) (s : State) : Host.Outcome State Fault Refusal :=
  asSlot s f.g fun c _ _ => match s.seq c with
    | some x => .ok (s.setSeq c { x with st := .shalted })
    | none => .ok s

/-- SCALL: at most eight return addresses (R379). -/
def execScall (f : BR) (s : State) : Host.Outcome State Fault Refusal :=
  asSlot s f.g fun c _ q =>
    if 8 ≤ q.rstack.length then sIllegal
    else match s.seq c with
      | some x => .ok (s.setSeq c { x with rstack := (q.pc + 64) :: x.rstack, next := some (BR.dest f q.pc) })
      | none => .ok s

/-- SRET (R379). -/
def execSret (f : BR) (s : State) : Host.Outcome State Fault Refusal :=
  asSlot s f.g fun c _ q =>
    match q.rstack, s.seq c with
    | a :: rest, some x => .ok (s.setSeq c { x with rstack := rest, next := some a })
    | _, _ => sIllegal

/-! Scalar memory (R382). -/

/-- Does an address lie in the SHARED window (R11)? -/
def inSharedWindow (sp : Nat) (ea : Word64) : Bool :=
  sp == 2 || (sp == 0 && decide (sharedBase ≤ ea.toNat) && decide (ea.toNat < sharedBase + 0x100000))

/-- The address of a scalar access. -/
def State.xAddr (s : State) (q : Seq) (f : MEM) : Word64 := s.xReg q f.base.toNat + f.off.signExtend 64

/-- The size of a scalar access (R318). -/
def xSize (f : MEM) : Nat := 2 ^ f.sz.toNat

/-- Where a scalar access lies, or its fault (R20-R22, R376), which is fatal even where it is replayable (R37); SP 4 is a hole (R19). -/
def State.xWhere (s : State) (c : Nat) (q : Seq) (f : MEM) (acc : Acc) : Except SErr Store :=
  if f.sp = 4 then .error (.fault .addrHole (genericOf 4 (s.xAddr q f)))
  else match s.meet (s.seqAgt c q) acc f.sp.toNat (f.ord != 0) (s.xAddr q f) (xSize f) with
    | .ok st => .ok st
    | .miss _ => .error (.fault .notValid (genericOf f.sp.toNat (s.xAddr q f)))
    | .fault x _ a => .error (.fault x a)
    | .held fs => .error (match fs.head? with | some y => .fault y.cause y.addr | none => .fault .notValid 0)
    | .bad x => .error (.fault x (genericOf f.sp.toNat (s.xAddr q f)))

/-- The value of an x register or pair, as bytes. -/
def State.xBytes (s : State) (q : Seq) (f : MEM) : List Byte :=
  leBytes (xSize f) ((s.xReg q f.data.toNat).toNat + (if f.sz = 4 then (s.xReg q (f.data.toNat + 1)).toNat * 2 ^ 64 else 0))

/-- The fixed-time writes of SHARED still to come, performed in order up to a cycle, as a read in that cycle will find them (R409). -/
def State.sharedAhead (s : State) (c : Nat) (q : Seq) (due : Nat) : State :=
  q.pend.foldl (fun (t : State) p => if p.due ≤ due then p.writes.foldl (fun (t : State) w => match w with
    | .shStore o bs => t.writeWithPoison (s.seqAgt c q) (.shared c o) bs
    | _ => t) t else t) s

/-- A fixed-time read of SHARED: poison that stands there halts the sequencer at this bundle (R274, R382). -/
def State.xReadShared (s : State) (c : Nat) (q : Seq) (f : MEM) (st : Store) : Except SErr State :=
  match st with
  | .shared _ o =>
    match ((s.sharedAhead c q (s.clock + 4)).loadBytes (s.seqAgt c q) false st (xSize f)).2 with
    | some x => .error (.halt x)
    | none => .ok (s.later c 1 4 [.xread f.data.toNat (xSize f) o (f.ord == 1) f.scope.toNat])
  | _ => .ok s

/-- Enter work into queue C0 or C1; a 129th entry is ILLEGAL (R405). -/
def State.enqueue (s : State) (c qn : Nat) (work : Nat → QWork) : Except SErr State :=
  match s.seq c with
  | none => .ok s
  | some q =>
    let l := if qn = 0 then q.c0 else q.c1
    if 128 ≤ l.length then .error (.fault .illegal 0)
    else
      let (id, s1) := s.newId
      let e : QEntry := ⟨id, q.bundles, q.pc, s.clock + s.latency, work id, false⟩
      .ok (s1.setSeq c (if qn = 0 then { q with c0 := q.c0 ++ [e] } else { q with c1 := q.c1 ++ [e] }))

/-- XLD (R382). -/
def execXld (f : MEM) (s : State) : Host.Outcome State Fault Refusal :=
  asSlot s f.g fun c _ q => do
    let st ← s.xWhere c q f .read
    s.xReadShared c q f st

/-- XST (R382): fixed time to SHARED with ORD plain, else an entry of C0. -/
def execXst (f : MEM) (s : State) : Host.Outcome State Fault Refusal :=
  asSlot s f.g fun c _ q => do
    let ea := s.xAddr q f
    let st ← s.xWhere c q f .write
    let data := s.xBytes q f
    match st, inSharedWindow f.sp.toNat ea && f.ord == 0 with
    | .shared _ o, true => .ok (s.later c 1 4 [.shStore o (data.map fun b => (b, none))])
    | _, _ => s.enqueue c 0 fun _ => .xstore data st ea (f.ord != 0) f.scope.toNat

/-- XLDG (R382): fixed time from the SHARED window, else an entry of C0. -/
def execXldg (f : MEM) (s : State) : Host.Outcome State Fault Refusal :=
  asSlot s f.g fun c _ q => do
    let ea := s.xAddr q f
    let st ← s.xWhere c q f .read
    if inSharedWindow f.sp.toNat ea then s.xReadShared c q f st
    else
      let again := q.loadingX f.data.toNat || (f.sz == 4 && q.loadingX (f.data.toNat + 1))
      s.enqueue c 0 fun _ => .xload f.data.toNat (xSize f) st ea (f.ord != 0) f.scope.toNat again

/-! Masks and comparison. -/

/-- The q register of an S-slot code. -/
def qIdx (code : BitVec 8) : Nat := code.toNat - 0x40
/-- The m register of an S-slot code. -/
def mIdx (code : BitVec 8) : Nat := code.toNat - 0x48
/-- The handle of an S-slot code. -/
def hIdx (code : BitVec 8) : Nat := code.toNat - 0x50

/-- ANYM (R384). -/
def execAnym (f : RR) (s : State) : Host.Outcome State Fault Refusal :=
  asSlot s f.g fun c _ q => .ok (s.later c 1 1 (qWrite (qIdx f.dst) (s.mReg q (mIdx f.sa) != 0)))

/-- ALLM (R384). -/
def execAllm (f : RR) (s : State) : Host.Outcome State Fault Refusal :=
  asSlot s f.g fun c _ q => .ok (s.later c 1 1 (qWrite (qIdx f.dst) (s.mReg q (mIdx f.sa) == BitVec.allOnes 1024)))

/-- CMPT: operands that differ, or with SA = SB an operand that is not zero, are a fault (R385). -/
def execCmpt (f : RR) (s : State) : Host.Outcome State Fault Refusal :=
  asSlot s f.g fun _ _ q =>
    let same :=
      if xOk f.sa then (if f.sa = f.sb then s.xReg q f.sa.toNat == 0 else s.xReg q f.sa.toNat == s.xReg q f.sb.toNat)
      else if qOk f.sa then (if f.sa = f.sb then !s.qReg q (qIdx f.sa) else s.qReg q (qIdx f.sa) == s.qReg q (qIdx f.sb))
      else if f.sa = f.sb then s.mReg q (mIdx f.sa) == 0 else s.mReg q (mIdx f.sa) == s.mReg q (mIdx f.sb)
    if same then .ok s else .error (.fault .cmpt 0)

/-! Handles. -/

/-- Claims in flight on a handle, those of this bundle's earlier slots included (R407). -/
def Seq.claimsOn (q : Seq) (n : Nat) : Nat :=
  (q.claims.filter (·.handle == n)).length +
  (q.pend.flatMap fun p => p.writes.filter fun w => match w with | .claim _ m _ => m == n | _ => false).length

/-- The ring tiles of every set handle but one. -/
def Seq.ringTiles (q : Seq) (but : Option Nat) : List Nat :=
  q.handles.flatMap fun e => if some e.1 = but then [] else e.2.tiles

/-- HSET (R70, R386). -/
def execHset (f : RR) (s : State) : Host.Outcome State Fault Refusal :=
  asSlot s f.g fun c _ q =>
    let v := s.xReg q f.sa.toNat
    let n := hIdx f.dst
    let h : Handle := { base := (v.extractLsb' 0 7).toNat, n := (v.extractLsb' 8 6).toNat, prodEng := v.getLsbD 16, consEng := v.getLsbD 17 }
    let reads := match q.mloop with
      | some l => l.handles.contains n
      | none => false
    let ok := decide (1 ≤ h.n) && decide (h.n ≤ 32) && decide (h.base + h.n ≤ 128) && h.tiles.all (s.seqOwns c (s.seqCtx q) ·) &&
      h.tiles.all (fun t => !(q.ringTiles (some n)).contains t) && q.claimsOn n == 0 && !reads
    if ok then .ok (s.later c 1 1 [.hset n h]) else .error (.fault .handleSet 0)

/-- HADVP (R73, R387). -/
def execHadvp (f : RI) (s : State) : Host.Outcome State Fault Refusal :=
  asSlot s f.g fun c _ q => do
    let n := hIdx f.dst
    let k := f.imm.toNat
    let h ← q.handle n
    if h.prodEng || q.claimsOn n != 0 then .error (.fault .handleRole 0)
    else if h.free < k then .error (.fault .handleOverrun 0)
    else .ok (s.later c 1 1 [.hadvp n k])

/-- HADVC (R73, R387). -/
def execHadvc (f : RI) (s : State) : Host.Outcome State Fault Refusal :=
  asSlot s f.g fun c _ q => do
    let n := hIdx f.dst
    let k := f.imm.toNat
    let h ← q.handle n
    if h.consEng then .error (.fault .handleRole 0)
    else if h.filled < k then .error (.fault .handleUnderrun 0)
    else .ok (s.later c 1 1 [.hadvc n k])

/-- EOSD: the slot to drain next carries the end-of-stream token (R388). -/
def Handle.eosd (h : Handle) : Bool := decide (1 ≤ h.filled) && h.eos.getLsbD (h.dp % h.n)

/-- The state of a handle as HQRY gives it (R388). -/
def Handle.word (h : Handle) : Word64 :=
  BitVec.ofNat 64 (h.base + 2 ^ 7 * h.prodEng.toNat + 2 ^ 8 * h.consEng.toNat + 2 ^ 9 * h.n + 2 ^ 15 * h.fp + 2 ^ 21 * h.dp +
    2 ^ 27 * h.filled + 2 ^ 33 * h.free + 2 ^ 39 * h.eosd.toNat)

/-- HQRY: an unset handle reads as zero (R388). -/
def execHqry (f : RR) (s : State) : Host.Outcome State Fault Refusal :=
  asSlot s f.g fun c _ q =>
    let h := q.handles.find (hIdx f.sa)
    if qOk f.dst then .ok (s.later c 1 1 (qWrite (qIdx f.dst) ((h.map Handle.eosd).getD false)))
    else .ok (s.later c 1 1 [.x f.dst.toNat ((h.map Handle.word).getD 0)])

/-! Tile ownership. -/

/-- SGIVE (R389): the checks in their order; it takes effect as R110 states. -/
def execSgive (f : RI) (s : State) : Host.Outcome State Fault Refusal :=
  asSlot s f.g fun c _ q =>
    let t := (f.imm.extractLsb' 0 7).toNat
    let wi := (f.imm.extractLsb' 8 5).toNat
    match s.block q.block with
    | none => .ok s
    | some b =>
      if !s.seqOwns c b.ctx t then .error (.fault .tileOwner 0)
      else if (q.ringTiles none).contains t then .error (.fault .handleSet 0)
      else if b.slots.length ≤ wi then .error (.fault .giveTarget 0)
      else .ok (s.later c 1 1 [.give t (b.slots.getD wi 63)])

/-- Does a STAKE of the tile still wait (R390)? -/
def State.stakeWaits (s : State) (c ctx t : Nat) : Bool :=
  let x := s.tile c t
  x.st != .free && !(x.ctx == ctx && x.hold == 48 && ((x.st == .owned && x.giving.isNone) || (x.st == .given && !x.kept && x.pend == 0)))

/-- STAKE (R390): in an abandoned block without effect (R275). -/
def execStake (f : RI) (s : State) : Host.Outcome State Fault Refusal :=
  asSlot s f.g fun c _ q =>
    let t := (f.imm.extractLsb' 0 7).toNat
    match s.block q.block with
    | none => .ok s
    | some b =>
      if b.abandoned then .ok s
      else if (s.tile c t).st = .free then .error (.fault .tileOwner 0)
      else if s.seqOwns c b.ctx t then .ok s
      else .ok (s.later c 1 1 [.take t])

/-! The scale latches (R391). -/

/-- The pipe and group a selector names. -/
def scaleSel (v : Word64) : Nat × Nat := (if v.getLsbD 2 then 1 else 0, (v.extractLsb' 0 2).toNat)

/-- SCALEW (R391). -/
def execScalew (f : RR) (s : State) : Host.Outcome State Fault Refusal :=
  asSlot s f.g fun c _ q =>
    let (pipe, g) := scaleSel (s.xReg q f.sb.toNat)
    let v := s.xReg q f.sa.toNat
    .ok (s.later c 1 1 ((List.range 8).map fun i => .latch pipe (8 * g + i) (v.extractLsb' (8 * i) 8).toNat))

/-- An entry of a scale latch; 127 at placement (R304). -/
def Seq.latch (q : Seq) (pipe e : Nat) : Nat := (if pipe = 0 then q.latch0 else q.latch1).getD e 127

/-- SCALEG (R391). -/
def execScaleg (f : RR) (s : State) : Host.Outcome State Fault Refusal :=
  asSlot s f.g fun c _ q =>
    let (pipe, g) := scaleSel (s.xReg q f.sa.toNat)
    .ok (s.later c 1 1 [.x f.dst.toNat (BitVec.ofNat 64 ((List.range 8).foldl (fun (n : Nat) i => n + q.latch pipe (8 * g + i) * 2 ^ (8 * i)) 0))])

end Sys2Proof.Machine
end

