-- ==== Sys2Proof/Machine/System.lean ====
section
/-! DEFINITION. How the instructions of opcodes 0x100 to 0x16A act once for the warp (R414, R415), fences (R104, R105, R429, R430), traps raised by programs and their return (R447, R448), control registers (R449), the first-event log and the clock (R450, R451). -/
namespace Sys2Proof.Machine
open Sys2Proof

/-! One action for the warp. -/

/-- Run an instruction once for the warp (R415): its lane is the lowest taking one; a guard false in every active lane leaves no effect. -/
def State.sysRun (s : State) (c k : Nat) (w : Warp) (g : BitVec 4) (body : Nat → WRes) : WRes :=
  match s.prep c k w { g := g, sdst := true } with
  | .error r => r
  | .ok lanes => match (lanesOf lanes).head? with
    | none => .done s
    | some l => body l

/-- Run an instruction that needs every lane that lives (R199, R415). -/
def State.fullRun (s : State) (c k : Nat) (w : Warp) (g : BitVec 4) (body : Nat → WRes) : WRes :=
  s.sysRun c k w g fun l => if w.active = w.live then body l else wholeTrap w .memberMask

/-- An s register of the warp as the instruction reads it. -/
def State.sArg (s : State) (c k : Nat) (w : Warp) (l : Nat) (code : BitVec 8) : Word64 := s.readS c k w l code.toNat

/-- A trap of an instruction at an address. -/
def addrTrap (w : Warp) (c : Cause) (addr : Nat) : WRes := .trap { cause := c, lane := lowLane w.active, addr := addr }

/-- Results of an instruction with a scoreboard (R416). -/
def State.sysResult (s : State) (c k : Nat) (f : RR) (ws : List (Nat × Word64)) : WRes :=
  .done (s.writeLater c k f.sbd.toNat (ws.map fun x => .sreg x.1 x.2))

/-- Results of an instruction of class CTL, interlocked (R416). -/
def State.ctlResult (s : State) (c k : Nat) (ws : List (Nat × Word64)) : WRes :=
  .done (s.writeNow c k (ws.map fun x => .sreg x.1 x.2))

/-- The warp tries its instruction again at its next turn (R183). -/
def State.again (s : State) (c k : Nat) (w : Warp) : WRes := .wait (s.setWarp c k (w.sleep .retry))

/-! Fences. -/

/-- Copies of a warp still in flight (R64). -/
def State.copiesOf (s : State) (c k : Nat) : Bool :=
  (s.core c).copies.any fun x => x.slot == k && (s.warp c k).map (fun (w : Warp) => w.block) == some x.block

/-- A release of a warp to paths at a scope: it waits until the stores it follows are acknowledged by their peers (R57, R97), then they are performed there. -/
def State.releaseTo (s : State) (c k : Nat) (w : Warp) (scope : Nat) (paths : List Path) (body : State → WRes) : WRes :=
  if s.postedOut c k then .wait (s.awaitWrites c k w) else body (s.show (s.warpAgt c k w) scope paths)

/-- A release of a warp at CORE scope (R106). -/
def State.coreRelease (s : State) (c k : Nat) (w : Warp) (body : State → WRes) : WRes := s.releaseTo c k w 0 [.ls] body

/-- A fence of a warp at a scope towards paths: it waits for the accesses it orders, then does the caches' actions (R57, R104, R105, R122). -/
def State.fenceAt (s : State) (c k : Nat) (w : Warp) (scope : BitVec 3) (copies : Bool) (paths : List Path) : WRes :=
  if copies && s.copiesOf c k then s.again c k w
  else s.releaseTo c k w scope.toNat paths fun t => .done (t.acquireAt c (t.ctxOf w) scope.toNat)

/-- The to set of an XFENCE that other views than the home's belong to (R105, R430). -/
def fencePaths (ty : BitVec 5) : List Path := ([Path.ls, .cp, .se, .co].zipIdx.filter fun p => ty.getLsbD p.2).map Prod.fst

/-- FENCE (R104, R429). -/
def execFence (f : RR) (s : State) : Host.Outcome State Fault Refusal :=
  asWarp s fun c k w =>
    match s.prep c k w { g := f.g } with
    | .error r => r
    | .ok lanes =>
      if lanes = 0 then .done s
      else if !uniformGuard w.active lanes then wholeTrap w .nonuniform
      else s.fenceAt c k w (f.md.extractLsb' 0 3) false [.ls]

/-- XFENCE (R105, R430): with CP in its from set it waits for the warp's copies. -/
def execXfence (f : RR) (s : State) : Host.Outcome State Fault Refusal :=
  asWarp s fun c k w =>
    match s.prep c k w { g := f.g } with
    | .error r => r
    | .ok lanes =>
      if lanes = 0 then .done s
      else if !uniformGuard w.active lanes then wholeTrap w .nonuniform
      else s.fenceAt c k w (f.md.extractLsb' 0 3) (f.md.getLsbD 4) (fencePaths f.ty)

/-! Traps raised by programs. -/

/-- TRAP and BKPT (R447): taken when the guard is true in some active lane, at the lowest such lane. -/
def State.raise (s : State) (f : RI) (cause : Cause) : Host.Outcome State Fault Refusal :=
  asWarp s fun c k w =>
    match (lanesOf (s.taking c k w f.g)).head? with
    | none => .done s
    | some l => if f.g = 0xF then .done s else .trap { cause := cause, lane := l, imm := (f.imm.extractLsb' 0 16).toNat, after := true }

/-- TRAP (R447). -/
def execTrap (f : RI) (s : State) : Host.Outcome State Fault Refusal := s.raise f .software
/-- BKPT (R447). -/
def execBkpt (f : RI) (s : State) : Host.Outcome State Fault Refusal := s.raise f .breakpoint

/-- RFT (R269, R448): outside trap mode ILLEGAL; a TRAP.NPC that is not 8-byte aligned ends the context (R270). -/
def execRft (_f : BR) (s : State) : Host.Outcome State Fault Refusal :=
  asWarp s fun c k w =>
    if w.st ≠ .trap then wholeTrap w .illegal
    else if w.traps.npc.toNat % 8 ≠ 0 then .jump (s.terminate (s.ctxOf w) 2)
    else .jump (s.setWarp c k (w.leaveTrap s.clock))

/-! Control registers (R449). -/

/-- The number of a control register (R449). -/
def RI.ctl (f : RI) : Nat := (f.imm.extractLsb' 0 12).toNat

/-- The SEQ registers of a block, zero without a sequencer (R271, R449). -/
def Block.seqCtl (b : Block) (n : Nat) : Word64 :=
  if !b.hasSeq then 0 else match n with
    | 0x20 => b.fpc
    | 0x21 => b.finfo
    | _ => b.faddr

/-- A control register as a warp reads it (R449). -/
def State.warpCtl (s : State) (w : Warp) (n : Nat) : Word64 :=
  match n with
  | 0x000 => BitVec.ofNat 64 w.rm
  | 0x001 => w.seed
  | 0x002 => BitVec.ofNat 64 ((s.blockOf w).map (·.wdog) |>.getD 0)
  | 0x010 => w.traps.pc
  | 0x011 => w.traps.npc
  | 0x012 => w.traps.cause
  | 0x013 => w.traps.mask
  | 0x014 => w.traps.addr
  | 0x015 => w.traps.scr0
  | 0x016 => w.traps.scr1
  | _ => ((s.blockOf w).map (·.seqCtl n)).getD 0

/-- SEQ.QSTAT (R383). -/
def Seq.qstat (q : Seq) : Word64 :=
  BitVec.ofNat 64 ((q.c0.filter fun e => match e.work with | .xload _ _ _ _ _ _ _ => true | _ => false).length * 2 ^ 16 +
    q.c1.length * 2 ^ 8 + q.c0.length)

/-- GETCTL (R449). -/
def execGetctl (f : RI) (s : State) : Host.Outcome State Fault Refusal :=
  match s.cur with
  | .slot _ _ => asSlot s f.g fun c _ q =>
    let v := match RI.ctl f with
      | 0x000 => BitVec.ofNat 64 q.rm
      | 0x001 => q.seed
      | 0x023 => q.qstat
      | n => ((s.block q.block).map (·.seqCtl n)).getD 0
    .ok (s.later c 1 1 [.x f.dst.toNat v])
  | _ => asWarp s fun c k w => s.sysRun c k w f.g fun _ => s.ctlResult c k [(f.dst.toNat, s.warpCtl w (RI.ctl f))]

/-- A value SETCTL may write: no reserved value and no reserved bit (R290, R277, R449). -/
def ctlValueOk (n : Nat) (v : Word64) : Bool :=
  match n with
  | 0x000 => decide (v.toNat ≤ 4)
  | 0x002 => decide (v.toNat < 32)
  | 0x003 => decide (v.toNat ≤ 1)
  | _ => true

/-- Write a control register of a warp (R449). -/
def State.setWarpCtl (s : State) (c k : Nat) (w : Warp) (n : Nat) (v : Word64) : State :=
  match n with
  | 0x000 => s.setWarp c k { w with rm := v.toNat }
  | 0x001 => s.setWarp c k { w with seed := v }
  | 0x002 => match s.block w.block with
    | some b => s.setBlock w.block { b with wdog := v.toNat }
    | none => s
  | 0x011 => s.setWarp c k { w with traps := { w.traps with npc := v } }
  | 0x015 => s.setWarp c k { w with traps := { w.traps with scr0 := v } }
  | 0x016 => s.setWarp c k { w with traps := { w.traps with scr1 := v } }
  | _ => s

/-- SETCTL (R449): the trap registers only in trap mode (R268); CTL.TERM ends the context (R279). -/
def execSetctl (f : RI) (s : State) : Host.Outcome State Fault Refusal :=
  match s.cur with
  | .slot _ _ => asSlot s f.g fun c _ q =>
    let v := s.xReg q f.sa.toNat
    if !ctlValueOk (RI.ctl f) v then sIllegal
    else .ok (s.later c 1 1 [if RI.ctl f = 0 then .rm v.toNat else .seed v])
  | _ => asWarp s fun c k w => s.sysRun c k w f.g fun l =>
    let n := RI.ctl f
    let v := s.sArg c k w l f.sa
    if !ctlValueOk n v then wholeTrap w .illegal
    else if 0x10 ≤ n ∧ w.st ≠ .trap then wholeTrap w .illegal
    else if n = 3 then
      (if v = 1 then .jump (s.terminate (s.ctxOf w) 4) else .done s)
    else .done (s.setWarpCtl c k w n v)

/-! The first-event log and the clock. -/

/-- The second register of FELRD (R450). -/
def Fel.word (f : Fel) (withSlot : Bool) : Word64 :=
  BitVec.ofNat 64 (f.sum.toNat * 2 ^ 32 + f.elem % 65536 * 2 ^ 16 + (if withSlot then f.slot * 2 ^ 13 else f.lane * 2 ^ 8) +
    (if f.sum = 0 then 0 else f.code))

/-- FELRD (R450): it issues once every result of the warp's earlier instructions has landed. -/
def execFelrd (f : RR) (s : State) : Host.Outcome State Fault Refusal :=
  asWarp s fun c k w => s.sysRun c k w f.g fun _ =>
    let seq := f.md.getLsbD 1
    let clr := f.md.getLsbD 0
    let hasSeq := ((s.blockOf w).map (·.hasSeq)).getD false
    if seq && !hasSeq then wholeTrap w .illegal
    else if !w.flights.isEmpty then s.again c k w
    else
      let put := fun (s : State) (x : Fel) (sl : Bool) => s.ctlResult c k [(f.dst.toNat, x.pc), (f.dst.toNat + 1, x.word sl)]
      if seq then
        match s.seq c with
        | some q => put (if clr then s.setSeq c { q with fel := {}, felKey := [] } else s) q.fel true
        | none => put s {} true
      else put (if clr then s.setWarp c k { w with fel := {} } else s) w.fel false

/-- CLOCK (R451). -/
def execClock (f : RR) (s : State) : Host.Outcome State Fault Refusal :=
  asWarp s fun c k w => s.sysRun c k w f.g fun _ =>
    s.ctlResult c k [(f.dst.toNat, BitVec.ofNat 64 (if f.md.getLsbD 0 then s.deviceTime else s.clock))]

end Sys2Proof.Machine
end

