-- ==== Sys2Proof/Machine/Barriers.lean ====
section
/-! DEFINITION. Named barriers (R427, R428) and the block's barrier watchdog (R277, R278). -/
namespace Sys2Proof.Machine
open Sys2Proof

/-- A barrier of a block. -/
def Block.bar (b : Block) (n : Nat) : Barrier := b.barriers.getD n {}

/-- A wait that the barrier watchdog covers has ended: it restarts (R277). -/
def State.waitEnded (s : State) (bid : Nat) : State :=
  match s.block bid with
  | some b => s.setBlock bid { b with wdogStart := none }
  | none => s

/-- A warp's BAR at its address has retired. -/
def Warp.dropHeld (w : Warp) : Warp := { w with barHeld := w.barHeld.filter fun e => e.1 != w.pc }

/-- A warp waiting at a barrier returns OK (R427). -/
def freeWaiter (bid n clock : Nat) (w : Warp) : Warp :=
  match w.wait with
  | some (.barrier m _ dst) => if w.block = bid ∧ m = n then w.dropHeld.retire dst 0 clock else w
  | _ => w

/-- An arrival at a barrier (R427). -/
def State.arriveAt (s : State) (c k n expected : Nat) : State :=
  match s.warp c k with
  | none => s
  | some w => match s.block w.block with
    | none => s
    | some b =>
      if b.abandoned then s
      else
        let x := b.bar n
        let exp := if x.arr = 0 then expected else x.exp
        let s1 := s.setWarp c k { w with lastPh := w.lastPh.put n x.phase }
        if x.arr + 1 = exp then
          let s2 := s1.setBlock w.block { b with barriers := b.barriers.put n { phase := x.phase + 1, arr := 0, exp := exp, arrived := 0 } }
          let waiting := s2.warps.any fun e => match e.2.wait with
            | some (.barrier m _ _) => e.2.block == w.block && m == n
            | _ => false
          let s3 := { s2 with warps := mapVals s2.warps fun (_ : Nat) (v : Warp) => freeWaiter w.block n s.clock v }
          if waiting then s3.waitEnded w.block else s3
        else
          s1.setBlock w.block { b with barriers := b.barriers.put n { x with arr := x.arr + 1, exp := exp, arrived := x.arrived ||| (1#32 <<< w.idx) } }

/-- The wait of BARW and BAR (R428): for the phase after the warp's latest arrival, or after the current one. -/
def State.waitAt (s : State) (c k n dst : Nat) (held : Bool) : WRes :=
  match s.warp c k with
  | none => .done s
  | some w => match s.block w.block with
    | none => .done s
    | some b =>
      let phase := (b.bar n).phase
      let last := (w.lastPh.find n).getD phase
      if b.abandoned then (s.setWarp c k w.dropHeld).ctlResult c k [(dst, stAbandoned)]
      else if last < phase then (s.setWarp c k w.dropHeld).ctlResult c k [(dst, 0)]
      else
        let w1 := if held then { w.dropHeld with barHeld := (w.pc, n) :: w.dropHeld.barHeld } else w
        .wait (s.setWarp c k (w1.sleep (.barrier n last dst)))

/-- The barrier an instruction names. -/
def RR.barrier (f : RR) : Nat := (f.md.extractLsb' 0 4).toNat
/-- The expected count (R428). -/
def RR.expected (f : RR) : Nat := f.ty.toNat + 1

/-- BARA (R428). -/
def execBara (f : RR) (s : State) : Host.Outcome State Fault Refusal :=
  asWarp s fun c k w => s.sysRun c k w f.g fun _ => s.coreRelease c k w fun t => .done (t.arriveAt c k (RR.barrier f) (RR.expected f))

/-- BARW (R428). -/
def execBarw (f : RR) (s : State) : Host.Outcome State Fault Refusal :=
  asWarp s fun c k w => s.sysRun c k w f.g fun _ => s.waitAt c k (RR.barrier f) f.dst.toNat false

/-- BAR (R428): issued again after its wait was dropped, it does not arrive a second time (R418). -/
def execBar (f : RR) (s : State) : Host.Outcome State Fault Refusal :=
  asWarp s fun c k w => s.sysRun c k w f.g fun _ =>
    let n := RR.barrier f
    let again := w.barHeld.any fun e => e.1 == w.pc
    if again then s.waitAt c k n f.dst.toNat true
    else s.coreRelease c k w fun t => (t.arriveAt c k n (RR.expected f)).waitAt c k n f.dst.toNat true

/-! The watchdog. -/

/-- The barrier a warp waits at. -/
def Warp.atBarrier (w : Warp) : Option Nat := match w.wait with | some (.barrier n _ _) => some n | _ => none
/-- Does a warp wait at a TAKE? -/
def Warp.atTake (w : Warp) : Bool := match w.wait with | some (.take _ _ _ _) => true | _ => false
/-- Is a warp translation-waiting (R41)? -/
def Warp.xlating (w : Warp) : Bool := match w.wait with | some (.xlate _) => true | _ => false

/-- The warps of a block, by home slot. -/
def State.blockWarps (s : State) (b : Block) : List (Nat × Warp) := b.slots.filterMap fun k => (s.home b.core k).map fun w => (k, w)

/-- Does the sequencer of a block wait at a STAKE? -/
def State.stakeWaiting (s : State) (bid : Nat) (b : Block) : Bool :=
  b.hasSeq && match s.seq b.core with
    | some q => q.block == bid && q.taking && q.st == SeqSt.running
    | none => false

/-- Does the block have a wait that the watchdog covers (R277)? -/
def State.wdogRuns (s : State) (bid : Nat) (b : Block) : Bool :=
  (s.blockWarps b).any (fun x => x.2.atBarrier.isSome || x.2.atTake) || s.stakeWaiting bid b

/-- Is the block's watchdog paused (R41, R277)? -/
def State.wdogPaused (s : State) (b : Block) : Bool :=
  b.st == BlockSt.suspended || b.slots.any fun k => match s.warp b.core k with
    | some w => w.xlating
    | none => false

/-- The watchdogs of a block as the cycle begins (R194, R277): they start, restart with the current period, or are moved on while paused. -/
def State.wdogTick (s : State) (bid : Nat) (b : Block) : Block :=
  let paused := s.wdogPaused b
  let timers := if paused then b.regroupTimers.map fun t => (t.1, t.2.1, t.2.2 + 1) else b.regroupTimers
  let b1 := { b with regroupTimers := timers }
  if !s.wdogRuns bid b && b.st != BlockSt.suspended then { b1 with wdogStart := none }
  else match b.wdogStart with
    | none => { b1 with wdogStart := some s.clock, wdogPeriod := b.wdog % 16 }
    | some t => if paused then { b1 with wdogStart := some (t + 1) } else b1

/-- Has a full period passed with no wait ending (R277)? -/
def State.wdogLate (s : State) (b : Block) : Bool :=
  b.st == BlockSt.resident && b.wdog / 16 % 2 == 1 && match b.wdogStart with
    | some t => decide (t + 65536 * 2 ^ b.wdogPeriod ≤ s.clock)
    | none => false

/-- Warp indices of a mask over a block's warps. -/
def State.idxMask (s : State) (b : Block) (p : Warp → Bool) : Word32 :=
  (s.blockWarps b).foldl (fun (m : Word32) x => if p x.2 then m ||| (1#32 <<< x.2.idx) else m) 0

/-- The record of an expiry (R278, R281). -/
def State.wdogDiag (s : State) (b : Block) : Diag :=
  let ws := s.blockWarps b
  let d : Diag := { kind := 1, core := b.core, cause := .barrierTimeout, lpb := b.lpb, block := b.number, gone := s.goneMask b }
  match sortBy (fun (a b : Nat) => decide (a ≤ b)) (ws.filterMap fun x => x.2.atBarrier) with
  | n :: _ =>
    let x := b.bar n
    let rest := ws.find? fun y => y.2.st != .exited && y.2.st != .halted && !x.arrived.getLsbD y.2.idx
    let e := { d with barrier := n, arrived := x.arrived, expect := x.exp }
    match rest with
    | some y => { e with slot := y.1, pc := y.2.pc }
    | none => e
  | [] => match ws.find? (·.2.atTake) with
    | some y => { d with slot := y.1, pc := y.2.pc }
    | none => { d with slot := 48, pc := ((s.seq b.core).map fun (q : Seq) => q.pc).getD 0 }

/-- BARRIER_WATCHDOG_EXPIRY (R278). -/
def execBarrierWatchdogExpiry (s : State) : Host.Outcome State Fault Refusal :=
  asEvent s fun a => match s.block a.id with
    | some b => if s.wdogLate b then (s.writeDiag b.ctx (s.wdogDiag b)).terminate b.ctx 1 else s
    | none => s

end Sys2Proof.Machine
end

