-- ==== Sys2Proof/Machine/Transfers.lean ====
section
/-! DEFINITION. Transfers of units other than warps (queue entries, copies, stream records, collectives): translation with its waits (R34, R37), reading and writing with poison (R66, R165), and the requests to peers they wait for (R28). -/
namespace Sys2Proof.Machine
open Sys2Proof

/-- A part of a transfer: its space, address and length. -/
structure Part where
  sp : Nat
  ea : Word64
  len : Nat
  deriving DecidableEq, Repr

/-- What the translation of a transfer's parts comes to; a fatal fault with the state in which the entry that failed a check is dropped (R33). -/
inductive Reach where
  | ok (sts : List (Part × Store))
  | wait (s : State)
  | fatal (c : Cause) (addr : Nat) (s : State)
  deriving DecidableEq, Repr

/-- Does an agent wait for a page? -/
def State.waitsPage (s : State) (g : Agt) : Bool :=
  s.misses.any (fun m => m.waiters.any (·.who == g.who)) || s.pfaults.any (fun f => f.waiters.any (·.who == g.who))

/-- Translate the parts of a transfer: a fatal fault first, then the misses, then the replayable faults (R36, R37), then an exchange about a line or the switch of a frame (R148, R158). -/
def State.reachAll (s : State) (g : Agt) (acc : Acc) (parts : List Part) : Reach :=
  let pres := parts.map fun p => (p, s.check g acc p.sp p.ea p.len)
  match pres.findSome? fun x => match x.2 with
      | .bad c => some (c, genericOf x.1.sp x.1.ea, s)
      | .fault c p y => some (c, y, s.dropEntry g p)
      | _ => none with
  | some x => .fatal x.1 x.2.1 x.2.2
  | none =>
    let missed := pres.flatMap fun x => match x.2 with | .miss l => l | _ => []
    let faults := pres.flatMap fun x => match x.2 with | .held fs => fs | _ => []
    if !missed.isEmpty then .wait (s.noteMisses g acc missed)
    else if !faults.isEmpty then .wait (s.raiseFaults g faults)
    else
      let sts := pres.filterMap fun x => match x.2 with | .ok st => some (x.1, st) | _ => none
      if sts.any fun x => s.storeBusy x.2 then .wait s else .ok sts

/-- Pieces of memory with their offsets in the whole. -/
def offsetFrom : Nat → List Piece → List (Nat × Piece)
  | _, [] => []
  | o, p :: ps => (o, p) :: offsetFrom (o + p.len) ps

/-- A chunk of a transfer: where it lies, its length, and the effective address of its first byte. -/
structure Chunk where
  st : Store
  len : Nat
  addr : Nat
  deriving DecidableEq, Repr

/-- The chunks of a part: each piece of memory by itself. -/
def Part.chunks (x : Part × Store) : List Chunk :=
  match x.2 with
  | .mem ps => (offsetFrom 0 ps).map fun e => ⟨.mem [e.2], e.2.len, x.1.ea.toNat + e.1⟩
  | st => [⟨st, x.1.len, x.1.ea.toNat⟩]

/-- A chunk's piece, if it lies at a peer. -/
def Store.peer? : Store → Option Piece
  | .mem [p] => if p.isPeer then some p else none
  | _ => none

/-- What reading a transfer's parts comes to. -/
inductive Pulled where
  | bytes (b : List (Byte × Option Nat))
  | wait (s : State)
  | fatal (c : Cause) (addr : Nat)
  deriving DecidableEq, Repr

/-- The answer kept for a piece of a work. -/
def State.pxFind (s : State) (wid i : Nat) : Option PeerAnswer := (s.pxData.find? fun e => e.1 == wid && e.2.1 == i).map fun e => e.2.2

/-- The bytes of an answer with their poison. -/
def answerBytes (b : List Byte) (poisoned : List Nat) : List (Byte × Option Nat) :=
  b.zipIdx.map fun x => (x.1, if poisoned.contains x.2 then some 0 else none)

/-- Read a transfer's parts: pieces at peers are asked for once, under the work's number, and waited for (R28); bytes of a pod-cacheable page may come from a cache (R27, R57). -/
def State.pull (s : State) (g : Agt) (wid : Nat) (plain : Bool) (sts : List (Part × Store)) : Pulled :=
  let chunks := sts.flatMap Part.chunks
  let asked := chunks.zipIdx.filterMap fun x => (x.1.st.peer?).map fun p => (p, x.2, x.1.addr)
  let begun := s.peerReqs.any (fun r => 48 ≤ r.slot ∧ !r.posted ∧ r.data = wid) || s.pxData.any (·.1 == wid)
  if !asked.isEmpty && !begun then
    .wait (asked.foldl (fun (t : State) a => match s.podHit g plain a.1 with
      | some b => { t with pxData := t.pxData ++ [(wid, a.2.1, .data b [])] }
      | none => t.sendPeer g false plain a.1 a.2.2 a.2.1 wid (.read a.1.len)) s)
  else if asked.any fun a => (s.pxFind wid a.2.1).isNone then .wait s
  else match asked.findSome? fun a => match s.pxFind wid a.2.1 with
      | some .denied => some (Cause.peerDenied, a.2.2)
      | some .unreachable => some (Cause.peerUnreachable, a.2.2)
      | _ => none with
    | some x => .fatal x.1 x.2
    | none => .bytes (chunks.zipIdx.flatMap fun x => match x.1.st.peer?, s.pxFind wid x.2 with
        | some _, some (.data b ps) => answerBytes b ps
        | _, _ => s.bytesWithPoison g plain x.1.st x.1.len)

/-- What the read of a transfer's parts leaves behind (R57, R147, R164). -/
def State.partsRead (s : State) (g : Agt) (plain : Bool) (sts : List (Part × Store)) : State := sts.foldl (fun (s : State) x => s.loadFill g plain x.2) s

/-- Forget the answers of a work. -/
def State.pxDrop (s : State) (wid : Nat) : State := { s with pxData := s.pxData.filter fun e => e.1 != wid }

/-- A fatal fault of an access whose issuer has gone on: the fault queue records the address and the context is terminated (R28, R66, R279). -/
def State.postedFault (s : State) (g : Agt) (c : Cause) (acc : Acc) (addr : Nat) : State :=
  ((s.writeFq g.ctx g.die c ⟨g.who, g.path, addr, acc⟩ 0).1).terminate g.ctx 6

/-- Write a transfer's parts with their poison, pieces at peers as posted requests; what needs the bridge while it is down is discarded and ends the context (R28, R153). -/
def State.deposit (s : State) (g : Agt) (sts : List (Part × Store)) (bytes : List (Byte × Option Nat)) : State :=
  let chunks := sts.flatMap Part.chunks
  let cut := chunks.any fun x => s.severed g x.st
  let s1 := (chunks.foldl (fun (r : State × List (Byte × Option Nat)) x =>
    let now := r.2.take x.len
    let t := match x.st.peer? with
      | some p => r.1.sendPeer g true false p x.addr 0 g.work (.write (now.map Prod.fst) ((List.range now.length).filter fun i => ((now.getD i (0, none)).2).isSome))
      | none => r.1.writeWithPoison g x.st now
    (t, r.2.drop x.len)) (s, bytes)).1
  s1.endSevered g cut

end Sys2Proof.Machine
end

