-- ==== Sys2Proof/Machine/Copies.lean ====
section
/-! DEFINITION. Warp copies and their tags (R63-R68, R424-R426). -/
namespace Sys2Proof.Machine
open Sys2Proof

/-! Addresses of a copy. -/

/-- The agent whose copy is checked at issue: path CP, its translations waited for by the warp (R19, R36, R424). -/
def State.copyIssueAgt (s : State) (c k : Nat) (w : Warp) : Agt :=
  { path := .cp, who := .warp c k, ctx := s.ctxOf w, core := some c, die := dieOf c, block := some w.block }

/-- The first byte of a range from an address on that no region covers; `fuel` regions are enough. -/
def firstHole (rs : List Region) : Nat → Nat → Nat
  | 0, a => a
  | n + 1, a => match rs.find? fun r => decide (r.base ≤ a) && decide (a < r.base + r.len) with
    | some r => firstHole rs n (r.base + r.len)
    | none => a

/-- The address conditions of a copy's range (R9, R12, R19, R21, R424): the cause and the lowest byte that has it. -/
def rangeFault (rs : List Region) (ea : Word64) (n : Nat) : Option (Cause × Nat) :=
  if n = 0 then none
  else if 2 ^ 56 ≤ ea.toNat then some (.addrRange, ea.toNat)
  else
    let h := firstHole rs rs.length ea.toNat
    if h < ea.toNat + n then some (.addrHole, h)
    else match classify rs ea.toNat n with
      | .ok _ => none
      | .error _ => some (.windowStraddle, ea.toNat)

/-- A range of a copy at issue: address, length and kind of access. -/
structure CopyRange where
  ea : Word64
  len : Nat
  acc : Acc
  deriving DecidableEq, Repr

/-- The condition of the highest rank among ranges, the earlier range on equal rank (R22, R424). -/
def worstRange (rs : List Region) (xs : List CopyRange) : Option (Cause × Nat) :=
  xs.foldl (fun (b : Option (Cause × Nat)) x => match b, rangeFault rs x.ea x.len with
    | none, y => y
    | some u, some v => if v.1.rank < u.1.rank then some v else some u
    | some u, none => some u) none

/-- Translate the first page of each range at issue (R36, R424): the misses are waited for, then a fatal fault traps, then replayable faults are waited for. -/
def State.firstPages (s : State) (c k : Nat) (g : Agt) (xs : List CopyRange) : Except WRes Unit :=
  let pres := (xs.filter fun x => x.len != 0).map fun x => (x, s.check g x.acc 0 x.ea 1)
  match pres.find? (fun x => match x.2 with | .miss _ => true | _ => false) with
  | some (x, .miss l) => .error (.wait (s.holdWarp c k g x.acc l))
  | _ => match pres.findSome? fun x => match x.2 with | .fault y p a => some (y, p, a) | _ => none with
    | some f =>
      let l := match s.warp c k with | some w => lowLane w.active | none => 0
      .error (.trap { cause := f.1, lane := l, addr := f.2.2, drops := [f.2.1] })
    | none => match pres.flatMap fun x => match x.2 with | .held fs => fs | _ => [] with
      | [] => .ok ()
      | fs => .error (.wait (s.holdFaults c k g fs))

/-! Issue. -/

/-- The tag of the core that a block's tag names (R63). -/
def State.coreTag (s : State) (_c : Nat) (w : Warp) (tag : Nat) : Nat := ((s.blockOf w).map fun (b : Block) => b.tagBase + tag).getD tag
/-- The tag count of a warp's block (R63). -/
def State.tagCountOf (s : State) (w : Warp) : Nat := ((s.blockOf w).map fun (b : Block) => b.tagCount).getD 0
/-- A tag of a core (R64). -/
def State.tag (s : State) (c t : Nat) : Tag := (s.core c).tags.getD t {}
/-- Replace a tag of a core. -/
def State.setTag (s : State) (c t : Nat) (x : Tag) : State := s.setCore c { s.core c with tags := (s.core c).tags.put t x }

/-- Issue a copy (R64): a tag with 255 copies in flight or a core with 256 holds the warp. -/
def State.issueCopy (s : State) (c k : Nat) (w : Warp) (tag : Nat) (work : CopyWork) : WRes :=
  let t := s.coreTag c w tag
  let x := s.tag c t
  if 255 ≤ x.count ∨ 256 ≤ (s.core c).copies.length then s.again c k w
  else
    let (id, s1) := s.newId
    let s2 := s1.setTag c t { x with count := x.count + 1, ready := false }
    let s3 := s2.setCore c { s2.core c with copies := (s2.core c).copies ++ [⟨id, w.block, s.ctxOf w, k, t, s.clock + s.latency, work, false⟩] }
    .done (match work with
      | .load n _ _ _ => s3.setTile c n { s3.tile c n with st := .filling, hold := 49 }
      | _ => s3)

/-- CPY (R424). -/
def execCpy (f : RR) (s : State) : Host.Outcome State Fault Refusal :=
  asWarp s fun c k w => s.fullRun c k w f.g fun l =>
    let dst := s.sArg c k w l f.sa
    let src := s.sArg c k w l f.sb
    let n := (s.sArg c k w l f.sc).toNat
    let tag := (f.md.extractLsb' 0 6).toNat
    if 2 ^ 24 < n then wholeTrap w .illegal
    else if s.tagCountOf w ≤ tag then wholeTrap w .tagRange
    else
      let g := s.copyIssueAgt c k w
      let xs : List CopyRange := [⟨src, n, .read⟩, ⟨dst, n, .write⟩]
      match worstRange (s.regions g) xs with
      | some x => addrTrap w x.1 x.2
      | none => match s.firstPages c k g xs with
        | .error r => r
        | .ok _ => s.issueCopy c k w tag (.bytes src dst n)

/-- The tile of a map entry that the warp owns, or its trap (R44, R51). -/
def State.entryTile (s : State) (c k : Nat) (w : Warp) (entry : Nat) : Except WRes Nat :=
  let t := w.tmap.getD entry 0xFF
  if t = 0xFF then .error (wholeTrap w .regRange)
  else if (s.tile c t).ownedBy (s.ctxOf w) k then .ok t
  else .error (wholeTrap w .tileOwner)

/-- The checks of a tile copy, in R22's order (R68, R424, R425). -/
def State.tileRange (s : State) (c k : Nat) (w : Warp) (tag xp : Nat) (base stride : Word64) (acc : Acc) : Except WRes Unit :=
  let (rows, len) := if xp = 1 then (256, 16) else if xp = 2 then (128, 32) else (16, 256)
  let g := s.copyIssueAgt c k w
  let xs : List CopyRange := (List.range rows).map fun r => ⟨base + stride * BitVec.ofNat 64 r, len, acc⟩
  if s.tagCountOf w ≤ tag then .error (wholeTrap w .tagRange)
  else match worstRange (s.regions g) xs, decide (base.toNat % 16 ≠ 0 ∨ stride.toNat % 16 ≠ 0 ∨ stride.toNat < len) with
    | some (.addrRange, a), _ => .error (addrTrap w .addrRange a)
    | _, true => .error (addrTrap w .misaligned base.toNat)
    | some x, false => .error (addrTrap w x.1 x.2)
    | none, false => s.firstPages c k g (xs.take 1)

/-- A tile copy between a map entry and memory (R425). -/
def State.copyTile (s : State) (c k : Nat) (w : Warp) (f : RR) (store : Bool) : WRes :=
  s.fullRun c k w f.g fun l =>
    let base := s.sArg c k w l f.sa
    let stride := s.sArg c k w l f.sb
    let tag := (f.md.extractLsb' 0 6).toNat
    let xp := (f.ty.extractLsb' 0 2).toNat
    match s.entryTile c k w f.dst.toNat with
    | .error r => r
    | .ok t => match s.tileRange c k w tag xp base stride (if store then .write else .read) with
      | .error r => r
      | .ok _ => match s.wakeBanks c [t] with
        | some x => x.again c k w
        | none =>
          let now := (List.range 1024).map fun i => (i, s.readElem c w t i)
          s.issueCopy c k w tag (if store then .store t now base stride else .load t xp base stride)

/-- CPYL (R425). -/
def execCpyl (f : RR) (s : State) : Host.Outcome State Fault Refusal := asWarp s fun c k w => s.copyTile c k w f false
/-- CPYL.ST (R425). -/
def execCpylSt (f : RR) (s : State) : Host.Outcome State Fault Refusal := asWarp s fun c k w => s.copyTile c k w f true

/-! Completion. -/

/-- The agent a copy in flight is (R37). -/
def Copy.agt (x : Copy) (c : Nat) : Agt :=
  { path := .cp, who := .copy c x.id, ctx := x.ctx, core := some c, die := dieOf c, block := some x.block, work := x.id }

/-- The rows of a tile copy. -/
def copyParts (base stride : Word64) (rows len : Nat) : List Part := (List.range rows).map fun r => ⟨0, base + stride * BitVec.ofNat 64 r, len⟩

/-- The source and destination parts of a copy's memory side. -/
def CopyWork.parts : CopyWork → List Part × List Part
  | .bytes src dst n => if n = 0 then ([], []) else ([⟨0, src, n⟩], [⟨0, dst, n⟩])
  | .load _ xp base stride => (copyParts base stride (tileRowsOf xp).1 (tileRowsOf xp).2, [])
  | .store _ _ base stride => ([], copyParts base stride 16 256)

/-- A copy of overlapping ranges: each destination byte receives the source byte's old value or the value the copy writes there (R424). `d` is the distance from destination to source; bytes are taken from the end the source lies away from, so that a new value is known when it is wanted; the choice is one for every `unit` bytes (R88). -/
def overlapBytes {α : Type} (free unit : Nat) (old : List α) (d : Int) : List α :=
  let n := old.length
  let order := if d < 0 then List.range n else (List.range n).reverse
  let out := order.foldl (fun (r : Assoc α) (i : Nat) =>
    let m := (i : Int) + d
    let new := if 0 ≤ m then r.find m.toNat else none
    match new, old[i]? with
    | some v, some o => r.put i (if Config.freeNew free (i / unit) then v else o)
    | none, some o => r.put i o
    | _, none => r) ([] : Assoc α)
  out.map Prod.snd

/-- The bytes a copy writes. -/
def CopyWork.result (x : CopyWork) (free : Nat) (b : List (Byte × Option Nat)) : List (Byte × Option Nat) :=
  match x with
  | .bytes src dst n =>
    if src.toNat < dst.toNat + n ∧ dst.toNat < src.toNat + n ∧ src ≠ dst then overlapBytes free (if src.toNat % 16 = 0 ∧ dst.toNat % 16 = 0 then 16 else 1) b ((src.toNat : Int) - dst.toNat) else b
  | _ => b

/-- The elements of a tile store: those read at issue, or what the tile holds now, by free choice where they differ (R65, R419). -/
def State.storeElems (s : State) (c t : Nat) (was : Assoc Elem) : Assoc Elem :=
  let now := s.tile c t
  (expand was).zipIdx.map fun x => (x.2, if Config.freeNew s.free x.2 then now.elems.getD x.2 {} else x.1)

/-- A copy has completed: its tag counts down, a tile it filled is its issuer's again (R64, R65). -/
def State.endCopy (s : State) (c : Nat) (x : Copy) : State :=
  let s1 := s.setCore c { s.core c with copies := (s.core c).copies.filter fun (y : Copy) => y.id != x.id }
  let t := s1.tag c x.tag
  let s2 := s1.setTag c x.tag { count := t.count - 1, ready := t.ready || t.count == 1 }
  (s2.pxDrop x.id).clearFails (.copy c x.id)

/-- A tile load lands: the tile is its issuer's again (R65). -/
def State.copyLands (s : State) (c : Nat) (x : Copy) (t xp : Nat) (b : List (Byte × Option Nat)) : State :=
  let y := s.tile c t
  if y.st = .filling ∧ y.hold = 49 then s.setTile c t { y with elems := tileFromBytes xp b, st := .owned, hold := x.slot } else s

/-- A copy's bytes have left: it completes, or waits until its peers acknowledge them (R64, R107). -/
def State.copyDone (s : State) (c : Nat) (x : Copy) : State :=
  if s.workOut x.id then
    s.setCore c { s.core c with copies := (s.core c).copies.map fun (y : Copy) => if y.id = x.id then { y with sent := true } else y }
  else s.endCopy c x

/-- Perform a copy whole (R64-R67, R88). -/
def State.performCopy (s : State) (c : Nat) (x : Copy) : State :=
  let g := x.agt c
  let (srcs, dsts) := x.work.parts
  if x.sent then s.copyDone c x
  else match s.reachAll g .read srcs, s.reachAll g .write dsts with
  | .fatal e a t, _ => t.postedFault g e .read a
  | _, .fatal e a t => t.postedFault g e .write a
  | .wait t, _ => t
  | _, .wait t => t
  | .ok ss, .ok ds => match s.pull g x.id true ss with
    | .wait t => t
    | .fatal e a => s.postedFault g e .read a
    | .bytes b =>
      let s1 := s.partsRead g true ss
      let s2 := match x.work with
        | .load t xp _ _ => s1.copyLands c x t xp b
        | .store t es _ _ => s1.deposit g ds (tileToBytes (s1.storeElems c t es))
        | .bytes _ _ _ => s1.deposit g ds (x.work.result s.free b)
      s2.copyDone c x

/-- The copies of a core that can be performed now. -/
def State.readyCopies (s : State) (c : Nat) : List Copy :=
  (s.core c).copies.filter fun x => decide (x.due ≤ s.clock) && !s.waitsPage (x.agt c) && !(x.sent && s.workOut x.id)

/-- COPY_COMPLETION (R64). -/
def execCopyCompletion (s : State) : Host.Outcome State Fault Refusal :=
  asEvent s fun a => match (s.readyCopies a.core).find? fun x => x.id == a.id with
    | some x => (s.performCopy a.core x).draw
    | none => s

/-! Tag waits (R426). -/

/-- The tags of a mask. -/
def maskTags (m : Word64) : List Nat := (List.range 64).filter (m.getLsbD ·)

/-- The ready bitmap of a block (R63). -/
def State.readyMap (s : State) (c : Nat) (w : Warp) : Word64 :=
  (List.range (s.tagCountOf w)).foldl (fun (m : Word64) i => if (s.tag c (s.coreTag c w i)).ready then m ||| (1#64 <<< i) else m) 0

/-- Has every tag of a mask no copy in flight? -/
def State.tagsIdle (s : State) (c : Nat) (w : Warp) (m : Word64) : Bool := (maskTags m).all fun i => (s.tag c (s.coreTag c w i)).count == 0

/-- A tag wait over a mask: TAG-RANGE at or beyond the block's count (R426). -/
def State.tagRun (s : State) (c k : Nat) (w : Warp) (f : RR) (body : Word64 → WRes) : WRes :=
  s.sysRun c k w f.g fun l =>
    let m := s.sArg c k w l f.sa
    if (maskTags m).any fun i => decide (s.tagCountOf w ≤ i) then wholeTrap w .tagRange else body m

/-- CWANY (R426). -/
def execCwany (f : RR) (s : State) : Host.Outcome State Fault Refusal :=
  asWarp s fun c k w => s.tagRun c k w f fun m =>
    let r := s.readyMap c w &&& m
    if r != 0 || s.tagsIdle c w m then s.sysResult c k f [(f.dst.toNat, r)] else s.again c k w

/-- CWALL (R426). -/
def execCwall (f : RR) (s : State) : Host.Outcome State Fault Refusal :=
  asWarp s fun c k w => s.tagRun c k w f fun m => if s.tagsIdle c w m then .done s else s.again c k w

/-- CFIND (R426). -/
def execCfind (f : RR) (s : State) : Host.Outcome State Fault Refusal :=
  asWarp s fun c k w => s.tagRun c k w f fun m =>
    s.sysResult c k f [(f.dst.toNat, BitVec.ofNat 64 (((maskTags (s.readyMap c w &&& m)).head?).getD 64))]

end Sys2Proof.Machine
end

