-- ==== Sys2Proof/Machine/Reliability.lean ====
section
/-! DEFINITION. The memory error log (R168, R169), drip counters (R170-R172), and the freeze line (R284). -/
namespace Sys2Proof.Machine
open Sys2Proof

/-! The memory error log. -/

/-- A memory error record but for its sequence number and time (R169). -/
structure MemErr where
  pa : Nat := 0
  status : Nat
  flags : Nat := 0
  ctx : Nat := 0xFF
  key : Nat := 0
  uclass : Nat := 0
  uindex : Nat := 0
  deriving DecidableEq, Repr

/-- The 32 bytes of a memory error record (R169). -/
def MemErr.bytes (e : MemErr) (seq time : Nat) : List Byte :=
  leBytes 8 e.pa ++ leBytes 8 seq ++ leBytes 1 e.status ++ leBytes 1 e.flags ++ leBytes 1 e.ctx ++ leBytes 1 e.key ++
  leBytes 1 e.uclass ++ leBytes 1 0 ++ leBytes 2 e.uindex ++ leBytes 4 (time % 2 ^ 32) ++ leBytes 4 0

/-- A die's memory error log. -/
def State.melOf (s : State) (die : Nat) : LogRing := if die = 0 then s.mel.1 else s.mel.2
/-- Replace a die's memory error log. -/
def State.setMel (s : State) (die : Nat) (r : LogRing) : State := { s with mel := if die = 0 then (r, s.mel.2) else (s.mel.1, r) }

/-- A die writes a record and raises the interrupt, or drops it (R169).
DESIGN CHOICE (log entry 29): SEQ counts the dropped records too. -/
def State.writeMel (s : State) (die : Nat) (e : MemErr) : State :=
  let r := s.melOf die
  if r.full then s.setMel die { r with ovf := true, drops := r.drops + 1, seq := r.seq + 1 }
  else
    let s1 := s.writePhys (r.base + 32 * (r.tail % r.size)) (e.bytes r.seq s.deviceTime)
    (s1.setMel die { r with tail := r.tail + 1, seq := r.seq + 1 }).interrupt (.memLog die)

/-- Does a step report an error in an atomic's result (R155)? -/
def resultError (r : SectorReport) : Bool := r != {}

/-- An error that a die detects in the result of an applied atomic is logged with the requester's context (R155, R168, R169). -/
def State.logApplied (s : State) (die pa ctx : Nat) : State := s.writeMel die { pa := pa / 64 * 64, status := 6, ctx := ctx }

/-- The command processor acts on a failed integrity check (R163, R164): it is logged with the key's owner, whose context is terminated. -/
def State.integrityFails (s : State) (x : TagFail) : State :=
  let owner := s.keys.find x.key
  let s1 := s.writeMel (homeDie (x.sector * 64)) { pa := x.sector * 64, status := 3, flags := if x.rmw then 2 else 0, ctx := owner.getD 0xFF, key := x.key }
  match owner with
  | some c => s1.terminate c 5
  | none => s1

/-- An access to a port that is down is logged as CXL-UE (R168, R455). -/
def State.portFails (s : State) (x : TagFail) : State :=
  s.writeMel (homeDie (x.sector * 64)) { pa := x.sector * 64, status := 8, flags := if x.key = 0 then 0 else 1, key := x.key }

/-- The errors that accesses have noted are acted on. -/
def State.actOnTags (s : State) : State :=
  s.tagFails.foldl (fun (s : State) x => if x.port then s.portFails x else s.integrityFails x) { s with tagFails := [] }

/-! The freeze line. -/

/-- A trigger raises the freeze line (R284). -/
def State.raiseFreeze (s : State) : State := if s.frzTrig.isNone then { s with frzTrig := some s.clock } else s

/-! Drip counters. -/

/-- The counter of a unit (R171). -/
def State.dripOf (s : State) (uclass uindex : Nat) : Drip :=
  match s.drip.find? fun e => e.1 == uclass && e.2.1 == uindex with
  | some e => e.2.2
  | none => {}
/-- Replace the counter of a unit. -/
def State.setDrip (s : State) (uclass uindex : Nat) (d : Drip) : State :=
  { s with drip := (s.drip.filter fun e => !(e.1 == uclass && e.2.1 == uindex)) ++ [(uclass, uindex, d)] }

/-- The die whose log names a unit (R170).
DESIGN CHOICE (log entry 29): a cluster, a CXL port and a bridge module, which are of no one die, are logged on die 0. -/
def unitDie (uclass uindex : Nat) : Nat :=
  match uclass with
  | 1 => dieOf (uindex / 16)
  | 2 => dieOf (uindex / 128)
  | 4 => uindex / 64
  | 5 => uindex / 1024 / 6
  | 6 => uindex / 4
  | _ => 0

/-- The brim mark in force: 0 is treated as 1 (R171). -/
def Drip.mark (d : Drip) : Nat := max 1 d.brim

/-- Has a counter risen to its brim while armed (R172)? -/
def Drip.brims (d : Drip) : Bool := d.armed && decide (d.mark ≤ d.level)

/-- A corrected error fills a unit's counter; at the brim one predictive-failure event is raised and logged (R172). -/
def State.correctedError (s : State) (uclass uindex : Nat) : State :=
  let d := s.dripOf uclass uindex
  if !d.en then s
  else
    let d1 := { d with level := min 0xFFFF (d.level + d.inc) }
    if decide (d.level < d1.level) && d1.brims then
      let s1 := s.setDrip uclass uindex { d1 with fired := true, armed := false }
      let s2 := (s1.writeMel (unitDie uclass uindex) { status := 9, uclass := uclass, uindex := uindex }).interrupt (.brim uclass uindex)
      if s.frzCtl.onbrim then s2.raiseFreeze else s2
    else s.setDrip uclass uindex d1

/-- One unit drains; at half the brim mark the counter arms again (R172). -/
def Drip.drained (d : Drip) : Drip :=
  let n := d.level - 1
  { d with level := n, armed := d.armed || decide (n ≤ d.mark / 2) }

/-- The units of a class (R170). -/
def unitCount (uclass : Nat) : Nat :=
  match uclass with
  | 1 => 3072
  | 2 => 24576
  | 3 => 12
  | 4 => 128
  | 5 => 12288
  | 6 => 8
  | 7 => 16
  | _ => 0

/-- DRIP_DRAIN (R172): the counter of unit class `addr` and index `id`; with `flag` the unit's logic reports a corrected error instead. -/
def execDripDrain (s : State) : Host.Outcome State Fault Refusal :=
  asEvent s fun a =>
    let d := s.dripOf a.addr a.id
    if a.flag then (if a.id < unitCount a.addr then s.correctedError a.addr a.id else s)
    else if d.level = 0 then s
    else s.setDrip a.addr a.id d.drained

/-- Does a counter drain in this cycle (R171)?
DESIGN CHOICE (log entry 29): the drain intervals of every counter are counted from cycle 0 of the package clock. -/
def Drip.drainsAt (d : Drip) (clock : Nat) : Bool := decide (0 < d.level) && clock % (65536 * 2 ^ d.shift) == 0

/-- Write a DRIP register (R171). -/
def Drip.write (d : Drip) (v : Word64) : Drip :=
  { d with
    brim := (v.extractLsb' 32 16).toNat
    shift := (v.extractLsb' 23 4).toNat
    inc := (v.extractLsb' 15 8).toNat
    fired := d.fired && !v.getLsbD 2
    en := v.getLsbD 0 }

/-! Freezing (R284). -/

/-- FREEZE_NOW: a 1 to FRZ.CTL.NOW (R284). -/
def execFreezeNow (s : State) : Host.Outcome State Fault Refusal := asEvent s fun _ => s.raiseFreeze

/-- Has the freeze line been up for 32 cycles? -/
def State.freezeDue (s : State) : Bool := match s.frzTrig with | some t => !s.frozen && decide (t + 32 ≤ s.clock) | none => false

/-- FREEZE (R284): 32 cycles after the trigger every clock stops. -/
def execFreeze (s : State) : Host.Outcome State Fault Refusal :=
  asEvent s fun _ => if s.freezeDue then { s with frozen := true } else s

end Sys2Proof.Machine
end

