-- ==== Sys2Proof/Machine/Control.lean ====
section
/-! DEFINITION. The control instructions of a warp (R190-R195, R360-R363), and the two device steps that end a regroup's wait (R194). -/
namespace Sys2Proof.Machine
open Sys2Proof

/-- The target of a branch word (R320). -/
def BR.target (f : BR) (w : Warp) : Word64 := w.pc + f.tgt.signExtend 64

/-- A branch of the whole warp, whose guard must agree among the active lanes: nothing where it is false (R190, R360). -/
def State.uniformly (s : State) (c k : Nat) (w : Warp) (n : Need) (f : WRes) : WRes :=
  match s.prep c k w n with
  | .error r => r
  | .ok lanes => if !uniformGuard w.active lanes then wholeTrap w .nonuniform else if lanes = 0 then .done s else f

/-- BRA (R361). -/
def execBra (f : BR) (s : State) : Host.Outcome State Fault Refusal :=
  asWarp s fun c k w => s.uniformly c k w { g := f.g } (.jump (s.setWarp c k (w.goTo (BR.target f w) s.clock)))

/-- BRX (R190): its guard is the condition. -/
def execBrx (f : BR) (s : State) : Host.Outcome State Fault Refusal :=
  asWarp s fun c k w => match s.prep c k w { g := f.g } with
    | .error r => r
    | .ok lanes => s.branch c k w lanes (BR.target f w)

/-- BRX.G (R193, R194). -/
def execBrxG (f : BR) (s : State) : Host.Outcome State Fault Refusal :=
  asWarp s fun c k w => match s.prep c k w { g := f.g } with
    | .error r => r
    | .ok lanes => s.brxG c k w lanes (BR.target f w)

/-- JOIN (R191); in a regrouped warp with its own stack empty it ends the warp's part once its results have landed (R195). -/
def execJoin (_f : BR) (s : State) : Host.Outcome State Fault Refusal :=
  asWarp s fun c k w =>
    if w.isRegrouped && w.stack.isEmpty then
      if w.flights.isEmpty then .jump ((s.noteEnded w.block k (w.ends w.active (w.pc + 8))).endPart c k w)
      else .wait (s.setWarp c k (w.sleep .retry))
    else s.joinAt c k w (lowLane w.active) (w.pc + 8)

/-- CALL (R361). -/
def execCall (f : BR) (s : State) : Host.Outcome State Fault Refusal :=
  asWarp s fun c k w => s.uniformly c k w { g := f.g } (match s.push c k w ⟨w.pc + 8, w.active, .ret⟩ with
    | .error r => r
    | .ok (s1, w1) => .jump (s1.setWarp c k (w1.goTo (BR.target f w) s.clock)))

/-- RET (R362). -/
def execRet (_f : BR) (s : State) : Host.Outcome State Fault Refusal :=
  asWarp s fun c k w => match s.fillStack c k w with
    | .error r => r
    | .ok v => match v.stack with
      | ⟨pc, m, .ret⟩ :: rest =>
        let live := m &&& ~~~ v.exited
        let x := { v with stack := rest, active := live }
        if live = 0 then s.joinAt c k x (lowLane w.active) pc else .jump (s.setWarp c k (x.goTo pc s.clock))
      | _ => wholeTrap w .illegal

/-- The lanes of a regrouped warp leave their home warps (R363). -/
def State.exitHomes (s : State) (c k : Nat) (w : Warp) (lanes : Word32) : State :=
  (lanesOf lanes).foldl (fun (s : State) l => match s.home c (w.homeOf k l) with
    | some h => s.setHome c (w.homeOf k l) (h.exitLanes (1#32 <<< l))
    | none => s) s

/-- EXIT of lanes of a regrouped warp (R195, R363). -/
def State.exitRegrouped (s : State) (c k : Nat) (w : Warp) (lanes : Word32) : WRes :=
  let x := w.exitLanes lanes
  let s1 := ((s.exitHomes c k w lanes).noteEnded w.block k (w.ends lanes (w.pc + 8))).setWarp c k x
  if x.live = 0 then .jump (s1.endPart c k x)
  else if x.active = 0 then s1.joinAt c k x (lowLane w.active) (w.pc + 8)
  else .done s1

/-- EXIT (R363). -/
def execExit (f : BR) (s : State) : Host.Outcome State Fault Refusal :=
  asWarp s fun c k w => match s.prep c k w { g := f.g } with
    | .error r => r
    | .ok lanes =>
      if lanes = 0 then .done s
      else if w.isRegrouped then s.exitRegrouped c k w lanes
      else
        let x := w.exitLanes lanes
        if x.live = 0 then .jump (s.setWarp c k { x with st := .exited, wait := none })
        else if x.active = 0 then s.joinAt c k x (lowLane w.active) (w.pc + 8)
        else .done (s.setWarp c k x)

/-- YIELD (R361): it stands last in its clause, whose end sets the ready age (R218). -/
def execYield (_f : BR) (s : State) : Host.Outcome State Fault Refusal :=
  asWarp s fun _ _ _ => .done s

/-- The register operand of a MEM base (R314): none for 0xFF. -/
def baseSrc (code : BitVec 8) : Option Src :=
  if code = 0xFF then none
  else if code.getLsbD 0 then some ⟨(code.toNat - 1) / 2, true, true⟩
  else some ⟨code.toNat, false, true⟩

/-- The value of a MEM base in a lane (R314, R364). -/
def State.baseVal (s : State) (c k : Nat) (w : Warp) (l : Nat) (code : BitVec 8) : Word64 :=
  match baseSrc code with
  | some x => (s.readSrc c k w l x).1
  | none => 0

/-- BRI (R361): the base must hold one value in every active lane. -/
def execBri (f : BR) (s : State) : Host.Outcome State Fault Refusal :=
  asWarp s fun c k w =>
    let code := f.md.extractLsb' 0 8
    let target := s.baseVal c k w (lowLane w.active) code
    s.uniformly c k w { g := f.g, srcs := (baseSrc code).toList }
      (if (lanesOf w.active).all fun l => s.baseVal c k w l code == target
       then .jump (s.setWarp c k (w.goTo target s.clock)) else wholeTrap w .nonuniform)

/-- REGROUP_COMPLETION: every key of a block completes its regroup (R194, R195). -/
def execRegroupCompletion (s : State) : Host.Outcome State Fault Refusal := asEvent s fun a => s.regroupAll a.id

/-- REGROUP_TIMEOUT: a regroup not completed in time is released ungrouped (R194). -/
def execRegroupTimeout (s : State) : Host.Outcome State Fault Refusal := asEvent s fun a => s.regroupRelease a.id

end Sys2Proof.Machine
end

