-- ==== Sys2Proof/Machine/WarpMem.lean ====
section
/-! DEFINITION. The memory instructions of a warp (R364-R370). -/
namespace Sys2Proof.Machine
open Sys2Proof

/-- The bytes of a MEM access (R318). -/
def MEM.bytes (f : MEM) : Nat := 2 ^ f.sz.toNat
/-- The registers of a DATA group of n bytes (R364). -/
def dataGroup (d n : Nat) : List Nat := (List.range (max 1 (n / 4))).map (d + ·)
/-- The offset, 20 bits or 16 bits for atomics (R318). -/
def MEM.offset (f : MEM) (atomic : Bool) : Word64 :=
  if atomic then (f.off.extractLsb' 0 16).signExtend 64 else f.off.signExtend 64
/-- Is the access ordered (R86)? -/
def MEM.ordered (f : MEM) : Bool := f.ord != 0
/-- An acquire of cluster scope or wider (R57, R85). -/
def MEM.wideAcquire (f : MEM) : Bool := f.ord.getLsbD 0 && f.scope != 0

/-- 32-bit sources over a group of registers. -/
def groupSrcs (rs : List Nat) : List Src := rs.map fun r => ⟨r, false, false⟩

/-- The value of a group of registers in a lane, lowest register least significant (R364). -/
def State.groupVal (s : State) (c k : Nat) (w : Warp) (l : Nat) (rs : List Nat) : Nat :=
  rs.foldr (fun r v => (s.readV c k w l r).bits.toNat + 2 ^ 32 * v) 0

/-- Register writes of bytes to a group, each register poisoned by any poisoned byte (R165, R364). -/
def State.groupWrites (s : State) (c k : Nat) (w : Warp) (l : Nat) (rs : List Nat) (bytes : List (Byte × Option Nat)) : List RegWrite :=
  rs.zipIdx.flatMap fun r =>
    let bs := (bytes.drop (4 * r.2)).take 4
    s.vWrites c k w l r.1 false (BitVec.ofNat 64 (leNat (bs.map Prod.fst))) (bs.findSome? Prod.snd)

/-- The access of a lane: its address from base and offset (R18, R364). -/
def State.laneAcc (s : State) (c k : Nat) (w : Warp) (f : MEM) (acc : Acc) (atomic : Bool) (n l : Nat) : LaneAcc :=
  let ea := s.baseVal c k w l f.base + MEM.offset f atomic
  let g := s.laneAgt c k w l
  ⟨l, g, ea, s.meet g acc f.sp.toNat (atomic || MEM.ordered f) ea n⟩

/-- Run a memory instruction over lanes: the register checks, then the addresses of every lane that takes part, then the accesses (R36, R337, R339). -/
def State.memRun (s : State) (c k : Nat) (w : Warp) (f : MEM) (acc : Acc) (atomic : Bool) (srcs dsts : List Nat)
    (perform : List (LaneAcc × Store) → WRes) : WRes :=
  match s.prep c k w { g := f.g, srcs := (baseSrc f.base).toList ++ groupSrcs srcs, dsts := dsts } with
  | .error r => r
  | .ok lanes =>
    -- a release waits for every store it follows (R57, R97)
    if f.ord.getLsbD 1 && s.postedOut c k then .wait (s.awaitWrites c k w)
    else match s.reach c k acc f.sp.toNat ((lanesOf lanes).map (s.laneAcc c k w f acc atomic (MEM.bytes f))) with
    | .error r => r
    | .ok as => perform as

/-! Loads. -/

/-- Bytes read here, as the answer of a peer would carry them. -/
def answerOf (b : List (Byte × Option Nat)) : PeerAnswer :=
  .data (b.map Prod.fst) ((List.range b.length).filter fun i => ((b.getD i (0, none)).2).isSome)

/-- Keep bytes for an instruction of a warp as an answer would bring them. -/
def State.keepAnswer (s : State) (g : Agt) (key : Nat) (x : PeerAnswer) : State :=
  match g.who with
  | .warp c k => match s.warp c k with
    | some w => s.setWarp c k { w with pxRes := w.pxRes ++ [(key, x)] }
    | none => s
  | _ => s

/-- Bytes a lane reads here or finds in a cache, and the requests of its pieces at peers (R27): the answers kept or outstanding by lane and piece. -/
def State.readPieces' (s : State) (g : Agt) (plain : Bool) (st : Store) (addr lane data n : Nat) (op : Piece → PeerOp) : State :=
  match st with
  | .mem ps =>
    (ps.zipIdx.foldl (fun (r : State × Nat) p =>
      let key := lane * 8 + p.2
      let s1 := if p.1.isPeer then (match r.1.podHit g plain p.1 with
          | some b => r.1.keepAnswer g key (.data b [])
          | none => r.1.sendPeer g false plain p.1 r.2 key data (op p.1))
        else (r.1.keepAnswer g key (answerOf (r.1.bytesWithPoison g plain (.mem [p.1]) p.1.len))).loadFill g plain (.mem [p.1])
      (s1, r.2 + p.1.len)) (s, addr)).1
  | _ => s.keepAnswer g (lane * 8) (answerOf (s.bytesWithPoison g plain st n))

/-- Does an instruction reach a peer? -/
def anyPeer (as : List (LaneAcc × Store)) : Bool := as.any fun a => !a.2.peers.isEmpty

/-- The warp waits for the answers of its peers (R28); with every byte found in caches it goes on at its next turn. -/
def State.awaitPeers (s : State) (c k : Nat) : WRes :=
  match s.warp c k with
  | some w => .wait (s.setWarp c k (w.sleep (if s.peerReqs.any fun q => !q.posted && q.core == c && q.slot == k then .peer else .retry)))
  | none => .done s

/-- The bytes of an answer with their poison. -/
def PeerAnswer.pairs : PeerAnswer → List (Byte × Option Nat)
  | .data b ps => b.zipIdx.map fun x => (x.1, if ps.contains x.2 then some 0 else none)
  | _ => []

/-- The cause an answer brings, if its peer failed (R28). -/
def PeerAnswer.cause : PeerAnswer → Option Cause
  | .denied => some .peerDenied
  | .unreachable => some .peerUnreachable
  | _ => none

/-- The answers that have come for an instruction, by lane and piece. -/
def Warp.answers (w : Warp) : List (Nat × PeerAnswer) := sortBy (fun (a b : Nat × PeerAnswer) => decide (a.1 ≤ b.1)) w.pxRes

/-- Every answer has come and the instruction issues again: the lowest lane's failure traps past the instruction, with no lane's destination written; else the lanes' bytes, in lane order (R28). -/
def State.peerDone (s : State) (c k : Nat) (w : Warp) (f : MEM) (atomic : Bool) (perform : State → List (Nat × List (Byte × Option Nat)) → WRes) : WRes :=
  match w.answers.findSome? fun a => (PeerAnswer.cause a.2).map fun x => (a.1, x) with
  | some (key, cause) =>
    let l := key / 8
    let before := w.answers.flatMap fun a => if a.1 / 8 = l ∧ a.1 < key then PeerAnswer.pairs a.2 else []
    .trap { cause := cause, lane := l, addr := genericOf f.sp.toNat (s.baseVal c k w l f.base + MEM.offset f atomic) + before.length, past := true }
  | none =>
    let ls := (w.answers.map fun a => a.1 / 8).eraseDups
    perform (s.setWarp c k { w with pxRes := [] }) (ls.map fun l => (l, w.answers.flatMap fun a => if a.1 / 8 = l then PeerAnswer.pairs a.2 else []))

/-- The acquire an access is, where its ORD says so (R57, R86, R122). -/
def State.acquireOf (s : State) (c ctx : Nat) (f : MEM) : State := if f.ord.getLsbD 0 then s.acquireAt c ctx f.scope.toNat else s

/-- The release an access is, where its ORD says so: what the warp sees is performed at its scope (R86, R97). -/
def State.releaseOf (s : State) (c k : Nat) (w : Warp) (f : MEM) : State :=
  if f.ord.getLsbD 1 then s.show (s.warpAgt c k w) f.scope.toNat [.ls] else s

/-! Loads that pass later accesses (R102, R128). -/

/-- The loads in flight of a lane that an access of the same lane meets are performed before it (R92). -/
def Warp.fixMeeting (w : Warp) (n : Nat) (as : List (LaneAcc × Store)) : Warp :=
  { w with late := w.late.filter fun x => !as.any fun a => x.lanes.any fun y => y.1 == a.1.lane && Store.meets y.2.1 y.2.2 a.2 n }

/-- A store comes after the loads of its bytes. -/
def State.fixMeeting (s : State) (c k n : Nat) (as : List (LaneAcc × Store)) : State :=
  match s.warp c k with
  | some w => if w.late.isEmpty then s else s.setWarp c k (w.fixMeeting n as)
  | none => s

/-- A plain load just put in flight may be performed until it lands (R128). -/
def State.noteLate (s : State) (c k n : Nat) (rs : List Nat) (as : List (LaneAcc × Store)) : State :=
  match s.warp c k with
  | some w => match w.flights.getLast? with
    | some fl => s.setWarp c k { w.fixMeeting n as with late := (w.fixMeeting n as).late ++ [⟨fl.id, rs, as.map fun a => (a.1.lane, a.2, n)⟩] }
    | none => s
  | none => s

/-- A result in flight as it lands: a plain load may be performed only now, a free choice (R102, R128; log entry 5). -/
def State.lateRead (s : State) (c k : Nat) (w : Warp) (f : Flight) : State × Flight :=
  match w.late.find? fun x => x.flight == f.id with
  | none => (s, f)
  | some x =>
    if !Config.freeNew s.free (f.id + 2 ^ 110) || x.lanes.any fun y => s.storeBusy y.2.1 then (s, f)
    else (x.lanes.foldl (fun (s : State) y => s.loadFill (s.laneAgt c k w y.1) true y.2.1) s,
      { f with writes := x.lanes.flatMap fun y => s.groupWrites c k w y.1 x.regs (s.bytesWithPoison (s.laneAgt c k w y.1) true y.2.1 y.2.2) })

/-- LD (R365). -/
def execLd (f : MEM) (s : State) : Host.Outcome State Fault Refusal :=
  asWarp s fun c k w =>
    let n := (MEM.bytes f)
    let rs := dataGroup f.data.toNat n
    let plain := !(MEM.wideAcquire f)
    if !w.pxRes.isEmpty then
      s.peerDone c k w f false fun s ls =>
        .done ((s.acquireOf c (s.ctxOf w) f).writeLater c k f.sbd.toNat (ls.flatMap fun a => s.groupWrites c k w a.1 rs a.2))
    else s.memRun c k w f .read false [] rs fun as =>
      if anyPeer as then
        (as.foldl (fun (s : State) a => s.readPieces' a.1.g plain a.2 a.1.ea.toNat a.1.lane f.data.toNat n fun p => .read p.len) (s.acquireOf c (s.ctxOf w) f)).awaitPeers c k
      else
        let ws := as.flatMap fun a => s.groupWrites c k w a.1.lane rs (s.bytesWithPoison a.1.g plain a.2 n)
        let s1 := as.foldl (fun (s : State) a => s.loadFill a.1.g plain a.2) s
        let s2 := (s1.acquireOf c (s.ctxOf w) f).writeLater c k f.sbd.toNat ws
        .done (if as.isEmpty then s1 else if MEM.ordered f || w.isRegrouped then s2 else s2.noteLate c k n rs as)

/-- The register writes of LDC (R366). -/
def ldcWrites (f : MEM) (b : List Byte) : List RegWrite :=
  let lo := [RegWrite.sreg f.data.toNat (BitVec.ofNat 64 (leNat (b.take 8)))]
  let hi := if MEM.bytes f = 16 then [RegWrite.sreg (f.data.toNat + 1) (BitVec.ofNat 64 (leNat (b.drop 8)))] else []
  lo ++ hi

/-- LDC (R366): one access by the lowest lane that takes part. -/
def execLdc (f : MEM) (s : State) : Host.Outcome State Fault Refusal :=
  asWarp s fun c k w =>
    if !w.pxRes.isEmpty then
      s.peerDone c k w f false fun s ls =>
        let got := ls.flatMap Prod.snd
        match got.findSome? Prod.snd with
        | some x => .halt x
        | none => .done ((s.acquireOf c (s.ctxOf w) f).writeLater c k f.sbd.toNat (ldcWrites f (got.map Prod.fst)))
    else match s.prep c k w { g := f.g, srcs := (baseSrc f.base).toList, sdst := true } with
    | .error r => r
    | .ok lanes => match (lanesOf lanes).head? with
      | none => .done s
      | some l =>
        let n := (MEM.bytes f)
        let a := s.laneAcc c k w f .read false n l
        match s.reach c k .read f.sp.toNat [a] with
        | .error r => r
        | .ok [] => .done s
        | .ok ((a, st) :: _) =>
          let plain := !(MEM.wideAcquire f)
          if !st.peers.isEmpty then
            ((s.acquireOf c (s.ctxOf w) f).readPieces' a.g plain st a.ea.toNat l (256 + f.data.toNat) n fun p => .read p.len).awaitPeers c k
          else match s.loadBytes a.g plain st n with
            | (_, some x) => s.haltFor c k w a.g plain st x
            | (b, none) => .done (((s.loadFill a.g plain st).acquireOf c (s.ctxOf w) f).writeLater c k f.sbd.toNat (ldcWrites f b))

/-! Stores and atomics. -/

/-- ST (R367): the lanes' writes in ascending order (R89). -/
def execSt (f : MEM) (s : State) : Host.Outcome State Fault Refusal :=
  asWarp s fun c k w =>
    let n := (MEM.bytes f)
    let rs := dataGroup f.data.toNat n
    s.memRun c k w f .write false rs [] fun as =>
      let cut := as.any fun a => s.severed a.1.g a.2
      let s1 := as.foldl (fun (s1 : State) a => s1.storeOut a.1.g a.2 a.1.ea.toNat (leBytes n (s.groupVal c k w a.1.lane rs))) (s.fixMeeting c k n as)
      .done (match as.head? with
        | some a => (s1.releaseOf c k w f).endSevered a.1.g cut
        | none => s1)

/-- The lanes of an atomic in an order the implementation chooses (R89): a free permutation. -/
def State.freeOrder (s : State) (as : List (LaneAcc × Store)) : List (LaneAcc × Store) :=
  sortBy (fun (a b : LaneAcc × Store) => decide ((s.freeFor (5000 + a.1.lane)).toNat ≤ (s.freeFor (5000 + b.1.lane)).toNat)) as

/-- What ATOM, RED or ATOMC writes over an old value (R368). -/
def atomNew (atop n : Nat) (cmp : Option Nat) (d old : Nat) : Option Nat :=
  match cmp with
  | some x => if old = x then some d else none
  | none => some (atomOp atop n old d)

/-- ATOM, ATOMC and RED (R368). -/
def State.atomRun (s : State) (c k : Nat) (w : Warp) (f : MEM) (cas result : Bool) : WRes :=
  let n := (MEM.bytes f)
  let rs := dataGroup f.data.toNat n
  let cs := if cas then dataGroup (f.data.toNat + n / 4) n else []
  let atop := (f.off.extractLsb' 16 4).toNat
  let val := fun (l : Nat) => s.groupVal c k w l rs
  let cmp := fun (l : Nat) => if cas then some (s.groupVal c k w l cs) else none
  if !w.pxRes.isEmpty then
    s.peerDone c k w f true fun s ls => .done ((s.acquireOf c (s.ctxOf w) f).writeLater c k f.sbd.toNat (ls.flatMap fun a => s.groupWrites c k w a.1 rs a.2))
  else s.memRun c k w f .atomic true (rs ++ cs) (if result then rs else []) fun as =>
    let send := result && as.any fun a => !a.2.peers.isEmpty || s.crosses a.1.g a.2
    let (s1, olds) := (s.freeOrder as).foldl (fun (r : State × List (Nat × List (Byte × Option Nat))) a =>
      let l := a.1.lane
      if !a.2.peers.isEmpty then
        let op : Piece → PeerOp := fun _ => .atomic atop (leBytes n (val l)) (match cmp l with | some x => leBytes n x | none => [])
        (a.2.peers.foldl (fun (s : State) p => s.sendPeer a.1.g (!result) false p a.1.ea.toNat (l * 8) (if result then f.data.toNat else 0) (op p)) r.1, r.2)
      else if s.crosses a.1.g a.2 then
        (r.1.sendAtm a.1.g a.2 (!result) n a.1.ea.toNat (l * 8) (if result then f.data.toNat else 0) ⟨atop, val l, cmp l, f.ord.toNat, f.scope.toNat⟩, r.2)
      else
        let (s1, old) := r.1.atomically a.1.g a.2 n (atomNew atop n (cmp l) (val l))
        (s1, r.2 ++ [(l, old)])) (s, [])
    let s2 := if as.isEmpty then s1 else (s1.releaseOf c k w f).acquireOf c (s.ctxOf w) f
    if send then
      match s2.warp c k with
      | some v => (s2.setWarp c k { v with pxRes := v.pxRes ++ olds.map fun o => (o.1 * 8, answerOf o.2) }).awaitPeers c k
      | none => .done s2
    else if result && !as.isEmpty then
      .done (s2.writeLater c k f.sbd.toNat (olds.flatMap fun o => s.groupWrites c k w o.1 rs o.2))
    else .done s2

/-- ATOM (R368). -/
def execAtom (f : MEM) (s : State) : Host.Outcome State Fault Refusal :=
  asWarp s fun c k w => s.atomRun c k w f false true
/-- ATOMC (R368). -/
def execAtomc (f : MEM) (s : State) : Host.Outcome State Fault Refusal :=
  asWarp s fun c k w => s.atomRun c k w f true true
/-- RED (R368). -/
def execRed (f : MEM) (s : State) : Host.Outcome State Fault Refusal :=
  asWarp s fun c k w => s.atomRun c k w f false false

/-! Cache hints and control. -/

/-- PREF (R369): the register operands are checked; no architectural state changes. -/
def execPref (f : MEM) (s : State) : Host.Outcome State Fault Refusal :=
  asWarp s fun c k w => match s.prep c k w { g := f.g, srcs := (baseSrc f.base).toList } with
    | .error r => r
    | .ok _ => .done s

/-- CCTL (R369): drop the line of each lane's address where it translates, or every line of the context. -/
def execCctl (f : MEM) (s : State) : Host.Outcome State Fault Refusal :=
  asWarp s fun c k w => match s.prep c k w { g := f.g, srcs := (baseSrc f.base).toList } with
    | .error r => r
    | .ok lanes =>
      if lanes = 0 then .done s
      else if f.data = 1 then .done (s.l1Drop c (s.ctxOf w))
      else
        let as := (lanesOf lanes).map (s.laneAcc c k w f .read false 1)
        match as.find? (fun a => match a.pre with | .miss _ => true | _ => false) with
        | some a => (match a.pre with
          | .miss l => .wait (s.holdWarp c k a.g .read l)
          | _ => .done s)
        | none => .done (as.foldl (fun (s : State) a => match a.pre with
          | .ok (.mem ps) => ps.foldl (fun (s : State) p => s.l1DropLine c (if p.isPeer then podLine (ptePkg p.pte) p.pa else p.pa / 128)) s
          | _ => s) s)

end Sys2Proof.Machine
end

