-- ==== Sys2Proof/Machine/Tiles.lean ====
section
/-! DEFINITION. The exchange of tiles (R48-R52, R106, R110, R185-R188, R419-R423) and the landing of results in flight (R371). -/
namespace Sys2Proof.Machine
open Sys2Proof

/-- STATE codes of the owner field (R49). -/
def TileSt.code : TileSt → Nat
  | .free => 0 | .owned => 1 | .given => 2 | .filling => 3 | .suspended => 4 | .retained => 6

/-- The owner field (R48); a FREE tile reads 0x03F0 (R421). -/
def Tile.ownerField (t : Tile) : Nat := if t.st = .free then 0x3F0 else t.ctx * 1024 + t.hold * 16 + t.st.code

/-- The map entry an instruction names (R416). -/
def RR.entry (f : RR) : Nat := (f.md.extractLsb' 0 3).toNat

/-- Replace a map entry of a warp (R44). -/
def Warp.setEntry (w : Warp) (k t : Nat) : Warp := { w with tmap := w.tmap.set k t }

/-- A map entry of a warp; 0xFF where none is listed (R44). -/
def Warp.entry (w : Warp) (k : Nat) : Nat := w.tmap.getD k 0xFF

/-- Register writes of a warp in flight to a tile (R50). -/
def Warp.inFlightTo (w : Warp) (t : Nat) : Nat := (w.flights.filter fun f => (writtenTiles f.writes).contains t).length

/-! GIVE (R110, R419). -/

/-- Give the tile of an entry to a holder: the count is captured, the entry emptied. -/
def State.giveTile (s : State) (c k entry hold : Nat) : State :=
  match s.warp c k with
  | none => s
  | some w =>
    let t := w.entry entry
    let x := s.tile c t
    let s1 := s.setTile c t { x with st := .given, hold := hold, pend := w.inFlightTo t, readyAt := s.clock + 1 }
    s1.setWarp c k (w.setEntry entry 0xFF)

/-- GIVE and GIVE.SEQ (R419): the checks in their order. -/
def State.giveRun (s : State) (c k : Nat) (w : Warp) (f : RR) (receiver : Block → Option Nat) : WRes :=
  s.sysRun c k w f.g fun _ => match s.entryTile c k w (RR.entry f) with
    | .error r => r
    | .ok _ => match (s.blockOf w).bind receiver with
      | none => wholeTrap w .giveTarget
      | some h => s.coreRelease c k w fun t => .done (t.giveTile c k (RR.entry f) h)

/-- GIVE (R419). -/
def execGive (f : RR) (s : State) : Host.Outcome State Fault Refusal :=
  asWarp s fun c k w => s.giveRun c k w f fun b => b.slots[f.ty.toNat]?

/-- GIVE.SEQ (R419). -/
def execGiveSeq (f : RR) (s : State) : Host.Outcome State Fault Refusal :=
  asWarp s fun c k w => s.giveRun c k w f fun b => if b.hasSeq then some 48 else none

/-! TAKE (R110, R420). -/

/-- Is a tile given to a slot, with nothing to wait for (R110)? -/
def Tile.takeable (x : Tile) (ctx k clock : Nat) : Bool := x.st == .given && !x.kept && x.ctx == ctx && x.hold == k && x.pend == 0 && decide (x.readyAt ≤ clock)

/-- The lowest tile given to a slot (R420). -/
def State.givenTo (s : State) (c ctx k : Nat) : Option Nat :=
  (List.range 128).find? fun t => let x := s.tile c t; x.st == .given && !x.kept && x.ctx == ctx && x.hold == k

/-- The tile a TAKE would complete with now. -/
def State.takeNow (s : State) (c ctx k : Nat) (tile : Option Nat) : Option Nat :=
  match (match tile with | some t => some t | none => s.givenTo c ctx k) with
  | some t => if (s.tile c t).takeable ctx k s.clock then some t else none
  | none => none

/-- TAKE's result word (R420). -/
def takeWord (t : Nat) : Word64 := BitVec.ofNat 64 (t * 256)

/-- The tile becomes the taker's (R420). -/
def State.takeTile (s : State) (c k entry t : Nat) : State :=
  let s1 := s.setTile c t { s.tile c t with st := .owned }
  match s1.warp c k with
  | some w => s1.setWarp c k (w.setEntry entry t)
  | none => s1

/-- TAKE of a tile, or of any (R420). -/
def State.takeRun (s : State) (c k : Nat) (w : Warp) (f : RR) (tile : Option Nat) : WRes :=
  let d := f.dst.toNat
  let e := RR.entry f
  match s.blockOf w with
  | none => .done s
  | some b =>
    if b.abandoned then s.sysResult c k f [(d, stAbandoned)]
    else match s.takeNow c b.ctx k tile with
      | some t => (s.takeTile c k e t).sysResult c k f [(d, takeWord t)]
      | none => .wait (s.setWarp c k (w.sleep (.take tile e d f.sbd.toNat)))

/-- TAKE (R420). -/
def execTake (f : RR) (s : State) : Host.Outcome State Fault Refusal :=
  asWarp s fun c k w => s.sysRun c k w f.g fun l =>
    let a := s.sArg c k w l f.sa
    if w.entry (RR.entry f) ≠ 0xFF then wholeTrap w .illegal
    else if 128 ≤ a.toNat then wholeTrap w .regRange
    else
      let x := s.tile c a.toNat
      if ((s.blockOf w).map fun (b : Block) => b.abandoned) != some true && (x.st == .free || x.ctx != s.ctxOf w) then wholeTrap w .tileOwner
      else s.takeRun c k w f (some a.toNat)

/-- TAKE.ANY (R420). -/
def execTakeAny (f : RR) (s : State) : Host.Outcome State Fault Refusal :=
  asWarp s fun c k w => s.sysRun c k w f.g fun _ =>
    if w.entry (RR.entry f) ≠ 0xFF then wholeTrap w .illegal else s.takeRun c k w f none

/-- The tile a waiting TAKE completes with now. -/
def State.takeReady (s : State) (c k : Nat) (w : Warp) : Option Nat :=
  match w.st, w.wait with
  | .suspended, _ => none
  | _, some (.take t _ _ _) => s.takeNow c (s.ctxOf w) k t
  | _, _ => none

/-- TAKE_COMPLETION: the waiting TAKE of a warp completes (R110, R420). -/
def execTakeCompletion (s : State) : Host.Outcome State Fault Refusal :=
  asEvent s fun a => match s.warp a.core a.slot with
    | none => s
    | some w => match s.takeReady a.core a.slot w, w.wait with
      | some t, some (.take _ e d sbd) =>
        let s1 := (s.takeTile a.core a.slot e t).waitEnded w.block
        let s2 := match s1.warp a.core a.slot with
          | some v => s1.setWarp a.core a.slot ((v.wake s.clock).advance s.clock)
          | none => s1
        (s2.writeLater a.core a.slot sbd [.sreg d (takeWord t)]).draw
      | _, _ => s

/-! Owner fields, TFREE and TGRAB. -/

/-- TOWN (R421). -/
def execTown (f : RR) (s : State) : Host.Outcome State Fault Refusal :=
  asWarp s fun c k w => s.sysRun c k w f.g fun l =>
    let a := s.sArg c k w l f.sa
    if 128 ≤ a.toNat then wholeTrap w .regRange
    else
      let x := s.tile c a.toNat
      s.sysResult c k f [(f.dst.toNat, BitVec.ofNat 64 (if x.st != .free && x.ctx != s.ctxOf w then 0x3F0 else x.ownerField))]

/-- TFREE (R422). -/
def execTfree (f : RR) (s : State) : Host.Outcome State Fault Refusal :=
  asWarp s fun c k w => s.sysRun c k w f.g fun _ => match s.entryTile c k w (RR.entry f) with
    | .error r => r
    | .ok t =>
      if 0 < w.inFlightTo t then s.again c k w
      else .done ((s.setTile c t ((s.tile c t).freed (s.ctxOf w))).setWarp c k (w.setEntry (RR.entry f) 0xFF))

/-- Banks of a core that hold a block's sequencer tiles: of a suspended block only those it keeps there (R216, R238). -/
def Block.seqBanks (b : Block) : Nat :=
  match b.saved with
  | some v => (v.tiles.filter b.seqTiles.contains).foldl (fun (n : Nat) t => max n (t / 8 + 1)) 0
  | none => (b.seqTiles.length + 7) / 8

/-- The banks that hold sequencer tiles of blocks on a core (R216). -/
def State.seqBanks (s : State) (c : Nat) : Nat :=
  s.blocks.foldl (fun (n : Nat) e => if e.2.core = c ∧ e.2.st ≠ .ended then max n e.2.seqBanks else n) 0

/-- FREE tiles for warps, in the order they are granted: banks not GATED first, then the lowest number, outside banks that hold sequencer tiles (R216). -/
def State.freeTiles (s : State) (c : Nat) : List Nat :=
  let free := (List.range 128).filter fun t => (s.tile c t).st == .free && decide (8 * s.seqBanks c ≤ t)
  let gated := fun (t : Nat) => (s.bank c (t / 8)).st == BankState.gated
  free.filter (fun t => !gated t) ++ free.filter gated

/-- A tile granted to a holder: cleared when its last holder was of another context or its bank was gated (R52, R185). -/
def Tile.grant (x : Tile) (ctx hold : Nat) : Tile :=
  { x with ctx := ctx, hold := hold, st := .owned, pend := 0, giving := none, gated := false
           elems := if x.gated ∨ x.lastCtx ≠ some ctx then [] else x.elems }

/-- TGRAB (R423): a grant from a GATED bank waits 64 cycles for it (R53). -/
def execTgrab (f : RR) (s : State) : Host.Outcome State Fault Refusal :=
  asWarp s fun c k w => s.sysRun c k w f.g fun _ =>
    if w.entry (RR.entry f) ≠ 0xFF then wholeTrap w .illegal
    else match s.freeTiles c with
      | [] => s.sysResult c k f [(f.dst.toNat, 0x06)]
      | t :: _ =>
        let b := s.bank c (t / 8)
        if b.st = .gated then
          (if b.backAt.isNone then s.setBank c (t / 8) { b with backAt := some (s.clock + 64) } else s).again c k w
        else
          let s0 := if b.st = .retention ∧ b.backAt.isNone then s.setBank c (t / 8) { b with backAt := some (s.clock + 24) } else s
          let s1 := s0.setTile c t ((s.tile c t).grant (s.ctxOf w) k)
          (s1.setWarp c k (w.setEntry (RR.entry f) t)).sysResult c k f [(f.dst.toNat, takeWord t)]

/-! Landings. -/

/-- A result of elements alone, poisoned by data of a sector; none where it writes another register. -/
def Flight.spoiled (f : Flight) (sector : Nat) : Option Flight :=
  if f.writes.all (fun | .elem _ _ _ => true | .sreg _ _ => false) then
    some { f with writes := f.writes.map fun | .elem t i e => .elem t i { e with poison := some sector } | x => x }
  else none

/-- WARP_RESULT_LANDS: a result in flight of a warp lands (R371); `ecc0` reports an error in an atomic's result, detected before it was returned, of the sector of `addr`: it lands poisoned and is logged (R155). -/
def execWarpResultLands (s : State) : Host.Outcome State Fault Refusal :=
  asEvent s fun a => match s.warp a.core a.slot with
    | none => s
    | some w => match w.flights.find? fun f => f.id == a.id && decide (f.due ≤ s.clock) with
      | some f =>
        let r := s.lateRead a.core a.slot w f
        let t := r.1.setWarp a.core a.slot { w with flights := w.flights.filter fun x => x.id != f.id, late := w.late.filter fun x => x.flight != f.id }
        match if resultError a.ecc0 then r.2.spoiled (a.addr / 64 * 64) else none with
        | some x => (t.landFlight a.core a.slot x).logApplied (dieOf a.core) a.addr (s.ctxOf w)
        | none => t.landFlight a.core a.slot r.2
      | none => s

/-- May an SGIVE of a sequencer take effect: every earlier SQ access is performed at CORE scope (R110)? -/
def State.sgiveReady (s : State) (c bundle : Nat) : Bool :=
  match s.seq c with
  | none => true
  | some q => (q.c0 ++ q.c1).all (fun e => decide (bundle ≤ e.bundle)) &&
    q.pend.all fun p => decide (bundle ≤ p.bundle) || !p.writes.any fun w => match w with
      | .shStore _ _ | .xread _ _ _ _ _ | .tread _ _ _ => true
      | _ => false

/-- TILE_BECOMES_GIVEN (R110): the tile of an SGIVE, once its earlier accesses are performed. -/
def execTileBecomesGiven (s : State) : Host.Outcome State Fault Refusal :=
  asEvent s fun a =>
    let x := s.tile a.core a.id
    match x.giving with
    | some (h, n) =>
      if s.sgiveReady a.core n then s.setTile a.core a.id { x with st := .given, hold := h, giving := none, readyAt := s.clock + 1 } else s
    | none => s

end Sys2Proof.Machine
end

