-- ==== Sys2Proof/Machine/Rings.lean ====
section
/-! DEFINITION. Slot rings at their atomic unit (R80-R83, R119) and the warps' side of them (R441, R442); completion counters (R177, R443). -/
namespace Sys2Proof.Machine
open Sys2Proof

/-! Words at a home. -/

/-- The agent at the home of a location: its unit acts there. -/
def homeAgt (ctx : Nat) (st : Store) : Agt :=
  tkAgt ctx (match st with
    | .mem (p :: _) => homeDie p.pa
    | .mem [] => 0
    | .shared c _ => dieOf c
    | .scratch d _ => d
    | .edge _ _ _ => 0)

/-- n bytes of a structure, from an offset, as a number. -/
def State.fieldIn (s : State) (ctx : Nat) (st : Store) (off n : Nat) : Nat :=
  leNat (s.loadBytes (homeAgt ctx st) false (st.part off n) n).1

/-- Replace n bytes of a structure from an offset, as an atomic at its home: nothing is written over poisoned bytes (R155). -/
def State.setFieldIn (s : State) (ctx : Nat) (st : Store) (off n v : Nat) : State :=
  if (s.loadBytes (homeAgt ctx st) false (st.part off n) n).2.isSome then s
  else s.storeBytes (homeAgt ctx st) (st.part off n) (leBytes n (v % 2 ^ (8 * n)))

/-! The ring's operations (R81). -/

/-- An open ring's EOSAT (R80). -/
def openEnd : Nat := 2 ^ 64 - 1

/-- What a claim returns. -/
inductive Claimed where
  | pos (n : Nat)
  | closed
  | wait
  deriving DecidableEq, Repr

/-- Close a ring: EOSAT := FCLAIM (R81). -/
def State.closeRing (s : State) (ctx : Nat) (st : Store) : State := s.setFieldIn ctx st 0x30 8 (s.fieldIn ctx st 0x10 8)

/-- A producer claim (R81). -/
def State.producerClaim (s : State) (ctx : Nat) (st : Store) : State × Claimed :=
  let n := s.fieldIn ctx st 0x10 8
  if s.fieldIn ctx st 0x30 8 ≠ openEnd then (s, .closed)
  else if s.fieldIn ctx st 0x08 4 ≤ (n + 2 ^ 64 - s.fieldIn ctx st 0x28 8) % 2 ^ 64 then (s, .wait)
  else if n + 1 = 2 ^ 63 then (s.closeRing ctx st, .closed)
  else (s.setFieldIn ctx st 0x10 8 (n + 1), .pos n)

/-- A consumer claim (R81). -/
def State.consumerClaim (s : State) (ctx : Nat) (st : Store) : State × Claimed :=
  let n := s.fieldIn ctx st 0x20 8
  if n = s.fieldIn ctx st 0x30 8 then (s, .closed)
  else if s.fieldIn ctx st 0x18 8 ≤ n then (s, .wait)
  else if n + 1 = 2 ^ 63 then
    let t := s.closeRing ctx st
    (t, if n = t.fieldIn ctx st 0x30 8 then .closed else .wait)
  else (s.setFieldIn ctx st 0x20 8 (n + 1), .pos n)

/-- The counters of a descriptor: offsets and widths (R80). -/
def ringCounters : List (Nat × Nat) := [(0x10, 8), (0x18, 8), (0x20, 8), (0x28, 8), (0x30, 8), (0x3A, 2)]

/-- The unit turns to a descriptor: after a race with software its counters are unpredictable, free values (R83). -/
def State.unitTurns (s : State) (ctx : Nat) (st : Store) : State :=
  if s.raced.contains st then
    ringCounters.foldl (fun (s : State) x => s.setFieldIn ctx st x.1 x.2 (Config.freeWord (s.free * 64 + x.1)).toNat) { s with raced := s.raced.filter (· != st) }
  else s

/-- A claim in either role. -/
def State.ringClaim (s0 : State) (ctx : Nat) (st : Store) (consumer : Bool) : State × Claimed :=
  let s := s0.unitTurns ctx st
  if consumer then s.consumerClaim ctx st else s.producerClaim ctx st

/-- The offsets of the counters a post moves on and is checked against: FILL and FCLAIM, or DRAIN and DCLAIM (R442). -/
def postFields (op : RingOp) : Nat × Nat := match op with | .release => (0x28, 0x20) | _ => (0x18, 0x10)

/-- Does the atomic unit discard a post: not yet claimed, or already applied (R442)? -/
def State.postVoid (s : State) (ctx : Nat) (st : Store) (op : RingOp) (pos : Nat) : Bool :=
  decide (s.fieldIn ctx st (postFields op).2 8 ≤ pos) || decide (pos < s.fieldIn ctx st (postFields op).1 8)

/-- A post arrives at its atomic unit and is held until its position's turn; a void one is discarded (R81, R442). -/
def State.postArrives (s0 : State) (ctx desc : Nat) (st : Store) (op : RingOp) (pos : Nat) : State :=
  let s := s0.unitTurns ctx st
  if op != .endToken && s.postVoid ctx st op pos then s
  else { s with ringHeld := s.ringHeld ++ [⟨ctx, desc, st, op, pos⟩] }

/-- May a held post be applied (R81)? -/
def State.postReady (s : State) (r : RingHeld) : Bool :=
  match r.op with
  | .endToken => true
  | op => s.fieldIn r.ctx r.place (postFields op).1 8 == r.pos

/-- One end token (R81). -/
def State.endRing (s : State) (ctx : Nat) (st : Store) : State :=
  let n := (s.fieldIn ctx st 0x3A 2 + 65535) % 65536
  let s1 := s.setFieldIn ctx st 0x3A 2 n
  if n = 0 then s1.closeRing ctx st else s1

/-- Apply a held post and forget those it makes void; an end token leaves the others. -/
def State.applyPost (s : State) (r : RingHeld) : State :=
  match r.op with
  | .endToken => { s with ringHeld := s.ringHeld.erase r }.endRing r.ctx r.place
  | op => { s with ringHeld := s.ringHeld.filter fun x => !(x.ctx == r.ctx && x.desc == r.desc && x.op == op && x.pos == r.pos) }.setFieldIn
      r.ctx r.place (postFields op).1 8 (r.pos + 1)

/-- The step of the unit for a request: the held post it names, if its turn has come. -/
def State.postStep (s : State) (op : RingOp) (r : RingReq) : State :=
  match s.ringHeld.find? fun x => x.ctx == r.ctx && x.desc == r.desc.toNat && x.op == op && (op == .endToken || x.pos == r.pos.toNat) with
  | some x =>
    let t := s.unitTurns x.ctx x.place
    if t.postReady x then t.applyPost x else t
  | none => s

/-- RING_PUBLISH (R81). -/
def execRingPublish (s : State) : Host.Outcome State Fault Refusal := asEvent s fun a => s.postStep .publish a.ring
/-- RING_CONSUMER_RELEASE (R81). -/
def execRingConsumerRelease (s : State) : Host.Outcome State Fault Refusal := asEvent s fun a => s.postStep .release a.ring
/-- RING_END_TOKEN (R81). -/
def execRingEndToken (s : State) : Host.Outcome State Fault Refusal := asEvent s fun a => s.postStep .endToken a.ring

/-! Structures a warp names at their home (R441-R443). -/

/-- Every piece lies on a TIER 0 page, or in L2 SCRATCH where the rule allows it (R19). -/
def placeOk (scratchOk : Bool) : Store → Bool
  | .mem ps => ps.all fun p => pteTier p.pte == 0
  | .scratch _ _ | .edge _ _ _ => scratchOk
  | .shared _ _ => false

/-- The agent that reaches path TK's structures for a warp at issue (R19, R36). -/
def State.tkIssueAgt (s : State) (c k : Nat) (w : Warp) : Agt :=
  { path := .tk, who := .warp c k, ctx := s.ctxOf w, core := some c, die := dieOf c, block := some w.block }

/-- Where a structure named by a warp lies: its alignment, its space and tier, then its translation (R19, R22, R36). -/
def State.structAt (s : State) (c k : Nat) (w : Warp) (l : Nat) (ea : Word64) (n : Nat) (scratchOk : Bool) (acc : Acc) : Except WRes Store :=
  if 2 ^ 56 ≤ ea.toNat then .error (addrTrap w .addrRange ea.toNat)
  else if ea.toNat % n ≠ 0 then .error (addrTrap w .misaligned ea.toNat)
  else match s.reachOne c k (s.tkIssueAgt c k w) acc 0 false ea n l with
    | .ok st => if placeOk scratchOk st then .ok st else .error (addrTrap w .addrHole ea.toNat)
    | .error r => .error r

/-- Reach the ranges of path TK's structures, on TIER 0 pages, that an instruction of a warp reads or writes: what it meets instead (R19, R26, R36, R37). -/
def State.structsAt (s : State) (c k : Nat) (w : Warp) (l : Nat) (acc : Acc) (rs : List (Nat × Nat)) : Option WRes :=
  rs.findSome? fun r => match s.reachOne c k (s.tkIssueAgt c k w) acc 0 false (BitVec.ofNat 64 r.1) r.2 l with
    | .error e => some e
    | .ok st => if placeOk false st then none else some (addrTrap w .addrHole r.1)

/-- The poison that reading structures meets (R153, R166). -/
def State.rangePoison (s : State) (ctx : Nat) (rs : List (Nat × Nat)) : Option Nat :=
  rs.findSome? fun r => match s.tkRange ctx .read r.1 r.2 true with
    | .ok st => (s.loadBytes (tkAgt ctx 0) false st r.2).2
    | .error _ => none

/-- Read a structure for a warp as a load of its own: bytes at peers are asked for and waited for, a peer that fails traps past the instruction (R28), poison is consumed (R166, R415). An acquire of cluster scope or wider is not plain: it reads beyond the L1 (R57, R103). -/
def State.warpPull (s : State) (c k : Nat) (w : Warp) (plain : Bool) (g : Agt) (ea : Word64) (n : Nat) (st : Store) : Except WRes (State × List Byte) :=
  match s.pull { g with who := .copy c (warpWork c k) } (warpWork c k) plain [(⟨0, ea, n⟩, st)] with
  | .wait t => .error (t.again c k w)
  | .fatal x a => .error (.trap { cause := x, lane := lowLane w.active, addr := a, past := true })
  | .bytes b => match b.findSome? Prod.snd with
    | some x => .error (s.haltFor c k w g plain st x)
    | none => .ok ((s.pxDrop (warpWork c k)).loadFill g plain st, b.map Prod.fst)

/-- A built-in release at PACKAGE scope or wider, to every path (R106, R107): it waits until every earlier write-through of the issuer is acknowledged (R57). -/
def State.afterWrites (s : State) (c k : Nat) (w : Warp) (body : State → WRes) : WRes := s.releaseTo c k w 3 [.ls, .cp, .se, .co] body

/-! SLOTGET and SLOTPOST. -/

/-- The registers a claim writes (R441). -/
def claimRegs (d : Nat) : Claimed → List (Nat × Word64)
  | .pos n => [(d, 0), (d + 1, BitVec.ofNat 64 n)]
  | _ => [(d, 0x07), (d + 1, 0)]

/-- SLOTGET (R441); poison in the descriptor is consumed (R166). -/
def execSlotget (f : RR) (s : State) : Host.Outcome State Fault Refusal :=
  asWarp s fun c k w => s.sysRun c k w f.g fun l =>
    let a := s.sArg c k w l f.sa
    match s.structAt c k w l a 64 true .atomic with
    | .error r => r
    | .ok st =>
      let consumer := f.md.getLsbD 0
      match s.rangePoison (s.ctxOf w) [(a.toNat, 64)] with
      | some x => .halt x
      | none => match s.ringClaim (s.ctxOf w) st consumer with
        | (_, .wait) => .wait (s.setWarp c k (w.sleep (.ring a.toNat st consumer f.dst.toNat f.sbd.toNat)))
        -- the PACKAGE acquire of a claim drops the L1's lines (R57, R106)
        | (t, r) => (t.l1Drop c (t.ctxOf w)).sysResult c k f (claimRegs f.dst.toNat r)

/-- A waiting SLOTGET's claim is served (R81, R418). -/
def State.serveClaim (s : State) (c k : Nat) (consumer : Bool) (desc : Nat) : State :=
  match s.warp c k with
  | none => s
  | some w => match w.st, w.wait with
    | .suspended, _ => s
    | _, some (.ring d st cons dst sbd) =>
      if cons != consumer || d != desc then s
      else if let some x := s.rangePoison (s.ctxOf w) [(d, 64)] then s.haltWarp c k x
      else match s.ringClaim (s.ctxOf w) st cons with
        | (_, .wait) => s
        | (t, r) => (((t.l1Drop c (t.ctxOf w)).setWarp c k ((w.wake t.clock).advance t.clock)).writeLater c k sbd
            ((claimRegs dst r).map fun x => .sreg x.1 x.2)).draw
    | _, _ => s

/-- SLOTPOST and SLOTPOST.END (R442). -/
def State.postRun (s : State) (c k : Nat) (w : Warp) (f : RR) (op : RingOp) : WRes :=
  s.sysRun c k w f.g fun l =>
    let a := s.sArg c k w l f.sa
    -- the END form has no position operand: its SB field is zero (R414, R442)
    let pos := if op = .endToken then 0 else s.sArg c k w l f.sb
    match s.structAt c k w l a 64 true .atomic with
      | .error r => r
      | .ok st => s.afterWrites c k w fun t => .done (t.postArrives (s.ctxOf w) a.toNat st op pos.toNat)

/-- SLOTPOST (R442). -/
def execSlotpost (f : RR) (s : State) : Host.Outcome State Fault Refusal :=
  asWarp s fun c k w => s.postRun c k w f (if f.md.getLsbD 0 then .release else .publish)
/-- SLOTPOST.END (R442). -/
def execSlotpostEnd (f : RR) (s : State) : Host.Outcome State Fault Refusal :=
  asWarp s fun c k w => s.postRun c k w f .endToken

/-! Completion counters. -/

/-- Add to bits [62:0] of a counter, bit 63 unchanged (R443). -/
def counterAdd (v n : Nat) : Nat := v / 2 ^ 63 * 2 ^ 63 + (v + n) % 2 ^ 63

/-- CCINC (R443). -/
def execCcinc (f : RR) (s : State) : Host.Outcome State Fault Refusal :=
  asWarp s fun c k w => s.sysRun c k w f.g fun l =>
    let a := s.sArg c k w l f.sa
    match s.structAt c k w l a 8 false .atomic with
    | .error r => r
    | .ok st => s.afterWrites c k w fun t => .done ((t.atomDrop (s.tkIssueAgt c k w) st).setFieldIn (s.ctxOf w) st 0 8
        (counterAdd (s.fieldIn (s.ctxOf w) st 0 8) (s.sArg c k w l f.sb).toNat))

/-- What reaching a structure of path TK at its home comes to (R37, R177). -/
inductive CounterAt where
  | ok (st : Store)
  | wait (s : State)
  | fatal (c : Cause)
  deriving DecidableEq, Repr

/-- The agent that updates a context's counters. -/
def counterAgt (ctx : Nat) : Agt := tkAgt ctx 0

/-- Reach a structure of path TK: a replayable fault is raised and waited for (R37). -/
def State.placeAt (s : State) (ctx : Nat) (acc : Acc) (va n : Nat) (scratchOk : Bool) : CounterAt :=
  match s.tkRange ctx acc va n scratchOk with
  | .ok st => .ok st
  | .error x => if s.replayable ctx x.cause then .wait (s.raiseTk ctx x) else .fatal x.cause

/-- Reach a completion counter (R177). -/
def State.counterAt (s : State) (ctx : Nat) (va : Word64) : CounterAt := s.placeAt ctx .atomic va.toNat 8 false

/-- A counter receives old + 1, with bit 63 when its unit was cancelled (R179). -/
def State.countOne (s : State) (ctx : Nat) (st : Store) (cancelled : Bool) : State :=
  s.setFieldIn ctx st 0 8 (countUp (s.fieldIn ctx st 0 8) cancelled)

end Sys2Proof.Machine
end

