-- ==== Sys2Proof/Machine/Streams.lean ====
section
/-! DEFINITION. Stream engines: layout records and their checks (R75-R79, R83), STREAM (R446), the delivery of items to rings and handles (R74, R78, R82, R116), and the end of a record (R76, R82). -/
namespace Sys2Proof.Machine
open Sys2Proof

/-! Layout records (R76, R77). -/

/-- A field of a record. -/
def StreamRec.field (r : StreamRec) (off n : Nat) : Nat := fieldAt r.fields off n
/-- SIZE of a dimension, 1 at or above DIMS. -/
def StreamRec.size (r : StreamRec) (d : Nat) : Nat := if d < r.field 0x13 1 then r.field (0x08 + 2 * d) 2 else 1
/-- STRIDE of a dimension 1 to 4 in bytes. -/
def StreamRec.stride (r : StreamRec) (d : Nat) : Int := 16 * (BitVec.ofNat 32 (r.field (0x14 + 4 * (d - 1)) 4)).toInt
/-- Bits of an element (R77). -/
def StreamRec.bits (r : StreamRec) : Nat := match r.field 0x12 1 with | 0 => 8 | 1 => 16 | 2 => 32 | 3 => 64 | 4 => 4 | _ => 2
/-- TROWS. -/
def StreamRec.trows (r : StreamRec) : Nat := r.field 0x24 2
/-- TCOLS. -/
def StreamRec.tcols (r : StreamRec) : Nat := r.field 0x26 2
/-- XPOSE. -/
def StreamRec.xpose (r : StreamRec) : Nat := r.field 0x28 1
/-- DIR: target to memory. -/
def StreamRec.stores (r : StreamRec) : Bool := r.field 0x29 1 % 2 == 1
/-- EOS of the record. -/
def StreamRec.forwards (r : StreamRec) : Bool := r.field 0x29 1 / 2 % 2 == 1
/-- TKIND: a handle. -/
def StreamRec.toHandle (r : StreamRec) : Bool := r.field 0x29 1 / 4 % 4 == 1
/-- TARGET. -/
def StreamRec.target (r : StreamRec) : Nat := r.field 0x30 8
/-- The core of a handle target. -/
def StreamRec.core (r : StreamRec) : Nat := r.target % 256
/-- The handle of a handle target. -/
def StreamRec.handle (r : StreamRec) : Nat := r.target / 256 % 8
/-- DONE. -/
def StreamRec.done (r : StreamRec) : Word64 := BitVec.ofNat 64 (r.field 0x38 8)
/-- Rows and bytes a row of an item at its target (R78). -/
def StreamRec.shape (r : StreamRec) : Nat × Nat :=
  if r.xpose = 0 then (r.trows, r.tcols * r.bits / 8) else (r.tcols, r.trows * r.bits / 8)

/-- Constraints of ESZ and XPOSE (R77, R78). -/
def StreamRec.codesOk (r : StreamRec) : Bool :=
  let e := r.field 0x12 1
  let m := if e = 4 then 2 else if e = 5 then 4 else 1
  decide (e ≤ 5) && r.size 0 % m == 0 && r.tcols % m == 0 &&
  (r.xpose == 0 || (!r.stores && ((r.xpose == 1 && e == 0) || (r.xpose == 2 && e == 1))))

/-- The field checks of BAD-FIELD (R76-R79). -/
def StreamRec.fieldsOk (r : StreamRec) : Bool :=
  let d := r.field 0x13 1
  decide (1 ≤ d) && decide (d ≤ 5) && r.field 0x2A 6 == 0 && decide (r.field 0x29 1 < 8) &&
  (List.range 5).all (fun i => if i < d then decide (1 ≤ r.field (0x08 + 2 * i) 2) else r.field (0x08 + 2 * i) 2 == 0) &&
  (List.range 4).all (fun i => decide (i + 1 < d) || r.field (0x14 + 4 * i) 4 == 0) &&
  decide (1 ≤ r.trows) && decide (r.trows ≤ 4096) && decide (1 ≤ r.tcols) && r.codesOk &&
  (!r.toHandle || (decide (r.target < 2048) && decide (r.core < 192)))

/-- Does an address lie in global memory or in the context's L2 SCRATCH (R19)? -/
def State.engineSpace (s : State) (ctx va n : Nat) : Bool :=
  match s.resolve (tkAgt ctx 0) 0 (BitVec.ofNat 64 va) n with
  | .ok _ => true
  | .error _ => false

/-- The space checks of BAD-SPACE (R79). -/
def State.recordSpaces (s : State) (r : StreamRec) : Bool :=
  s.engineSpace r.ctx (r.field 0x00 8) 1 && (r.toHandle || s.engineSpace r.ctx r.target 64) &&
  (r.done == 0 || s.engineSpace r.ctx r.done.toNat 8)

/-- The sequencer of the context's block on a core, with the named handle (R79); an accepted record keeps to the block it was accepted for. -/
def State.targetHandle (s : State) (r : StreamRec) : Option (Seq × Handle) :=
  match s.seq r.core with
  | none => none
  | some q => match s.block q.block, q.handles.find r.handle with
    | some b, some h => if b.ctx = r.ctx ∧ b.st ≠ .ended ∧ (r.owner = none ∨ r.owner = some q.block) then some (q, h) else none
    | _, _ => none

/-- A ring descriptor keeps its rules (R80). -/
def State.ringOk (s : State) (ctx : Nat) (st : Store) : Bool :=
  let slots := s.fieldIn ctx st 0x08 4
  let size := s.fieldIn ctx st 0x0C 4
  s.fieldIn ctx st 0x00 8 % 256 == 0 && (List.range 17).any (fun i => slots == 2 ^ i) &&
  decide (1 ≤ size) && size % 256 == 0 && decide (size ≤ 2 ^ 24) &&
  s.fieldIn ctx st 0x38 2 % 16 == 0 && s.fieldIn ctx st 0x3C 4 == 0

/-- Where a ring target's descriptor lies: 64-byte aligned, TIER 0 or L2 SCRATCH (R80); a replayable fault is waited for (R37). -/
def State.ringPlace (s : State) (r : StreamRec) : CounterAt :=
  if r.target % 64 ≠ 0 then .fatal .misaligned else s.placeAt r.ctx .atomic r.target 64 true

/-- The ring target of a record whose descriptor is reached. -/
def CounterAt.place : CounterAt → Option Store
  | .ok st => some st
  | _ => none

/-- SLOTBASE, SLOTS, SLOTSIZE and PITCH of a ring (R80). -/
def State.ringGeom (s : State) (ctx : Nat) (st : Store) : Nat × Nat × Nat × Nat :=
  (s.fieldIn ctx st 0x00 8, s.fieldIn ctx st 0x08 4, s.fieldIn ctx st 0x0C 4, s.fieldIn ctx st 0x38 2)

/-- Does a running record already target the handle (R83)?
DESIGN CHOICE (log entry 29): a record counts as running from its acceptance, while it is still queued. -/
def State.handleBusy (s : State) (r : StreamRec) : Bool :=
  s.engines.any fun e => e.2.any fun x => x.toHandle && x.core == r.core && x.handle == r.handle && x.owner == (s.seq r.core).map fun (q : Seq) => q.block

/-- The checks of BAD-TARGET (R51, R79, R80, R83): a handle's ring tiles are the sequencer's. -/
def State.targetOk (s : State) (r : StreamRec) : Bool :=
  if r.toHandle then
    match s.targetHandle r with
    | some (_, h) => (if r.stores then h.consEng else h.prodEng) && !s.handleBusy r && h.tiles.all fun t => (s.tile r.core t).ownedBy r.ctx 48
    | none => false
  else match (s.ringPlace r).place with
    | some st => s.ringOk r.ctx st
    | none => false

/-- Does an item fit its slot or tile (R78, R79)? -/
def State.itemFits (s : State) (r : StreamRec) : Bool :=
  let (rows, n) := r.shape
  if r.toHandle then decide (rows ≤ 16) && decide (n ≤ 256)
  else match (s.ringPlace r).place with
    | some st =>
      let (_, _, size, pitch) := s.ringGeom r.ctx st
      decide ((rows - 1) * pitch + n ≤ size) && (rows == 1 || decide (n ≤ pitch))
    | none => false

/-- The status of a record (R79).
DESIGN CHOICE (log entry 29): of several failing checks the one with the lowest status number is reported. -/
def State.recordStatus (s : State) (r : StreamRec) : Nat :=
  if !r.fieldsOk then 1
  else if !s.recordSpaces r then 2
  else if !s.targetOk r then 3
  else if !s.itemFits r then 4
  else 0

/-- The page of a record's ring descriptor that is waited for before the record can be checked (R37). -/
def State.recordHeld (s : State) (r : StreamRec) : Option State :=
  if r.toHandle || !r.fieldsOk || !s.recordSpaces r then none
  else match s.ringPlace r with
    | .wait t => some t
    | _ => none

/-- The records of an engine. -/
def State.engine (s : State) (e : Nat) : List StreamRec := s.engines.getD e []
/-- Replace the records of an engine. -/
def State.setEngine (s : State) (e : Nat) (l : List StreamRec) : State := { s with engines := s.engines.put e l }

/-- The engine of a die with the fewest records, the lowest number on a tie (R446). -/
def State.leastEngine (s : State) (die : Nat) : Nat :=
  ((List.range 12).map (· + 12 * die)).foldl (fun (b : Nat) e => if (s.engine e).length < (s.engine b).length then e else b) (12 * die)

/-- Queue an accepted record (R75). -/
def State.acceptRecord (s : State) (e : Nat) (r : StreamRec) : State :=
  let owner := if r.toHandle then (s.seq r.core).map fun (q : Seq) => q.block else none
  let geom := match r.toHandle, (s.ringPlace r).place with
    | false, some st => s.ringGeom r.ctx st
    | _, _ => r.geom
  s.setEngine e (s.engine e ++ [{ r with due := s.clock + s.latency, owner := owner, geom := geom, desc := if r.toHandle then none else (s.ringPlace r).place }])

/-- STREAM (R446). -/
def execStream (f : RR) (s : State) : Host.Outcome State Fault Refusal :=
  asWarp s fun c k w => s.sysRun c k w f.g fun l =>
    let a := s.sArg c k w l f.sa
    let e := if f.ty = 31 then s.leastEngine (dieOf c) else f.ty.toNat
    match (if a.toNat < 2 ^ 56 ∧ a.toNat % 64 ≠ 0 then .error (addrTrap w .misaligned a.toNat) else s.reachOne c k (s.laneAgt c k w l) .read 0 false a 64 l) with
    | .error r => r
    | .ok st =>
      if 64 ≤ (s.engine e).length then s.again c k w
      else match s.warpPull c k w true (s.laneAgt c k w l) a 64 st with
        | .error r => r
        | .ok (s0, b) =>
          let (id, s1) := s0.newId
          let r : StreamRec := { id := id, ctx := s.ctxOf w, block := some w.block, fields := b }
          match s1.recordHeld r with
          | some u => u.again c k w
          | none =>
          let status := s1.recordStatus r
          let d := BitVec.ofNat 64 (e * 65536 + status * 256 + (if status = 0 then 0 else 0x11))
          (if status = 0 then s1.acceptRecord e r else s1).sysResult c k f [(f.dst.toNat, d)]

/-! Items (R78). -/

/-- Items along dimensions 0 and 1. -/
def StreamRec.grid (r : StreamRec) : Nat × Nat := ((r.size 0 + r.tcols - 1) / r.tcols, (r.size 1 + r.trows - 1) / r.trows)
/-- The number of items. -/
def StreamRec.items (r : StreamRec) : Nat := r.grid.1 * r.grid.2 * r.size 2 * r.size 3 * r.size 4

/-- The rows of an item that lie inside the tensor: the row in the item, its address and its bytes (R77, R78). -/
def StreamRec.rows (r : StreamRec) (j : Nat) : List (Nat × Word64 × Nat) :=
  let (n0, n1) := r.grid
  let p0 := j % n0
  let p1 := j / n0 % n1
  let rest := j / (n0 * n1)
  let i2 := rest % r.size 2
  let i3 := rest / r.size 2 % r.size 3
  let i4 := rest / (r.size 2 * r.size 3)
  let cols := min r.tcols (r.size 0 - p0 * r.tcols)
  (List.range r.trows).filterMap fun i =>
    let i1 := p1 * r.trows + i
    if i1 < r.size 1 then
      let off : Int := (p0 * r.tcols * r.bits / 8 : Nat) + i1 * r.stride 1 + i2 * r.stride 2 + i3 * r.stride 3 + i4 * r.stride 4
      some (i, BitVec.ofInt 64 ((r.field 0x00 8 : Nat) + off), cols * r.bits / 8)
    else none

/-- The memory parts of an item. -/
def StreamRec.parts (r : StreamRec) (j : Nat) : List Part := (r.rows j).map fun x => ⟨0, x.2.1, x.2.2⟩

/-- A byte with its poison. -/
abbrev PByte := Byte × Option Nat

/-- Fill a row to a length with zeros. -/
def padRow (n : Nat) (b : List PByte) : List PByte := b ++ List.replicate (n - b.length) ((0 : Byte), none)

/-- The rows of an item as its target receives them, from the bytes of its rows inside the tensor (R78). -/
def StreamRec.targetRows (r : StreamRec) (j : Nat) (bytes : List PByte) : List (List PByte) :=
  let n := r.tcols * r.bits / 8
  let got := ((r.rows j).foldl (fun (acc : Assoc (List PByte) × List PByte) x =>
    (acc.1.put x.1 (acc.2.take x.2.2), acc.2.drop x.2.2)) (([] : Assoc (List PByte)), bytes)).1
  let whole := (List.range r.trows).map fun i => padRow n (got.getD i [])
  if r.xpose = 0 then whole
  else
    let z := r.bits / 8
    (List.range r.tcols).map fun c => whole.flatMap fun row => (row.drop (c * z)).take z

/-! Rings and handles as targets. -/

/-- The agent an engine is (R19, R75). -/
def engineAgt (e ctx : Nat) : Agt := { path := .se, who := .engine e, ctx := ctx, die := e / 12 }
/-- The engine at work on a record. -/
def StreamRec.agt (r : StreamRec) (e : Nat) : Agt := { engineAgt e r.ctx with work := r.id }

/-- A fatal fault of a record ends its context (R262, R279). -/
def State.engineFault (s : State) (ctx : Nat) : State := s.terminate ctx 7

/-- Replace an engine's running record. -/
def State.setRecord (s : State) (e : Nat) (r : StreamRec) : State :=
  s.setEngine e ((s.engine e).map fun x => if x.id = r.id then r else x)

/-- The next action of a record comes after a latency. -/
def State.nextAction (s : State) (e : Nat) (r : StreamRec) : State := s.setRecord e { r with due := s.clock + s.latency }

/-- The rows of a ring slot as parts, in the slot array the record was accepted for (R80, R83). -/
def StreamRec.slotParts (r : StreamRec) (pos : Nat) (lens : List Nat) : List Part :=
  let (base, slots, size, pitch) := r.geom
  lens.zipIdx.map fun x => ⟨0, BitVec.ofNat 64 (base + pos % slots * size + x.2 * pitch), x.1⟩

/-- Carry the bytes of parts to an action, or wait, or end the context (R37). -/
def State.withBytes (s : State) (e : Nat) (r : StreamRec) (src dst : List Part) (k : State → List (Part × Store) → List PByte → State) : State :=
  let g := r.agt e
  match s.reachAll g .read src, s.reachAll g .write dst with
  | .fatal _ _ t, _ => t.engineFault r.ctx
  | _, .fatal _ _ t => t.engineFault r.ctx
  | .wait t, _ => t
  | _, .wait t => t
  | .ok ss, .ok ds => match s.pull g r.id false ss with
    | .wait t => t
    | .fatal _ _ => s.engineFault r.ctx
    | .bytes b => (k (s.partsRead g false ss) ds b).pxDrop r.id

/-- An item has been delivered. -/
def State.itemDone (s : State) (e : Nat) (r : StreamRec) : State := s.nextAction e { r with item := r.item + 1, claimed := r.claimed.drop 1, sent := false }

/-- The post of an item whose accesses are over reaches the ring's unit: a release of them to every path (R81, R82, R107). -/
def State.itemPost (s : State) (e : Nat) (r : StreamRec) (st : Store) (pos : Nat) : State :=
  ((s.showAll (r.agt e)).postArrives r.ctx r.target st (if r.stores then .release else .publish) pos).itemDone e r

/-- Deliver an item to or from a ring slot already claimed (R78, R82); the publish of a slot at a peer waits until its bytes are acknowledged (R81). -/
def State.ringItem (s : State) (e : Nat) (r : StreamRec) (pos : Nat) : State :=
  match s.ringPlace r with
  | .fatal _ => s.engineFault r.ctx
  | .wait t => t
  | .ok st =>
    let (rows, n) := r.shape
    let mem := r.parts r.item
    if r.sent then s.itemPost e r st pos
    else if r.stores then
      let lens := (List.range r.trows).map fun i => (((r.rows r.item).find? fun x => x.1 == i).map fun x => x.2.2).getD 0
      let slot := (r.slotParts pos lens).filter fun p => p.len != 0
      s.withBytes e r slot mem fun u ds b => (u.deposit (r.agt e) ds b).itemPost e r st pos
    else
      let slot := r.slotParts pos (List.replicate rows n)
      s.withBytes e r mem slot fun u ds b =>
        let t := u.deposit (r.agt e) ds (r.targetRows r.item b).flatten
        if t.workOut r.id then t.nextAction e { r with sent := true } else t.itemPost e r st pos

/-- The elements of a tile from target rows that fill the start of its rows (R78). -/
def tileOfRows (rows : List (List PByte)) : Assoc Elem :=
  tileFromBytes 0 (((List.range 16).map fun i => padRow 256 (rows.getD i [])).flatten)

/-- Are all the writes an engine's read of a tile must follow landed (R116)? -/
def Seq.tileQuiet (q : Seq) (t : Nat) : Bool := q.pendingInto t == 0

/-- Mark the slot of a record's last item in the handle's EOS bits, where the record has EOS set (R82). -/
def StreamRec.markEos (r : StreamRec) (h : Handle) (slot : Nat) : Handle :=
  if r.forwards && r.item + 1 == r.items then { h with eos := h.eos ||| (1#32 <<< (slot % h.n)) } else h

/-- Deliver an item into the handle slot the record claimed first, and advance FP (R74, R78, R82). -/
def State.handleFill (s : State) (e : Nat) (r : StreamRec) (q : Seq) (h : Handle) : State :=
  let t := h.tileAt h.fp
  if (s.tile r.core t).st ≠ .filling ∨ (s.tile r.core t).hold ≠ 50 then s
  else s.withBytes e r (r.parts r.item) [] fun u _ b =>
    let h1 := { r.markEos h h.fp with fp := (h.fp + 1) % (2 * h.n) }
    let s1 := u.setTile r.core t { u.tile r.core t with elems := tileOfRows (r.targetRows r.item b), st := .owned, hold := 48 }
    (s1.setSeq r.core { q with handles := q.handles.put r.handle h1 }).itemDone e r

/-- Read the next filled slot of a handle into memory, and advance DP (R74, R116). -/
def State.handleDrain (s : State) (e : Nat) (r : StreamRec) (q : Seq) (h : Handle) : State :=
  let tile := (tileToBytes (s.tile r.core (h.tileAt h.dp)).elems).toArray
  let bytes := (r.rows r.item).flatMap fun x => (List.range x.2.2).map fun i => tile.getD (x.1 * 256 + i) (0, none)
  s.withBytes e r [] (r.parts r.item) fun u ds _ =>
    let s1 := u.deposit (r.agt e) ds bytes
    match s1.seq r.core with
    | some q1 => (s1.setSeq r.core { s1.passed r.core q1 h 1 with handles := q.handles.put r.handle (r.markEos (h.advC 1) h.dp) }).itemDone e r
    | none => s1.itemDone e r

/-- The slot of a handle that a record may claim next: only while it has fewer claimed than are free, and only a tile that the sequencer owns (R74, R185). -/
def State.nextSlot (s : State) (r : StreamRec) (h : Handle) : Option Nat :=
  let n := h.fp + r.claimed.length
  if r.claimed.length < h.free ∧ r.item + r.claimed.length < r.items ∧ (s.tile r.core (h.tileAt n)).ownedBy r.ctx 48 then some n else none

/-- The next action of a record that targets a handle: it claims a free slot, ahead of the items it has still to deliver by free choice, or fills the first it claimed; or it drains a filled one (R74). -/
def State.handleItem (s : State) (e : Nat) (r : StreamRec) : State :=
  match s.targetHandle r with
  | none => s
  | some (q, h) =>
    if r.stores then (if 1 ≤ h.filled ∧ q.tileQuiet (h.tileAt h.dp) then s.handleDrain e r q h else s)
    else match (if r.claimed.isEmpty || Config.freeNew s.free r.id then s.nextSlot r h else none) with
      | some n =>
        let t := h.tileAt n
        (s.setTile r.core t { s.tile r.core t with st := .filling, hold := 50 }).nextAction e { r with claimed := r.claimed ++ [n] }
      | none => if r.claimed.isEmpty then s else s.handleFill e r q h

/-- May the running record of an engine act now? -/
def State.engineReady (s : State) (e : Nat) : Option StreamRec :=
  match s.engine e with
  | r :: _ => if decide (r.due ≤ s.clock) && !s.waitsPage (engineAgt e r.ctx) then some r else none
  | [] => none

/-- Is the next item of a record the engine's next action? -/
def State.itemReady (s : State) (e : Nat) : Option StreamRec :=
  match s.engineReady e with
  | some r =>
    if decide (r.items ≤ r.item) then none
    else if r.toHandle then
      (match s.targetHandle r with
      | some (q, h) =>
        if r.stores then (if 1 ≤ h.filled ∧ q.tileQuiet (h.tileAt h.dp) then some r else none)
        else if !r.claimed.isEmpty ∨ (s.nextSlot r h).isSome then some r else none
      | none => none)
    else if r.claimed.isEmpty || (r.sent && s.workOut r.id) then none else some r
  | none => none

/-- STREAM_ITEM_DELIVERY (R78). -/
def execStreamItemDelivery (s : State) : Host.Outcome State Fault Refusal :=
  asEvent s fun a => match s.itemReady a.id with
    | none => s
    | some r => (if r.toHandle then s.handleItem a.id r else match r.claimed with
      | p :: _ => s.ringItem a.id r p
      | [] => s).draw

/-! Claims. -/

/-- May the running record of an engine claim a position of its ring: it has items for which none is claimed (R82)?
DESIGN CHOICE (log entry 17): how far an engine claims ahead of its items is open, and each step a free choice decides. -/
def State.claimReady (s : State) (e : Nat) : Option StreamRec :=
  match s.engineReady e with
  | some r => if !r.ended && decide (r.item + r.claimed.length < r.items) && !r.toHandle then some r else none
  | none => none

/-- An engine's claim for its next item: a position, the end of the ring, or a wait (R81, R82). -/
def State.engineClaim (s : State) (e : Nat) (consumer : Bool) : State :=
  match s.claimReady e with
  | none => s
  | some r =>
    if r.stores != consumer then s
    else match s.ringPlace r with
      | .fatal _ => s.engineFault r.ctx
      | .wait t => t
      | .ok st => match s.ringClaim r.ctx st consumer with
        | (_, .wait) => s
        | (t, .pos n) => t.nextAction e { r with claimed := r.claimed ++ [n] }
        | (t, .closed) => t.nextAction e { r with ended := true }

/-- The claim step of the ring's unit for who asks (R81). -/
def State.claimStep (s : State) (r : RingReq) (consumer : Bool) : State :=
  match r.who with
  | .warp c k => s.serveClaim c k consumer r.desc.toNat
  | .engine e => (s.engineClaim e consumer).draw

/-- RING_PRODUCER_CLAIM (R81). -/
def execRingProducerClaim (s : State) : Host.Outcome State Fault Refusal := asEvent s fun a => s.claimStep a.ring false
/-- RING_CONSUMER_CLAIM (R81). -/
def execRingConsumerClaim (s : State) : Host.Outcome State Fault Refusal := asEvent s fun a => s.claimStep a.ring true

/-! The end of a record. -/

/-- Remove an engine's running record. -/
def State.popRecord (s : State) (e : Nat) (r : StreamRec) : State :=
  (s.setEngine e ((s.engine e).filter fun x => x.id != r.id)).clearFails (.engine e)

/-- Reach the end of a record's ring, where an end token is owed to it (R82). -/
def State.endPlace (s : State) (r : StreamRec) : CounterAt := if r.forwards && !r.toHandle then s.ringPlace r else .ok (.mem [])

/-- Send the end token of a record that has EOS set (R82). -/
def State.sendEnd (s : State) (r : StreamRec) (st : Store) : State := if r.forwards && !r.toHandle then s.postArrives r.ctx r.target st .endToken 0 else s

/-- The end of a record: its end token, and the add to its counter as a release of its items (R76, R82, R107); a replayable fault on either holds it (R37). -/
def State.endRecord (s : State) (e : Nat) (r : StreamRec) : State :=
  match s.endPlace r with
  | .wait t => t
  | .fatal _ => s.engineFault r.ctx
  | .ok st =>
    if r.done = 0 then (s.sendEnd r st).popRecord e r
    else match s.placeAt r.ctx .atomic r.done.toNat 8 true with
      | .ok dn => ((((s.showAll (r.agt e)).sendEnd r st).countOne r.ctx dn false)).popRecord e r
      | .wait t => t
      | .fatal _ => s.engineFault r.ctx

/-- Has the running record of an engine delivered its last item, or met the end of its ring with none claimed, and have its peers acknowledged its writes (R76)? -/
def State.recordOver (s : State) (e : Nat) : Option StreamRec :=
  match s.engineReady e with
  | some r => if (decide (r.items ≤ r.item) || (r.ended && r.claimed.isEmpty)) && !s.workOut r.id then some r else none
  | none => none

/-- STREAM_RECORD_COMPLETION (R76). -/
def execStreamRecordCompletion (s : State) : Host.Outcome State Fault Refusal :=
  asEvent s fun a => match s.recordOver a.id with
    | some r => (s.endRecord a.id r).draw
    | none => s

end Sys2Proof.Machine
end

