-- ==== Sys2Proof/Machine/Events.lean ====
section
/-! DEFINITION. WAITEV and POSTEV (R452, R453), and QPUSH with the writing of its records (R209, R445). -/
namespace Sys2Proof.Machine
open Sys2Proof

/-! WAITEV. -/

/-- The regions of WAITEV and POSTEV: a LANE or CLUSTER address is a hole (R452). -/
def inLaneOrCluster (ea : Nat) : Bool := decide (clusterBase ≤ ea) && decide (ea < scratchBase)

/-- Where the word of WAITEV or POSTEV lies, or the trap (R452, R453). -/
def State.eventAt (s : State) (c k : Nat) (w : Warp) (l : Nat) (ea : Word64) : Except WRes Store :=
  if 2 ^ 56 ≤ ea.toNat then .error (addrTrap w .addrRange ea.toNat)
  else if ea.toNat % 8 ≠ 0 then .error (addrTrap w .misaligned ea.toNat)
  else if inLaneOrCluster ea.toNat then .error (addrTrap w .addrHole ea.toNat)
  else s.reachOne c k (s.laneAgt c k w l) .read 0 false ea 8 l

/-- Is the word on a peer page whose writes the home does not see (R452)? -/
def farWord : Store → Bool
  | .mem ps => ps.any fun p => p.isPeer && !ptePc p.pte
  | _ => false

/-- Cycles between two readings of a peer's word (R452). -/
def pollPeriod : Nat := 4096

/-- The group a WAITEV writes: a status and the value read (R452). -/
def eventRegs (dst code : Nat) (v : Word64) : List RegWrite := [.sreg dst (BitVec.ofNat 64 code), .sreg (dst + 1) v]

/-- The acquire of a WAITEV at its scope (R57, R452). -/
def State.eventAcquire (s : State) (c : Nat) (w : Warp) (scope : Nat) : State := s.acquireAt c (s.ctxOf w) scope

/-- WAITEV (R452): the word is read; while it equals the compared value the warp waits. -/
def execWaitev (f : RR) (s : State) : Host.Outcome State Fault Refusal :=
  asWarp s fun c k w => s.sysRun c k w f.g fun l =>
    let a := s.sArg c k w l f.sa
    let b := s.sArg c k w l f.sb
    let t := (s.sArg c k w l f.sc).toNat
    let scope := (f.md.extractLsb' 0 3).toNat
    match s.eventAt c k w l a with
    | .error r => r
    | .ok st => match s.warpPull c k w (decide (scope = 0)) (s.laneAgt c k w l) a 8 st with
      | .error r => r
      | .ok (s0, bs) =>
        let v := wordOf bs
        let s1 := s0.eventAcquire c w scope
        if v ≠ b then .done (s1.writeNow c k (eventRegs f.dst.toNat 0 v))
        else
          let deadline := if t = 0 then none else some (s.clock + 64 * t)
          let poll := if farWord st then some (s.clock + pollPeriod) else none
          .wait (s1.setWarp c k (w.sleep (.event a.toNat st b f.dst.toNat scope deadline poll false)))

/-- A waiting WAITEV returns with a status. -/
def State.eventReturn (s : State) (c k dst scope code : Nat) (v : Word64) : State :=
  match s.warp c k with
  | some w =>
    let s1 := (s.eventAcquire c w scope).setWarp c k ((w.wake s.clock).advance s.clock)
    (s1.writeNow c k (eventRegs dst code v)).draw
  | none => s

/-- The agent that reads a waiting WAITEV's word. -/
def State.eventAgt (s : State) (c k : Nat) (w : Warp) : Agt := { s.fetchAgt c k w with who := .copy c (warpWork c k) }

/-- A waiting WAITEV reads its word once more (R452, R453): it returns OK when the word differs, POSTED when a POSTEV asked, else it waits on. -/
def State.eventRead (s : State) (c k : Nat) : State :=
  match s.warp c k with
  | none => s
  | some w => match w.wait with
    | some (.event va _ b dst scope dl _ posted) =>
      let wid := warpWork c k
      let g := s.eventAgt c k w
      match s.check g .read 0 (BitVec.ofNat 64 va) 8 with
      | .bad x => s.takeTrap c k { cause := x, lane := lowLane w.active, addr := va }
      | .fault x p a => ((s.dropEntry g p).clearFails g.who).takeTrap c k { cause := x, lane := lowLane w.active, addr := a }
      | .miss l => s.noteMisses g .read l
      | .held fs => s.raiseFaults g fs
      | .ok st => match s.pull g wid false [(⟨0, BitVec.ofNat 64 va, 8⟩, st)] with
        | .wait t => t
        | .fatal x a => (s.pxDrop wid).takeTrap c k { cause := x, lane := lowLane w.active, addr := a, past := true }
        | .bytes bs =>
          let s1 := ((s.pxDrop wid).loadFill g false st).clearFails g.who
          match bs.findSome? Prod.snd with
          | some x => s1.haltWarp c k x
          | none =>
            let v := wordOf (bs.map Prod.fst)
            if v ≠ b then s1.eventReturn c k dst scope 0 v
            else if posted then s1.eventReturn c k dst scope 0x12 v
            else s1.setWarp c k { w with wait := some (.event va st b dst scope dl (if farWord st then some (s.clock + pollPeriod) else none) false) }
    | _ => s

/-- Does a waiting WAITEV have cause to read its word: a write to it performed at its home, a POSTEV, a peer's word whose time has come, or a translation to be made anew (R35, R452)? -/
def State.eventStirs (s : State) (c k : Nat) (w : Warp) : Bool :=
  let g := s.eventAgt c k w
  w.st != .suspended && !s.waitsPage g && match w.wait with
    | some (.event va _ b _ _ _ poll posted) =>
      posted || (match poll with
        | some t => decide (t ≤ s.clock)
        | none => match s.check g .read 0 (BitVec.ofNat 64 va) 8 with
          | .ok st => wordOf (s.loadBytes (homeAgt 0 st) false st 8).1 != b
          | _ => true)
    | _ => false

/-- WAITEV_POLL (R452): a waiting warp reads its word again. -/
def execWaitevPoll (s : State) : Host.Outcome State Fault Refusal :=
  asEvent s fun a => match s.warp a.core a.slot with
    | some w => if s.eventStirs a.core a.slot w then s.eventRead a.core a.slot else s
    | none => s

/-- Has a WAITEV's timeout passed? -/
def State.eventLate (s : State) (w : Warp) : Bool :=
  w.st != .suspended && match w.wait with
    | some (.event _ _ _ _ _ (some t) _ _) => decide (t ≤ s.clock)
    | _ => false

/-- WAITEV_TIMEOUT (R452): TIMEOUT with the value last read. -/
def execWaitevTimeout (s : State) : Host.Outcome State Fault Refusal :=
  asEvent s fun a => match s.warp a.core a.slot with
    | some w => match s.eventLate w, w.wait with
      | true, some (.event _ _ b dst scope _ _ _) => s.eventReturn a.core a.slot dst scope 0x13 b
      | _, _ => s
    | none => s

/-- The 128-byte line a place lies in: its store and number. -/
def lineOf : Store → Nat × Nat × Nat
  | .mem (p :: _) => (0, if pteTier p.pte = 2 then 1 + ptePkg p.pte else 0, p.pa / 128)
  | .mem [] => (0, 0, 0)
  | .shared c o => (1, c, o / 128)
  | .scratch d o => (2, d, o / 128)
  | .edge o _ _ => (2, 0, o / 128)

/-- POSTEV (R453): every warp of the context that waits on the line is to read its word once more. -/
def execPostev (f : RR) (s : State) : Host.Outcome State Fault Refusal :=
  asWarp s fun c k w => s.sysRun c k w f.g fun l =>
    match s.eventAt c k w l (s.sArg c k w l f.sa) with
    | .error r => r
    | .ok st =>
      let ctx := s.ctxOf w
      .done { s with warps := mapVals s.warps fun (_ : Nat) (v : Warp) => match v.wait with
        | some (.event va p b d sc dl poll _) =>
          if s.ctxOf v = ctx ∧ lineOf p = lineOf st then { v with wait := some (.event va p b d sc dl poll true) } else v
        | _ => v }

/-! QPUSH (R209, R445). -/

/-- The record QPUSH writes: four registers, then zeros. -/
def pushRecord (vs : List Word64) : List Byte := vs.flatMap (fun v => leBytes 8 v.toNat) ++ List.replicate 32 0

/-- QPUSH (R445). -/
def execQpush (f : RR) (s : State) : Host.Outcome State Fault Refusal :=
  asWarp s fun c k w => s.sysRun c k w f.g fun l =>
    let q := (s.sArg c k w l f.sb).toNat
    let d := f.dst.toNat
    let x := s.queues.getD q {}
    if 4096 ≤ q ∨ x.ctx ≠ s.ctxOf w ∨ x.st = .disabled then s.sysResult c k f [(d, 0x09)]
    else if x.ringsize ≤ x.reserve - x.head then s.sysResult c k f [(d, 0x08)]
    else s.afterWrites c k w fun u =>
      ({ u with
          queues := u.queues.put q { x with reserve := x.reserve + 1 }
          qpushes := u.qpushes ++ [⟨q, x.reserve, x.ctx, pushRecord ((List.range 4).map fun i => s.readS c k w l (f.sa.toNat + i)), false⟩] } : State).sysResult
        c k f [(d, 0)]

/-- The address of a command of a queue (R208). -/
def Queue.slotAt (q : Queue) (n : Nat) : Nat := q.ringbase.toNat + n % q.ringsize * 64

/-- Publish the records of a queue that are written, in position order (R209). -/
def State.publishPushes (s : State) (q : Nat) : Nat → State
  | 0 => s
  | n + 1 =>
    let x := s.queues.getD q {}
    match s.qpushes.find? fun r => r.queue == q && r.pos == x.tail && r.written with
    | some r => State.publishPushes { s with
        queues := s.queues.put q { x with tail := x.tail + 1 }
        qpushes := s.qpushes.erase r } q n
    | none => s

/-- The ring hardware writes a claimed record (R445): a replayable fault holds it, a fatal one ends the context. -/
def State.writePush (s : State) (r : QPushRec) : State :=
  let x := s.queues.getD r.queue {}
  match s.tkRange r.ctx .write (x.slotAt r.pos) 64 false with
  | .ok st =>
    let s1 := s.storeBytes (homeAgt r.ctx st) st r.bytes
    let s2 := { s1 with qpushes := s1.qpushes.map fun y => if y = r then { y with written := true } else y }
    s2.publishPushes r.queue s2.qpushes.length
  | .error x => if s.replayable r.ctx x.cause then s.raiseTk r.ctx x else s.terminate r.ctx 6

/-- QPUSH_RECORD_WRITE: the record of a queue at a position (R445). -/
def execQpushRecordWrite (s : State) : Host.Outcome State Fault Refusal :=
  asEvent s fun a => match s.qpushes.find? fun r => r.queue == a.id && r.pos == a.addr && !r.written with
    | some r => s.writePush r
    | none => s

end Sys2Proof.Machine
end

