-- ==== Sys2Proof/Machine/Translation.lean ====
section
/-! DEFINITION. What the translation hardware does by itself: the end of a walk (R31-R34), invalidation (R35), and replay (R40). -/
namespace Sys2Proof.Machine
open Sys2Proof

/-- Does a requester wait for a page? -/
def State.whoWaits (s : State) (w : Who) : Bool :=
  s.misses.any (fun m => m.waiters.any (·.who == w)) || s.pfaults.any (fun f => f.waiters.any (·.who == w))

/-- A requester that waits for no page any more goes on: a warp issues its instruction again, a sequencer its bundle; the others try again by themselves (R34, R36, R37). -/
def State.wakeFor (s : State) (w : Who) : State :=
  if s.whoWaits w then s
  else match w with
    | .warp c k => match s.warp c k with
      | some x => match x.wait with
        | some (.xlate _) => s.setWarp c k (x.wake s.clock)
        | _ => s
      | none => s
    | .seq c => match s.seq c with
      | some q => match q.st with
        | .xlate _ => s.setSeq c { q with st := .running }
        | _ => s
      | none => s
    | _ => s

/-- The core whose cache serves a requester (R32). -/
def Who.core : Who → Option Nat
  | .warp c _ | .seq c | .queue c _ | .copy c _ => some c
  | _ => none

/-- Put a translation into a cache of a size in place of those it overlaps; a full one loses its oldest entry (R32). -/
def tlbPut (size : Nat) (l : List TlbEntry) (e : TlbEntry) : List TlbEntry :=
  let l1 := (l.filter fun (x : TlbEntry) => !(x.ctx == e.ctx && decide (x.page < e.page + e.span) && decide (e.page < x.page + x.span))) ++ [e]
  l1.drop (l1.length - size)

/-- Entries of a core's and of a die's translation cache (R32). -/
def coreTlbSize : Nat := 512
def dieTlbSize : Nat := 65536

/-- A walk's translation enters the die's cache and those of the requesters' cores (R32). -/
def State.cacheWalk (s : State) (m : Miss) (e : TlbEntry) : State :=
  let s1 := s.setDieTlb m.die (tlbPut dieTlbSize (s.dieTlb m.die) e)
  ((m.waiters.filterMap fun x => x.who.core).eraseDups).foldl (fun (s : State) c => s.setCore c { s.core c with tlb := tlbPut coreTlbSize (s.core c).tlb e }) s1

/-- The agent of a waiting request, for its page. -/
def Waiter.agt (x : Waiter) (ctx die : Nat) : Agt := { path := x.path, who := x.who, ctx := ctx, core := x.who.core, die := die }

/-- A replay whose walk ends in a replayable fault: each request joins a new fault in the order it waits (R40). -/
def State.faultAgain (s : State) (m : Miss) (c : Cause) (page span : Nat) : State :=
  m.waiters.foldl (fun (s : State) x => s.raiseFault (x.agt m.ctx m.die) ⟨c, page, span, x.addr, x.acc⟩) s

/-- The replay count of a page whose translation has succeeded is forgotten (R38). -/
def State.settled (s : State) (m : Miss) : State :=
  { s with pfaults := s.pfaults.filter fun (f : PFault) => !(f.die == m.die && f.ctx == m.ctx && decide (f.page ≤ m.page) && decide (m.page < f.page + f.span) && f.waiters.isEmpty) }

/-- A walk ends and its walker takes another miss (R33, R34): its translation is cached, or its fault delivered to each requester, a replay's replayable fault raised again at once; the requesters go on. A walk that an invalidation met is discarded (R35). -/
def State.endWalk (s : State) (m : Miss) : State :=
  let s0 := State.startWalks { s with misses := s.misses.erase m } m.die
  let s1 := if m.discarded then s0
    else match s0.walk m.die m.ctx (m.page * 65536) with
      | .ok (e, size) =>
        let span := size / 65536
        (s0.cacheWalk m ⟨m.ctx, m.page / span * span, span, e⟩).settled m
      | .error (c, size) =>
        let span := size / 65536
        let page := m.page / span * span
        if m.replay && s0.replayable m.ctx c then s0.faultAgain m c page span
        else { s0 with xlfail := s0.xlfail ++ m.waiters.map fun x => ⟨x.who, m.page, c, page, span⟩ }
  m.waiters.foldl (fun (s : State) x => s.wakeFor x.who) s1

/-- WALK_COMPLETE (R34): the walk of a die for page `addr` of a context. -/
def execWalkComplete (s : State) : Host.Outcome State Fault Refusal :=
  asEvent s fun a =>
    match s.misses.find? fun m => m.die == a.die && m.ctx == a.ctx && m.page == a.addr && m.walkDone s.clock with
    | some m => s.endWalk m
    | none => s

/-! Invalidation (R35). -/

/-- Does a range of pages meet an invalidated range? -/
def Inv.meets (x : Inv) (ctx page span : Nat) : Bool :=
  x.ctx == ctx && decide (page * 65536 < x.va + x.len) && decide (x.va < (page + span) * 65536)

/-- Do bytes meet an invalidated range? -/
def Inv.holdsBytes (x : Inv) (ctx va n : Nat) : Bool := x.ctx == ctx && decide (x.va < va + n) && decide (va < x.va + x.len)

/-- The bytes of an access of a queue entry translated at issue and not yet performed. -/
def QEntry.translated (e : QEntry) : Option (Nat × Nat) :=
  match e.work with
  | .xload _ n (.mem _) a _ _ _ => some (a.toNat, n)
  | .xstore b (.mem _) a _ _ => some (a.toNat, b.length)
  | _ => none

/-- Is some walk or some access translated before the request still outstanding (R35)? -/
def State.invHeld (s : State) (x : Inv) : Bool :=
  s.misses.any (fun m => m.discarded && x.meets m.ctx m.page 1) ||
  s.peerReqs.any (fun r => x.holdsBytes r.ctx r.addr r.size) ||
  s.cores.any fun e => match e.2.seq with
    | some q => match s.block q.block with
      | some b => (q.c0 ++ q.c1).any fun y => match y.translated with
        | some a => x.holdsBytes b.ctx a.1 a.2
        | none => false
      | none => false
    | none => false

/-- Drop the cached translations of a range and discard its walks in flight (R35). -/
def State.dropRange (s : State) (x : Inv) : State :=
  let keep := fun (e : TlbEntry) => !x.meets e.ctx e.page e.span
  { s with
    tlbDie := (s.tlbDie.1.filter keep, s.tlbDie.2.filter keep)
    cores := mapVals s.cores fun (_ : Nat) (k : Core) => { k with tlb := k.tlb.filter keep }
    misses := s.misses.map fun (m : Miss) => if x.meets m.ctx m.page 1 then { m with discarded := true } else m }

/-- A request that nothing holds is complete: its sequence number goes to XLT.DONE (R35). -/
def State.endInv (s : State) (x : Inv) : State :=
  if s.invHeld x then s
  else match s.ctx x.ctx with
    | some c => { s.setCtx x.ctx { c with xltDone := x.seq } with invs := s.invs.erase x }
    | none => { s with invs := s.invs.erase x }

/-- XLT_INV (R35): the request, or with `flag` the completion of the oldest request of a context. -/
def execXltInv (s : State) : Host.Outcome State Fault Refusal :=
  asEvent s fun a =>
    if a.flag then match s.invs.find? fun x => x.ctx == a.ctx with
      | some x => s.endInv x
      | none => s
    else
      let x : Inv := ⟨a.ctx, a.addr, a.len, a.seq⟩
      let performed := mapVals s.warps fun (_ : Nat) (w : Warp) => if s.ctxOf w = a.ctx then { w with late := [] } else w
      let s1 := ({ s with warps := performed } : State).dropRange x
      ({ s1 with invs := s1.invs ++ [x] } : State).endInv x

/-! Replay (R40). -/

/-- The outstanding faulted pages of a context on a die, by sequence number. -/
def State.faulted (s : State) (ctx die : Nat) : List PFault :=
  sortBy (fun (f g : PFault) => decide (f.seq ≤ g.seq)) (s.pfaults.filter fun (f : PFault) => f.ctx == ctx && f.die == die && !f.waiters.isEmpty)

/-- A released request translates again (R40): it goes on, waits for a walk, or joins a new fault of its page; a fatal fault is met when it issues again. -/
def State.retranslate (s : State) (ctx die : Nat) (x : Waiter) : State :=
  let g := x.agt ctx die
  let t := s.trPage g x.acc (x.addr / 65536, x.addr, 1)
  match t.missed, t.faults.filter fun f => s.replayable ctx f.cause with
  | _ :: _, _ =>
    let s1 := s.noteMiss g x.acc (x.addr / 65536) x.addr
    { s1 with misses := s1.misses.map fun (m : Miss) => if m.takes g (x.addr / 65536) then { m with replay := true } else m }
  | [], [] => s.wakeFor x.who
  | [], fs => s.raiseFaults g fs

/-- One page releases its waiters in the order they joined; a waiter that faults again raises its replay count by one (R40). -/
def State.release (s : State) (f : PFault) : State :=
  let s1 := { s with
    pfaults := s.pfaults.map fun (x : PFault) => if x = f then { x with waiters := [], replays := x.replays + 1 } else x
    xlfail := s.xlfail.filter fun x => !(f.waiters.any (·.who == x.who) && decide (f.page ≤ x.walked) && decide (x.walked < f.page + f.span)) }
  f.waiters.foldl (fun (s : State) x => s.retranslate f.ctx f.die x) s1

/-- Is a replay of a context in progress (R39)? -/
def State.replaying (s : State) (ctx : Nat) : Bool := s.misses.any fun m => m.ctx == ctx && m.replay

/-- FQ_REPLAY (R40): on each die the outstanding faulted pages are released by sequence number; during a replay those that faulted since it began. -/
def execFqReplay (s : State) : Host.Outcome State Fault Refusal :=
  asEvent s fun a => (s.faulted a.ctx 0 ++ s.faulted a.ctx 1).foldl State.release s

/-! Writes of path TK that wait (R37, R177). -/

/-- The writes of path TK that wait for no page any more are performed in the order they arose; one that meets a fatal fault ends its context (R177, R279). -/
def State.payOwed (s : State) : State :=
  s.owed.foldl (fun (s : State) x =>
    if s.pageBusy (tkAgt x.ctx 0) (x.op.range.1 / 65536) || !s.owed.contains x then s
    else match s.tkRange x.ctx .atomic x.op.range.1 x.op.range.2 true with
      | .ok _ => ({ s with owed := s.owed.erase x } : State).tkDo x.ctx x.op
      | .error y =>
        if s.replayable x.ctx y.cause then s.raiseTk x.ctx y
        else ({ s with owed := s.owed.erase x } : State).terminate x.ctx 7) s

end Sys2Proof.Machine
end

