-- ==== Sys2Proof/Machine/HostLink.lean ====
section
/-! DEFINITION. The host's control link: registers (R5, R38, R39, R169, R171, R208, R277, R281, R284, R456, R462), the host memory window (R456), queue tails and states (R209, R212), retirement bitmaps (R174, R283), and the creation of a context (R17). -/
namespace Sys2Proof.Machine
open Sys2Proof

/-! Registers. -/

/-- Fault queue entries that waited for room are written once there is some (R38). -/
def State.writeHeldFaults (s : State) (ctx : Nat) : State :=
  (s.pfaults.filter fun (f : PFault) => f.ctx == ctx && !f.written && !f.waiters.isEmpty).foldl (fun (s : State) f =>
    let r := s.writeFq f.ctx f.die f.cause f.first f.replays
    if r.2.1 then
      { r.1 with pfaults := r.1.pfaults.map fun (x : PFault) => if x = f then { x with written := true, seq := r.2.2 } else x }
    else r.1) s

/-- A ring's size as the driver may set it (R38, R169, R281). -/
def sizeOk (n least most : Nat) : Bool := decide (least ≤ n) && decide (n ≤ most) && (List.range 17).any (fun i => n == 2 ^ i)

/-- Change a context's record. -/
def State.onCtx (s : State) (c : Nat) (f : Ctx → Ctx) : State :=
  match s.ctx c with
  | some x => s.setCtx c (f x)
  | none => s

/-- The queue entry's fields that the driver writes (R208). -/
def Queue.writeField (q : Queue) (f : QueueField) (v : Word64) : Queue :=
  match f with
  | .ringbase => { q with ringbase := v &&& ~~~ 0x3F#64 }
  | .ringsize => if sizeOk v.toNat 64 65536 then { q with ringsize := v.toNat } else q
  | .ctx => { q with ctx := v.toNat % 64 }
  | .cls => { q with cls := v.toNat % 16 }
  | .state => q

/-- A queue's STATE is written (R208, R212). -/
def State.setQueueState (s : State) (n : Nat) (v : Nat) : State :=
  let q := s.queues.getD n {}
  let ends := match s.ctx q.ctx with | some x => x.terminating.isSome | none => false
  match v with
  | 0 => { s with queues := s.queues.put n { q with st := QueueSt.disabled } }
  | 1 => if ends then s else { s with queues := s.queues.put n { q with st := QueueSt.running }, power := if s.power = Power.idle then Power.active else s.power }
  | 2 => { s with queues := s.queues.put n { q with st := QueueSt.stopped } }
  | _ => s

/-- FRZ.CTL but for NOW (R284). -/
def frzOf (v : Word64) : FrzCtl :=
  { mcause := (v.extractLsb' 8 8).toNat, trapen := v.getLsbD 4, onbrim := v.getLsbD 3, onterm := v.getLsbD 2, onbridge := v.getLsbD 1 }

/-- The greatest PWR.LIMIT in watts (R462). -/
def pwrMax : Nat := if Config.is880M then 2600 else 2400

/-- A range the package exports to a peer job, or its withdrawal with length 0 (R28). -/
def State.setExport (s : State) (ctx base len : Nat) : State :=
  let rest := s.exports.filter fun (e : Export) => !(e.ctx == ctx && e.base == base)
  { s with exports := if len = 0 then rest else rest ++ [⟨ctx, base, len⟩] }

/-- A control register is written (R5). -/
def State.writeReg (s : State) (r : CtlReg) (v : Word64) : State :=
  let n := v.toNat
  match r with
  | .traph c => s.onCtx c fun x => { x with traph := v }
  | .wdogDef c => s.onCtx c fun x => { x with wdogDef := n % 32 }
  | .fqBase c => s.onCtx c fun x => { x with fq := { x.fq with base := n } }
  | .fqSize c => if sizeOk n 64 65536 then s.onCtx c fun x => { x with fq := { x.fq with size := n } } else s
  | .fqHead c => (s.onCtx c fun x => { x with fq := { x.fq with head := n } }).writeHeldFaults c
  | .fqStat c => if v.getLsbD 1 then s.onCtx c fun x => { x with fq := { x.fq with ovf := false } } else s
  | .diagBase c => s.onCtx c fun x => { x with diag := { x.diag with base := n } }
  | .diagSize c => if sizeOk n 64 4096 then s.onCtx c fun x => { x with diag := { x.diag with size := n } } else s
  | .diagHead c => s.onCtx c fun x => { x with diag := { x.diag with head := n } }
  | .carafeBase c => s.onCtx c fun x => { x with carafeBase := v }
  | .carafeCount c => s.onCtx c fun x => { x with carafeCount := n }
  | .melBase d => s.setMel d { s.melOf d with base := n }
  | .melSize d => if sizeOk n 64 65536 then s.setMel d { s.melOf d with size := n } else s
  | .melHead d => s.setMel d { s.melOf d with head := n }
  | .frzCtl => { s with frzCtl := frzOf v }
  | .pwrLimit => if 1200 ≤ n ∧ n ≤ pwrMax then { s with pwrLimit := n } else s
  | .hostwinBase => { s with hostBase := n / 2 ^ 20 * 2 ^ 20 }
  | .hostwinStat => if v.getLsbD 0 then { s with hostErr := false } else s
  | .drip u i => s.setDrip u i ((s.dripOf u i).write v)
  | .queue q .state => s.setQueueState q n
  | .queue q f => { s with queues := s.queues.put q ((s.queues.getD q {}).writeField f v) }
  | .taskBind q => { s with taskQ := s.taskQ.put q { (s.taskQ.getD q {} : TaskQueue) with ctx := if n < 64 then some n else none } }
  | .exportRange c base => s.setExport c base n
  | .other k => { s with regs := s.regs.put k v }

/-- FQ.STAT (R39). -/
def State.fqStat (s : State) (ctx : Nat) : Nat :=
  let r := ((s.ctx ctx).map fun (x : Ctx) => x.fq).getD {}
  (if r.head ≠ r.tail then 1 else 0) + (if r.ovf then 2 else 0) + (if s.replaying ctx then 4 else 0)

/-- FRZ.CTL as it reads: NOW is write only (R284). -/
def FrzCtl.value (x : FrzCtl) : Nat :=
  x.mcause * 256 + x.trapen.toNat * 16 + x.onbrim.toNat * 8 + x.onterm.toNat * 4 + x.onbridge.toNat * 2

/-- A DRIP register as it reads (R171). -/
def Drip.value (d : Drip) : Nat :=
  d.level * 2 ^ 48 + d.brim * 2 ^ 32 + d.shift * 2 ^ 23 + d.inc * 2 ^ 15 + d.fired.toNat * 4 + d.armed.toNat * 2 + d.en.toNat

/-- A queue table field as it reads (R208). -/
def Queue.readField (q : Queue) : QueueField → Nat
  | .ringbase => q.ringbase.toNat
  | .ringsize => q.ringsize
  | .ctx => q.ctx
  | .cls => q.cls
  | .state => match q.st with | .disabled => 0 | .running => 1 | .stopped => 2

/-- A control register as the driver reads it (R5, R39). -/
def State.readReg (s : State) (r : CtlReg) : Nat :=
  let ofCtx := fun (c : Nat) (f : Ctx → Nat) => ((s.ctx c).map f).getD 0
  match r with
  | .traph c => ofCtx c fun x => x.traph.toNat
  | .wdogDef c => ofCtx c fun x => x.wdogDef
  | .fqBase c => ofCtx c fun x => x.fq.base
  | .fqSize c => ofCtx c fun x => x.fq.size
  | .fqHead c => ofCtx c fun x => x.fq.head
  | .fqStat c => s.fqStat c
  | .diagBase c => ofCtx c fun x => x.diag.base
  | .diagSize c => ofCtx c fun x => x.diag.size
  | .diagHead c => ofCtx c fun x => x.diag.head
  | .carafeBase c => ofCtx c fun x => x.carafeBase.toNat
  | .carafeCount c => ofCtx c fun x => x.carafeCount
  | .melBase d => (s.melOf d).base
  | .melSize d => (s.melOf d).size
  | .melHead d => (s.melOf d).head
  | .frzCtl => s.frzCtl.value
  | .pwrLimit => s.pwrLimit
  | .hostwinBase => s.hostBase
  | .hostwinStat => s.hostErr.toNat
  | .drip u i => (s.dripOf u i).value
  | .queue q f => (s.queues.getD q {}).readField f
  | .taskBind q => (s.taskQ.getD q {} : TaskQueue).ctx.getD 64
  | .exportRange c base => ((s.exports.find? fun (e : Export) => e.ctx == c && e.base == base).map fun e => e.len).getD 0
  | .other k => (s.regs.getD k 0).toNat

/-- REGISTER_WRITE (R5); with `flag` the driver reads the register instead (R39; log entry 8). -/
def execRegisterWrite (s : State) : Host.Outcome State Fault Refusal :=
  asEvent s fun a => if a.flag then { s with hostReply := .bytes (leBytes 8 (s.readReg a.reg)) } else s.writeReg a.reg a.value

/-- QUEUE_TAIL_WRITE (R209): TAIL and RESERVE; work wakes an idle package (R460). -/
def execQueueTailWrite (s : State) : Host.Outcome State Fault Refusal :=
  asEvent s fun a =>
    if 4096 ≤ a.id then s
    else { s with
      queues := s.queues.put a.id { (s.queues.getD a.id {} : Queue) with tail := a.value.toNat, reserve := a.value.toNat }
      power := if s.power = Power.idle then Power.active else s.power }

/-- QUEUE_STATE_WRITE (R212). -/
def execQueueStateWrite (s : State) : Host.Outcome State Fault Refusal :=
  asEvent s fun a => if 4096 ≤ a.id then s else s.setQueueState a.id a.value.toNat

/-! The host memory window (R456). -/

/-- Does a window access reach memory: a populated range, on a port and over a bridge that are up? -/
def State.hostReach (s : State) (off n : Nat) : Bool :=
  decide (off + n ≤ 2 ^ 20) && (s.inHbm (s.hostBase + off) n || s.inCxl (s.hostBase + off) n) && !s.cutOff 0 (s.hostBase + off)

/-- HOSTWIN_DATA_WRITE (R456). -/
def execHostwinDataWrite (s : State) : Host.Outcome State Fault Refusal :=
  asEvent s fun a =>
    if s.hostReach a.addr a.bytes.length then { (s.touch (homeDie (s.hostBase + a.addr)) true (s.hostBase + a.addr) a.bytes.length).writeUnder 0 (s.hostBase + a.addr) a.bytes with hostWrites := (s.hostWrites + 1) % 2 ^ 32 }
    else { s with hostErr := true }

/-- HOSTWIN_DATA_READ (R456): all ones where no memory is reached. -/
def execHostwinDataRead (s : State) : Host.Outcome State Fault Refusal :=
  asEvent s fun a =>
    if s.hostReach a.addr a.len then { s.touch (homeDie (s.hostBase + a.addr)) false (s.hostBase + a.addr) a.len with hostReply := .bytes (s.readPhys (s.hostBase + a.addr) a.len) }
    else { s with hostReply := .bytes (List.replicate a.len 0xFF), hostErr := true }

/-- HOSTWIN_FENCE_WRITE (R456): every earlier host write is performed already (log entry 5). -/
def execHostwinFenceWrite (s : State) : Host.Outcome State Fault Refusal := asEvent s fun _ => { s with hostReply := .ok }

/-- HOSTWIN_FENCE_READ (R456): the count of host writes performed. -/
def execHostwinFenceRead (s : State) : Host.Outcome State Fault Refusal :=
  asEvent s fun _ => { s with hostReply := .bytes (leBytes 4 s.hostWrites) }

/-! Retirement (R174, R283). -/

/-- PLC_RETIRED_WRITE (R283): a core retired is no longer wanted by a signature-driven launch (R228). -/
def execPlcRetiredWrite (s : State) : Host.Outcome State Fault Refusal :=
  asEvent s fun a =>
    { s with
      plcRetired := s.plcRetired ||| a.bits
      launches := mapVals s.launches fun (_ : Nat) (l : Launch) => { l with want := l.want.filter fun (e : Nat × Nat) => !a.bits.getLsbD e.1 } }

/-- Slices retired on a die. -/
def slicesRetired (r : BitVec 128) (die : Nat) : Nat := ((List.range 64).filter fun i => r.getLsbD (64 * die + i)).length

/-- Retire slices in rising order; a ninth on a die is refused (R174). -/
def retireSlices (r : BitVec 128) (want : BitVec 192) : BitVec 128 × Bool :=
  (List.range 128).foldl (fun (x : BitVec 128 × Bool) i =>
    if !want.getLsbD i || x.1.getLsbD i then x
    else if 8 ≤ slicesRetired x.1 (i / 64) then (x.1, true)
    else (x.1 ||| (1#128 <<< i), x.2)) (r, false)

/-- PLC_L2RET_WRITE (R174). -/
def execPlcL2retWrite (s : State) : Host.Outcome State Fault Refusal :=
  asEvent s fun a =>
    let r := retireSlices s.l2ret a.bits
    { s with l2ret := r.1, l2full := s.l2full || r.2, l2pend := r.1 != s.l2retDone }

/-- PLC_CLRET_WRITE (R174). -/
def execPlcClretWrite (s : State) : Host.Outcome State Fault Refusal :=
  asEvent s fun a => { s with clret := s.clret ||| a.bits.extractLsb' 0 12 }

/-- A line leaves its slice: its data goes to memory and its remote copy is recalled; the entry of one in an exchange moves with it (R174). -/
def State.leaveSlice (s : State) (n : Nat) : State :=
  let l := s.line n
  if l.moving || !l.waiting.isEmpty || !l.remWrites.isEmpty then s
  else
    let s1 := s.setPhysBytes (n * 128) (s.physBytes (n * 128) 128)
    let s2 := if l.rem = .m then s1.migNote (n * 128) else s1
    { s2 with lines := s2.lines.del n }

/-- L2_RETIREMENT_APPLY (R174): in IDLE, the lines that the retired slices serve leave them, and map to the remaining slices from then on; a slice of L2 scratch is replaced with its contents. -/
def execL2RetirementApply (s : State) : Host.Outcome State Fault Refusal :=
  asEvent s fun _ =>
    if s.power = Power.idle ∧ s.l2pend then
      (let gone := (s.lines.map Prod.fst).filter fun n => s.sliceIn s.l2ret n != s.sliceIn s.l2retDone n
       { gone.foldl State.leaveSlice s with l2retDone := s.l2ret, l2pend := false })
    else s

/-! Contexts (R17). -/

/-- Ranges of a carve-out overlap. -/
def unitsMeet (a b : Nat × Nat) : Bool := decide (0 < a.2) && decide (0 < b.2) && decide (a.1 < b.1 + b.2) && decide (b.1 < a.1 + a.2)

/-- A grant on a die overlaps another context's. -/
def State.grantTaken (s : State) (ctx die : Nat) (g : Nat × Nat) : Bool :=
  s.ctxs.any fun e => e.1 != ctx && !e.2.ended && unitsMeet g (if die = 0 then e.2.scr0 else e.2.scr1)

/-- The first failing case of R17 in its order, from 1; none when the job can be created. -/
def State.jobFault (s : State) (ctx : Nat) (b : List Byte) : Option Nat :=
  let root := fieldAt b 0x00 8
  let lane := fieldAt b 0x08 8
  let size := fieldAt b 0x10 4
  let scr0 := (fieldAt b 0x18 2, fieldAt b 0x1A 2)
  let scr1 := (fieldAt b 0x1C 2, fieldAt b 0x1E 2)
  let carve := fun (die : Nat) => match s.boot with | some x => if die = 0 then x.scr0 else x.scr1 | none => 0
  let over_ := fun (g : Nat × Nat) (die : Nat) => decide (16 < g.2) || decide (carve die < g.1 + g.2)
  if root % 0x40000 ≠ 0 ∨ !s.inHbm root 0x40000 then some 1
  else if lane % 65536 ≠ 0 ∨ windowsBase < lane + 294912 * size * 65536 then some 2
  else if size = 0 ∨ 1024 < size then some 3
  else if 1 < fieldAt b 0x14 1 then some 4
  else if over_ scr0 0 || over_ scr1 1 then some 5
  else if s.grantTaken ctx 0 scr0 || s.grantTaken ctx 1 scr1 then some 6
  else if fieldAt b 0x15 3 ≠ 0 ∨ fieldAt b 0x20 32 ≠ 0 then some 7
  else none

/-- Zero a grant of L2 scratch (R62). -/
def State.zeroGrant (s : State) (die : Nat) (g : Nat × Nat) : State :=
  let lo := die * 2 ^ 26 + g.1 * 0x400000
  let hi := lo + g.2 * 0x400000
  { s with
    scratch := s.scratch.filter fun (e : Nat × Byte) => decide (e.1 < lo) || decide (hi ≤ e.1)
    scrPoison := s.scrPoison.filter fun (e : Nat × Nat) => decide (e.1 * 64 < lo) || decide (hi ≤ e.1 * 64) }

/-- JOB_CREATION (R17): the context's addressing descriptor is checked and fixed; `value` names the job's completion counter, 0 for none.
DESIGN CHOICE (log entry 29): rejection 8, which R17 does not list, answers the creation of a context that is alive and a descriptor that is not 64 bytes long. -/
def execJobCreation (s : State) : Host.Outcome State Fault Refusal :=
  asEvent s fun a =>
    let b := a.bytes
    let lives := match s.ctx a.ctx with | some x => !x.ended | none => false
    if lives || b.length != 64 then { s with hostReply := .rejected 8 }
    else match s.jobFault a.ctx b with
      | some r => { s with hostReply := .rejected r }
      | none =>
        let x : Ctx := { root := fieldAt b 0x00 8, laneBase := fieldAt b 0x08 8, laneSize := fieldAt b 0x10 4 * 65536, fmode := fieldAt b 0x14 1,
                         scr0 := (fieldAt b 0x18 2, fieldAt b 0x1A 2), scr1 := (fieldAt b 0x1C 2, fieldAt b 0x1E 2), counter := a.value }
        let s1 := (s.zeroGrant 0 x.scr0).zeroGrant 1 x.scr1
        { s1.setCtx a.ctx x with hostReply := .ok, domains := s1.domains.filter fun (d : Domain) => d.ctx != a.ctx }

end Sys2Proof.Machine
end

