-- ==== Sys2Proof/Machine/Boot.lean ====
section
/-! DEFINITION. Reset and boot (R457, R458), attestation and key loading (R459), power states, operating points and limits (R460-R462), CXL ports (R455), register banks (R53), and readout (R463). -/
namespace Sys2Proof.Machine
open Sys2Proof

/-! Reset. -/

/-- The package after a reset: RECOVERY with nothing kept but what stands outside it (memory behind the CXL ports) and, on a warm reset, the SVN floor (R457, R460; log entry 3). The model's own counters and inputs go on. -/
def State.afterReset (s : State) (cold : Bool) : State :=
  { State.reset with
    free := s.free
    inbox := s.inbox
    ids := s.ids
    msix := s.msix
    mem := s.mem.filter fun (e : Host.Cell) => decide (2 ^ 44 ≤ e.1)
    poison := s.poison.filter fun (e : Nat × Nat) => decide (2 ^ 38 ≤ e.1)
    seals := mapVals (s.seals.filter fun (e : Nat × Seal) => decide (2 ^ 38 ≤ e.1)) fun (_ : Nat) (k : Seal) => { k with ok := false }
    svnFloor := if cold || s.power = Power.off then none else s.svnFloor }

/-- RESET (R457): `flag` says that it is a cold one. -/
def execReset (s : State) : Host.Outcome State Fault Refusal := asRequest s fun a => s.afterReset a.flag

/-- POWER_LOSS (R460): OFF, with contexts and HBM contents lost. -/
def execPowerLoss (s : State) : Host.Outcome State Fault Refusal :=
  asRequest s fun _ => { s.afterReset true with power := Power.off }

/-! The boot image (R458). -/

/-- Bits set in a number's low n bits. -/
def popCount (v n : Nat) : Nat := ((List.range n).filter fun i => v.testBit i).length

/-- An operating point's fields (R461). -/
def oppOk (b : List Byte) (i : Nat) : Bool :=
  let f := fieldAt b (0x20 + 8 * i) 2
  let v := fieldAt b (0x22 + 8 * i) 2
  decide (800 ≤ f) && decide (f ≤ 3300) && decide (540 ≤ v) && decide (v ≤ 660) && fieldAt b (0x24 + 8 * i) 4 == 0

/-- A die's stacks: none populated beyond its capacity, and 4 GiB reserved (R10). -/
def hbmOk (b : List Byte) (die : Nat) : Bool :=
  let ls := (List.range 6).map fun k => fieldAt b (0x10 + 6 * die + k) 1
  ls.all (fun n => decide (n ≤ Config.stackGiB)) && decide (ls.foldl (· + ·) 0 + 4 ≤ 6 * Config.stackGiB)

/-- The fields of an image keep their rules (R10, R175, R458, R461). -/
def imageOk (b : List Byte) : Bool :=
  let n := fieldAt b 0x04 4
  let scr := fieldAt b 0x1C 2
  fieldAt b 0 4 == 0x47544238 && n == b.length && n % 64 == 0 && decide (n ≤ 2 ^ 26) && decide (0x80 + 132 ≤ n) &&
  decide (fieldAt b 0x0C 2 < 32768) && decide (fieldAt b 0x0E 1 < 2) && fieldAt b 0x0F 1 == 0 && hbmOk b 0 && hbmOk b 1 &&
  decide (scr < 1024) && decide (scr % 32 ≤ 16) && decide (scr / 32 ≤ 16) && decide (popCount (fieldAt b 0x1E 2) 16 ≤ 4) &&
  (List.range 8).all (oppOk b) && fieldAt b 0x68 24 == 0

/-- The configuration an image applies. -/
def bootOf (b : List Byte) : Boot :=
  { pkgid := fieldAt b 0x0C 2, hbmlen := (List.range 12).map fun i => fieldAt b (0x10 + i) 1, scr0 := fieldAt b 0x1C 2 % 32, scr1 := fieldAt b 0x1C 2 / 32 % 32,
    brret := BitVec.ofNat 16 (fieldAt b 0x1E 2), debug := fieldAt b 0x0E 1 == 1, svn := BitVec.ofNat 32 (fieldAt b 0x08 4),
    opp := (List.range 8).map fun i => (fieldAt b (0x20 + 8 * i) 2, fieldAt b (0x22 + 8 * i) 2),
    hash := Config.sha512 (b.take (b.length - 132)) }

/-- The CXL ports that train with a type-3 expander, with the capacity it reports in whole GiB (R10, R455). -/
def trainedPorts : Assoc Nat := (List.range 8).filterMap fun p => (Config.cxlCapacity p).map fun n => (p, n)

/-- BOOT_IMAGE (R457): in RECOVERY an image that passes every step makes the package ACTIVE; any other leaves it there. -/
def execBootImage (s : State) : Host.Outcome State Fault Refusal :=
  asRequest s fun a =>
    let b := a.bytes
    let x := bootOf b
    let fresh := match s.svnFloor with | some f => decide (f.toNat ≤ x.svn.toNat) | none => true
    if s.power ≠ Power.recovery then s
    else if imageOk b && Config.imageSigned b && fresh then
      { s with power := Power.active, boot := some x, noFloor := s.svnFloor.isNone, svnFloor := some x.svn, cxl := trainedPorts, hostReply := .ok }
    else { s with hostReply := .rejected 0 }

/-! Attestation and keys (R459). -/

/-- The report of ATTEST (R459): nonce, image hash, SVN, NOFLOOR, bound key slots, PKGID; the order is the model's (log entry 6). -/
def State.report (s : State) (nonce : List Byte) (x : Boot) : List Byte :=
  nonce ++ leBytes 64 x.hash.toNat ++ leBytes 4 x.svn.toNat ++ leBytes 1 s.noFloor.toNat ++ leBytes 1 (s.keys.length % 256) ++ leBytes 2 x.pkgid

/-- ATTEST (R459). -/
def execAttest (s : State) : Host.Outcome State Fault Refusal :=
  asEvent s fun a => match s.boot with
    | some x =>
      if a.bytes.length = 64 then
        (let r := s.report a.bytes x
         { s with hostReply := .bytes (r ++ Config.identitySign r) })
      else { s with hostReply := .rejected 0 }
    | none => { s with hostReply := .rejected 0 }

/-- A key slot receives another pair: what its sectors decrypt to changes (R162; log entry 28). -/
def State.rekey (s : State) (key : Nat) (pair : BitVec 512) : State :=
  s.seals.foldl (fun (s : State) e =>
    if e.2.key = key ∧ e.2.pair ≠ pair ∧ e.2.ok then
      (let t := s.setPhysBytes (e.1 * 64) (Config.xtsDecrypt pair (e.1 * 64) (s.stored e.1))
       { t with seals := t.seals.put e.1 { e.2 with pair := pair } })
    else s) { s with pairs := s.pairs.put key pair }

/-- KEYLOAD (R29, R162, R459): key slot `id` takes a key pair and is bound to one context. -/
def execKeyload (s : State) : Host.Outcome State Fault Refusal :=
  asEvent s fun a =>
    let bound := match s.keys.find a.id with | some c => c != a.ctx | none => false
    if a.id == 0 || decide (255 < a.id) || bound || (s.ctx a.ctx).isNone || !Config.keyUnwraps a.bytes then { s with hostReply := .rejected 0 }
    else { s.rekey a.id (Config.keyPair a.bytes) with keys := s.keys.put a.id a.ctx, hostReply := .ok }

/-! Power (R460-R462). -/

/-- Nothing resident and no queue RUNNING (R460). -/
def State.quiet (s : State) : Bool :=
  !(s.blocks.any fun e => e.2.st == BlockSt.resident || e.2.st == BlockSt.draining) && !(s.queues.any fun e => e.2.st == QueueSt.running)

/-- Cycles of 1 ms at 3.3 GHz (log entry 4). -/
def cycles1ms : Nat := 3300000

/-- Has the package been quiet for 1 ms? -/
def State.idleDue (s : State) : Bool :=
  s.power == Power.active && s.quiet && (match s.idleSince with | some t => decide (t + cycles1ms ≤ s.clock) | none => false)

/-- IDLE_ENTRY (R460). -/
def execIdleEntry (s : State) : Host.Outcome State Fault Refusal := asEvent s fun _ => if s.idleDue then { s with power := Power.idle } else s

/-- WAKE (R460). -/
def execWake (s : State) : Host.Outcome State Fault Refusal :=
  asRequest s fun _ => if s.power = Power.standby ∧ !s.frozen then { s with power := Power.active } else s

/-- A change of operating point: issue stops for at most 20 µs (R461). -/
def State.changePoint (s : State) (p : Nat) : State :=
  { s with opPoint := p, opHold := some (s.clock + 1 + Config.delay s.free % 66000), free := s.free + 1 }

/-- OPERATING_POINT_CHANGE (R461): to point `id`. -/
def execOperatingPointChange (s : State) : Host.Outcome State Fault Refusal :=
  asEvent s fun a => if a.id < 8 then s.changePoint a.id else s

/-- One step down (R462). -/
def State.lowerPoint (s : State) : State := if s.opPoint = 0 then s else s.changePoint (s.opPoint - 1)

/-- POWER_LIMIT_EXCEEDED (R462): `value` is the power measured over 10 ms, in watts. -/
def execPowerLimitExceeded (s : State) : Host.Outcome State Fault Refusal :=
  asEvent s fun a => if s.pwrLimit < a.value.toNat then s.lowerPoint else s

/-- THERMAL_THROTTLE (R462): `value` is a sensor's temperature in °C. -/
def execThermalThrottle (s : State) : Host.Outcome State Fault Refusal :=
  asEvent s fun a => if 95 < a.value.toNat then s.lowerPoint else s

/-- CRITICAL_TEMPERATURE (R462): at 110 °C the package freezes and THERMAL is raised. -/
def execCriticalTemperature (s : State) : Host.Outcome State Fault Refusal :=
  asEvent s fun a => if 110 ≤ a.value.toNat then (s.raiseFreeze).interrupt .thermal else s

/-- CXL_PORT_DOWN (R455): port `id` stays down until reset. -/
def execCxlPortDown (s : State) : Host.Outcome State Fault Refusal :=
  asEvent s fun a => if (s.cxl.find a.id).isSome ∧ !s.cxlDown.contains a.id then { s with cxlDown := a.id :: s.cxlDown } else s

/-! Register banks (R53). -/

/-- The tiles of a bank. -/
def State.bankTiles (s : State) (c b : Nat) : List Tile := (List.range 8).map fun i => s.tile c (8 * b + i)

/-- May a bank enter RETENTION: every tile FREE, SUSPENDED or RETAINED and one not FREE (R53)? -/
def State.mayRetain (s : State) (c b : Nat) : Bool :=
  let ts := s.bankTiles c b
  ts.all (fun t => t.st == .free || t.st == .suspended || t.st == .retained) && ts.any (fun t => t.st != .free)

/-- May a bank be gated: all tiles FREE (R53)? -/
def State.mayGate (s : State) (c b : Nat) : Bool := (s.bankTiles c b).all fun t => t.st == .free

/-- Change the tiles of a bank. -/
def State.onBank (s : State) (c b : Nat) (f : Tile → Tile) : State :=
  (List.range 8).foldl (fun (s : State) i => s.setTile c (8 * b + i) (f (s.tile c (8 * b + i)))) s

/-- A bank enters RETENTION: its SUSPENDED tiles become RETAINED (R53, R185). -/
def State.retain (s : State) (c b : Nat) : State :=
  (s.onBank c b fun t => if t.st = .suspended then { t with st := .retained } else t).setBank c b { st := BankState.retention }

/-- A bank is gated: its contents are lost (R52, R53). -/
def State.gate (s : State) (c b : Nat) : State :=
  (s.onBank c b fun t => { t with gated := true, elems := [] }).setBank c b { st := BankState.gated }

/-- BANK_POWER_TRANSITION (R53): bank `id` of a core, where the conditions allow the state. -/
def execBankPowerTransition (s : State) : Host.Outcome State Fault Refusal :=
  asEvent s fun a =>
    let b := a.id
    let now := s.bank a.core b
    if 16 ≤ b ∨ now.st = a.bank ∨ now.backAt.isSome then s
    else match a.bank with
      | .on => s.setBank a.core b { st := BankState.on }
      | .retention => if s.mayRetain a.core b ∧ now.st = BankState.on then s.retain a.core b else s
      | .gated => if s.mayGate a.core b then s.gate a.core b else s

/-- BANK_RETURN_TO_ON (R53): 24 cycles after the first access to a bank in RETENTION, 64 after a grant in a gated one. -/
def execBankReturnToOn (s : State) : Host.Outcome State Fault Refusal :=
  asEvent s fun a => match (s.bank a.core a.id).backAt with
    | some t => if t ≤ s.clock then s.setBank a.core a.id { st := BankState.on } else s
    | none => s

/-! Readout (R463). -/

/-- Bytes of a ring of records in memory. -/
def State.ringBytes (s : State) (r : LogRing) (each : Nat) : List Byte := s.readPhys r.base (r.size * each)

/-- What may be read in any case: fault queues, memory error logs and diagnostic rings (R463). -/
def State.openReadout (s : State) : List Byte :=
  s.ctxs.flatMap (fun e => s.ringBytes e.2.fq 32) ++ s.ringBytes s.mel.1 32 ++ s.ringBytes s.mel.2 32 ++ s.ctxs.flatMap fun e => s.ringBytes e.2.diag 64

/-- Registers, trap registers and handles of a core. -/
def State.scanRegs (s : State) (c : Nat) : List Byte :=
  let ws := (List.range 48).filterMap fun k => s.warp c k
  let one := fun (w : Warp) => leBytes 8 w.pc.toNat ++ (List.range 256).flatMap (fun n => leBytes 8 (w.sreg n).toNat) ++ (List.range 8).flatMap (fun n => leBytes 4 (w.pred n).toNat) ++
    [w.traps.pc, w.traps.npc, w.traps.cause, w.traps.mask, w.traps.addr, w.traps.scr0, w.traps.scr1].flatMap fun v => leBytes 8 v.toNat
  let seq := match s.seq c with
    | some q => leBytes 8 q.pc.toNat ++ (List.range 256).flatMap (fun n => leBytes 8 (q.xs.getD n 0).toNat) ++
        q.handles.flatMap fun h => leBytes 1 h.1 ++ leBytes 1 h.2.base ++ leBytes 1 h.2.n ++ leBytes 1 h.2.fp ++ leBytes 1 h.2.dp
    | none => []
  ws.flatMap one ++ seq

/-- Tiles of a core with their owner fields. -/
def State.scanTiles (s : State) (c : Nat) : List Byte :=
  (s.core c).tiles.flatMap fun e => leBytes 1 e.1 ++ leBytes 2 e.2.ownerField ++ e.2.elems.flatMap fun x => leBytes 2 x.1 ++ leBytes 4 x.2.bits.toNat

/-- The number of a home state in a readout: its place in R147's and R148's tables (log entry 6). -/
def HomeSt.code : HomeSt → Nat
  | .di => 0 | .ds => 1 | .de => 2 | .dO => 3 | .hwInv => 4 | .hwFs => 5 | .hwFi => 6 | .hwMem => 7
/-- The number of a remote state in a readout (R136, R149; log entry 6). -/
def RemSt.code : RemSt → Nat
  | .i => 0 | .s => 1 | .e => 2 | .o => 3 | .m => 4 | .is => 5 | .im => 6 | .sm => 7 | .wi => 8 | .ei => 9

/-- The scan of a die in the order of R463. -/
def State.scanDie (s : State) (die : Nat) : List Byte :=
  let cs := (List.range 96).map (· + 96 * die)
  cs.flatMap s.scanRegs ++ cs.flatMap s.scanTiles ++
  cs.flatMap (fun c => (s.core c).l1.flatMap (fun l => l.2.bytes) ++ (s.core c).shared.map Prod.snd) ++
  (s.lines.filter fun e => decide (homeDie (e.1 * 128) = die)).flatMap (fun e => leBytes 8 e.1 ++ leBytes 1 e.2.home.code ++ leBytes 1 e.2.rem.code ++ (e.2.homeCopy.getD []) ++ (e.2.remCopy.getD [])) ++
  (s.links.filter fun l => decide (l.1 / 16 = die)).flatMap fun l => l.2.unacked.flatMap Prod.snd

/-- A readout with its digest and signature. -/
def signedReadout (b : List Byte) : List Byte :=
  let d := leBytes 64 (Config.sha512 b).toNat
  b ++ d ++ Config.identitySign d

/-- READOUT (R463) of a frozen package: with a length, bytes of HBM; else both dies' state, after which the package is reset. -/
def execReadout (s : State) : Host.Outcome State Fault Refusal :=
  asRequest s fun a =>
    if !s.frozen then { s with hostReply := .rejected 0 }
    else if 0 < a.len then { s with hostReply := if s.inHbm a.addr a.len then .bytes (s.readPhys a.addr a.len) else .rejected 1 }
    else
      let out := if (match s.boot with | some x => x.debug | none => false) then signedReadout (s.scanDie 0) ++ signedReadout (s.scanDie 1) else signedReadout s.openReadout
      { s.afterReset false with hostReply := .bytes out }

end Sys2Proof.Machine
end

