-- ==== Sys2Proof/Machine/Signatures.lean ====
section
/-! DEFINITION. Signatures and the sewing map: signature records (R223), claims and chunks (R224, R225), SIGDONE and SIGYIELD with their timing records (R227, R229), folds (R226, R228), and the instructions (R434-R437). -/
namespace Sys2Proof.Machine
open Sys2Proof

/-! Signature records (R223). -/

/-- SIGSTG (R213). -/
def Launch.sigstg (l : Launch) : Nat := fieldAt l.fields 0xE8 8
/-- TRBASE (R213). -/
def Launch.trbase (l : Launch) : Nat := fieldAt l.fields 0xA8 8
/-- TRSIZE (R213). -/
def Launch.trsize (l : Launch) : Nat := fieldAt l.fields 0xB0 4
/-- A placement mask of the parameter block (R213). -/
def Launch.pmask (l : Launch) (i : Nat) : BitVec 192 := BitVec.ofNat 192 (fieldAt l.fields (0x40 + 24 * i) 24)

/-- MASKID. -/
def Sig.mask (g : Sig) : Nat := fieldAt g.bytes 4 1 % 4
/-- TIMING. -/
def Sig.timing (g : Sig) : Bool := fieldAt g.bytes 5 1 % 2 == 1
/-- MINCHUNK. -/
def Sig.minChunk (g : Sig) : Nat := fieldAt g.bytes 6 2
/-- DIVISOR. -/
def Sig.divisor (g : Sig) : Nat := fieldAt g.bytes 8 2
/-- A record keeps R223. -/
def Sig.ok (g : Sig) (l : Launch) : Bool :=
  (List.range 6).all (fun d => ((List.range 6).map g.perm).contains d) && decide (fieldAt g.bytes 0 4 < 2 ^ 18) &&
  decide (fieldAt g.bytes 4 1 < 4) && decide (fieldAt g.bytes 5 1 < 2) && decide (1 ≤ g.minChunk) && decide (1 ≤ g.divisor) &&
  fieldAt g.bytes 0x0A 6 == 0 && fieldAt g.bytes 0x28 24 == 0 &&
  (List.range 6).all fun d => g.leaf d != 0 && g.leaf d % l.grain d == 0

/-- The current mask of a launch: PMASK0, or the one its signature names; retired cores are never in it (R213, R228, R283). -/
def State.maskNow (s : State) (l : Launch) : BitVec 192 :=
  l.pmask (if l.kind = 1 then (s.sigOf l).mask else 0) &&& ~~~ s.plcRetired

/-! The walk (R223, R224). -/

/-- Leaves of the walk. -/
def Sig.leaves (g : Sig) (l : Launch) : Nat := (List.range 6).foldl (fun n d => n * g.along l d) 1

/-- A leaf's coordinate along each dimension, from its position in the walk: level 0 varies fastest. -/
def Sig.coords (g : Sig) (l : Launch) (p : Nat) : List Nat :=
  ((List.range 6).foldl (fun (r : List Nat × Nat) k =>
    let d := g.perm k
    (r.1.set d (r.2 % g.along l d), r.2 / g.along l d)) (List.replicate 6 0, p)).1

/-- A box of cells: its first cell and its extents. -/
structure Box where
  org : List Nat
  ext : List Nat
  deriving DecidableEq, Repr

/-- The box of a leaf, cut short by the space (R223). -/
def Sig.box (g : Sig) (l : Launch) (p : Nat) : Box :=
  let c := g.coords l p
  { org := (List.range 6).map fun d => c.getD d 0 * g.span l d
    ext := (List.range 6).map fun d => min (g.span l d) (l.cells d - c.getD d 0 * g.span l d) }

/-- The cells of a box in loop order, by coordinates (R223). -/
def Sig.boxCells (g : Sig) (b : Box) : List (List Nat) :=
  let dims := (List.range 6).map g.perm
  (boxCoords (dims.map fun d => (b.org.getD d 0, b.ext.getD d 0))).map fun c =>
    (dims.zip c).foldl (fun (r : List Nat) x => r.set x.1 x.2) (List.replicate 6 0)

/-- The indices of a box's cells. -/
def Sig.boxIndices (g : Sig) (l : Launch) (b : Box) : List Nat := (g.boxCells b).map l.cellIndex

/-- Is a cell open for the launch (R224)? -/
def State.cellOpen (s : State) (l : Launch) (i : Nat) : Bool := s.cell l i == 0 || (l.repair && s.cell l i == 3)

/-- The largest extent along a dimension with every cell of the box open and in the leaf (R224). -/
def State.stretch (s : State) (l : Launch) (g : Sig) (leaf b : Box) (d : Nat) : Box :=
  let room := leaf.org.getD d 0 + leaf.ext.getD d 0 - b.org.getD d 0
  let fits := fun (e : Nat) => (g.boxIndices l { b with ext := b.ext.set d e }).all (s.cellOpen l)
  { b with ext := b.ext.set d (((List.range room).map (· + 1)).takeWhile fits).length }

/-- One claim's box in a leaf with an open cell: greedy by loop level (R224). -/
def State.claimBox (s : State) (l : Launch) (g : Sig) (leaf : Box) (p : List Nat) : Box :=
  (List.range 6).foldl (fun b k => s.stretch l g leaf b (g.perm k)) ⟨p, List.replicate 6 1⟩

/-- A claim from the cursor on (R224): the launch's next cursor and the box, its cells now 01. -/
def State.claimFrom (s : State) (l : Launch) (g : Sig) : Nat → Nat → State × Nat × Option Box
  | 0, cur => (s, cur, none)
  | n + 1, cur =>
    let leaf := g.box l cur
    match (g.boxCells leaf).find? fun c => s.cellOpen l (l.cellIndex c) with
    | none => State.claimFrom s l g n (cur + 1)
    | some p =>
      let b := s.claimBox l g leaf p
      let s1 := (g.boxIndices l b).foldl (fun (s : State) i => s.setCell l i 1) s
      (s1, if b = leaf then cur + 1 else cur, some b)

/-- The leaf a box is, in elements (R224). -/
def Launch.leafOf (l : Launch) (b : Box) : Leaf :=
  { org := (List.range 6).map fun d => b.org.getD d 0 * l.grain d
    ext := (List.range 6).map fun d => min (b.ext.getD d 0 * l.grain d) (l.isize d - b.org.getD d 0 * l.grain d)
    gen := l.generation }

/-- Replace a launch. -/
def State.setLaunch (s : State) (i : Nat) (l : Launch) : State := { s with launches := s.launches.put i l }

/-- Claims in a row, up to a count (R225). -/
def State.claimRow (s : State) (li : Nat) (g : Sig) : Nat → State × List Leaf
  | 0 => (s, [])
  | n + 1 => match s.launches.find li with
    | none => (s, [])
    | some l =>
      let r := s.claimFrom l g (g.leaves l - l.cursor) l.cursor
      let s1 := r.1.setLaunch li { l with cursor := r.2.1 }
      match r.2.2 with
      | none => (s1, [])
      | some b =>
        let rest := State.claimRow s1 li g n
        (rest.1, l.leafOf b :: rest.2)

/-- Leaves of the current signature that hold an open cell (R225). -/
def State.openLeaves (s : State) (l : Launch) (g : Sig) : Nat :=
  ((List.range (g.leaves l)).filter fun p => (g.boxIndices l (g.box l p)).any (s.cellOpen l)).length

/-- Blocks of a launch that claim: RESIDENT, DONE not received (R225). -/
def State.claimers (s : State) (li : Nat) : Nat :=
  (s.blocks.filter fun e => e.2.launch == li && e.2.st == BlockSt.resident && !e.2.gotDone).length

/-- Claims of a chunk (R225). -/
def State.chunkCount (s : State) (li : Nat) (l : Launch) (g : Sig) : Nat :=
  max g.minChunk (s.openLeaves l g / (g.divisor * s.claimers li))

/-! SIGCLAIM (R225, R435). -/

/-- What a SIGCLAIM returns. -/
inductive ClaimRes where
  | leaf (f : Leaf)
  | done
  | retry
  deriving DecidableEq, Repr

/-- Return a block's cached leaves to open (R226, R228). -/
def State.dropChunk (s : State) (bid : Nat) : State :=
  match s.block bid with
  | some b => (s.reopen b.launch b.chunk).setBlock bid { b with chunk := [] }
  | none => s

/-- A block receives DONE. -/
def State.noteDone (s : State) (bid : Nat) : State :=
  match s.block bid with
  | some b => s.setBlock bid { b with gotDone := true }
  | none => s

/-- Hand out the first leaf of a block's chunk. -/
def State.handOut (s : State) (bid : Nat) : State × ClaimRes :=
  match s.block bid with
  | none => (s, .done)
  | some b => match b.chunk with
    | [] => (s, .retry)
    | f :: rest =>
      let h := { f with since := s.clock }
      (s.setBlock bid { b with chunk := rest, handed := b.handed ++ [h] }, .leaf h)

/-- A SIGCLAIM of a block (R225, R228, R275). -/
def State.sigClaim (s : State) (bid : Nat) (b : Block) (l : Launch) : State × ClaimRes :=
  if b.abandoned || l.cancelled then (s.noteDone bid, .done)
  else if !(s.maskNow l).getLsbD b.core then ((s.dropChunk bid).noteDone bid, .done)
  else match b.chunk with
    | _ :: _ => s.handOut bid
    | [] =>
      let g := s.sigOf l
      match s.claimRow b.launch g (s.chunkCount b.launch l g) with
      | (s1, []) =>
        if (List.range l.cellCount).any fun i => s1.cell l i == 1 then (s1, .retry) else (s1.noteDone bid, .done)
      | (s1, fs) => match s1.block bid with
        | some x => (s1.setBlock bid { x with chunk := fs }).handOut bid
        | none => (s1, .done)

/-- Two 32-bit numbers in a register. -/
def pair32 (lo hi : Nat) : Word64 := BitVec.ofNat 64 (lo % 2 ^ 32 + 2 ^ 32 * (hi % 2 ^ 32))

/-- The leaf group of a result (R434, R435). -/
def leafGroup (l : Launch) (g : Nat) : ClaimRes → List (Nat × Word64)
  | .leaf f =>
    let cells := l.leafCells f
    [(g, BitVec.ofNat 64 (f.gen % 2 ^ 32 * 2 ^ 16)),
     (g + 1, pair32 (f.org.getD 0 0) (f.org.getD 1 0)), (g + 2, pair32 (f.org.getD 2 0) (f.org.getD 3 0)), (g + 3, pair32 (f.org.getD 4 0) (f.org.getD 5 0)),
     (g + 4, pair32 (f.ext.getD 0 0) (f.ext.getD 1 0)), (g + 5, pair32 (f.ext.getD 2 0) (f.ext.getD 3 0)), (g + 6, pair32 (f.ext.getD 4 0) (f.ext.getD 5 0)),
     (g + 7, BitVec.ofNat 64 (((cells.head?).getD 0) % 2 ^ 24 + 2 ^ 24 * min cells.length 0xFFFFFF))]
  | r => (g, if r = .done then 0x02 else 0x03) :: (List.range 7).map fun i => (g + 1 + i, (0 : Word64))

/-- Run an instruction of a launch of KIND 1; ILLEGAL in any other (R435-R437). -/
def State.sigRun (s : State) (c k : Nat) (w : Warp) (f : RR) (tuner : Bool) (body : Nat → Block → Launch → WRes) : WRes :=
  s.sysRun c k w f.g fun lane => match s.blockOf w with
    | none => .done s
    | some b => match s.launches.find b.launch with
      | none => wholeTrap w .illegal
      | some l => if l.kind ≠ 1 ∨ (tuner ∧ !b.header.getLsbD 23) then wholeTrap w .illegal else body lane b l

/-- Go on once the structures of a launch that the instruction reads or writes are reached (R26, R36); poison in those it reads is consumed (R166). -/
def State.sigOn (s : State) (c k : Nat) (w : Warp) (lane : Nat) (reads writes : List (Nat × Nat)) (body : WRes) : WRes :=
  match s.structsAt c k w lane .atomic (reads ++ writes), s.rangePoison (s.ctxOf w) reads with
  | some r, _ => r
  | none, some x => .halt x
  | none, none => body

/-- The signature record's range. -/
def Launch.recRange (l : Launch) : Nat × Nat := (l.sigrec, 64)
/-- The sewing map's range. -/
def Launch.mapRange (l : Launch) : Nat × Nat := (l.sewmap, (l.cellCount + 3) / 4)
/-- The bytes of the sewing map that hold the cells of a box. -/
def Launch.boxRanges (l : Launch) (f : Leaf) : List (Nat × Nat) := ((l.leafCells f).map fun i => l.sewmap + i / 4).eraseDups.map (·, 1)

/-- SIGCLAIM (R435). -/
def execSigclaim (f : RR) (s : State) : Host.Outcome State Fault Refusal :=
  asWarp s fun c k w => s.sigRun c k w f false fun lane b l =>
    s.sigOn c k w lane (l.recRange :: if b.chunk.isEmpty then [l.mapRange] else []) [] <|
    let r := s.sigClaim w.block b l
    r.1.sysResult c k f (leafGroup l f.dst.toNat r.2)

/-! SIGDONE and SIGYIELD (R227, R229, R436). -/

/-- The box a leaf group names, in elements (R434). -/
def State.groupBox (s : State) (c k : Nat) (w : Warp) (lane g : Nat) : Leaf :=
  let v := fun (n : Nat) => (s.readS c k w lane n).toNat
  let six := fun (n : Nat) => (List.range 3).flatMap fun i => [v (n + i) % 2 ^ 32, v (n + i) / 2 ^ 32]
  { org := six (g + 1), ext := six (g + 4), gen := 0 }

/-- A box along a dimension keeps R436. -/
def Launch.dimOk (l : Launch) (f : Leaf) (d : Nat) : Bool :=
  let o := f.org.getD d 0
  let e := f.ext.getD d 0
  o % l.grain d == 0 && e != 0 && (e % l.grain d == 0 || o + e == l.isize d) && decide (o + e ≤ l.isize d)

/-- Does a box keep R436? -/
def Launch.boxOk (l : Launch) (f : Leaf) : Bool := (List.range 6).all (l.dimOk f)

/-- Is every cell of a box claimed (R227)? -/
def State.boxClaimed (s : State) (l : Launch) (f : Leaf) : Bool := (l.leafCells f).all fun i => s.cell l i == 1

/-- The same box. -/
def Leaf.same (f h : Leaf) : Bool := f.org == h.org && f.ext == h.ext

/-- The leaf of a box that the units of a core handed out to blocks of the launch (R229). -/
def State.handedBy (s : State) (c li : Nat) (f : Leaf) : Option Leaf :=
  s.blocks.findSome? fun e => if e.2.core = c ∧ e.2.launch = li then e.2.handed.find? f.same else none

/-- The box is no longer handed out by the units of a core. -/
def State.forgetLeaf (s : State) (c li : Nat) (f : Leaf) : State :=
  { s with blocks := mapVals s.blocks fun (_ : Nat) (b : Block) => if b.core = c ∧ b.launch = li then { b with handed := b.handed.filter fun h => !f.same h } else b }

/-- TRIDX (R229). -/
def State.timingIdx (s : State) (l : Launch) : Nat := leNat ((s.tkRead l.ctx (l.lpb.toNat + 0xB8) 8).getD [])

/-- The ranges a SIGDONE's timing record goes to: TRIDX, then its place in the ring (R229). -/
def State.timingRanges (s : State) (l : Launch) : List (Nat × Nat) :=
  if !(s.sigOf l).timing || l.trbase == 0 then [] else [(l.lpb.toNat + 0xB8, 8), (l.trbase + s.timingIdx l % l.trsize * 16, 16)]

/-- The timing record of a SIGDONE (R229). -/
def State.timeLeaf (s : State) (c li : Nat) (l : Launch) (f : Leaf) : State :=
  if !(s.sigOf l).timing || l.trbase == 0 then s
  else
    let h := s.handedBy c li f
    let idx := s.timingIdx l
    let cells := l.leafCells f
    let cycles := match h with
      | some x => min (s.clock - x.since) 0xFFFFFFFF
      | none => 0xFFFFFFFF
    let rec_ := leBytes 4 cycles ++ leBytes 4 ((h.map fun x => x.gen).getD l.generation) ++
      leBytes 4 ((cells.head?).getD 0) ++ leBytes 2 c ++ leBytes 2 (min cells.length 0xFFFF)
    (s.tkWrite l.ctx (l.trbase + idx % l.trsize * 16) rec_).tkWrite l.ctx (l.lpb.toNat + 0xB8) (leBytes 8 ((idx + 1) % 2 ^ 64))

/-- SIGDONE (R227, R436). -/
def execSigdone (f : RR) (s : State) : Host.Outcome State Fault Refusal :=
  asWarp s fun c k w => s.sigRun c k w f false fun lane b l =>
    let x := s.groupBox c k w lane f.sa.toNat
    if !l.boxOk x then s.sysResult c k f [(f.dst.toNat, 0x05)]
    else s.sigOn c k w lane (l.recRange :: l.boxRanges x) [] <|
    if !s.boxClaimed l x then s.sysResult c k f [(f.dst.toNat, 0x05)]
    else s.sigOn c k w lane (s.timingRanges l).dropLast (s.timingRanges l) <|
    ((((l.leafCells x).foldl (fun (s : State) i => s.setCell l i 2) s).timeLeaf c b.launch l x).forgetLeaf c b.launch x).sysResult c k f [(f.dst.toNat, 0)]

/-- SIGYIELD (R227, R436). -/
def execSigyield (f : RR) (s : State) : Host.Outcome State Fault Refusal :=
  asWarp s fun c k w => s.sigRun c k w f false fun lane b l =>
    let x := s.groupBox c k w lane f.sa.toNat
    if !l.boxOk x then s.sysResult c k f [(f.dst.toNat, 0x05)]
    else s.sigOn c k w lane (l.recRange :: l.boxRanges x) [] <|
    if !s.boxClaimed l x then s.sysResult c k f [(f.dst.toNat, 0x05)]
    else
      let first := (List.range 6).map fun d => x.org.getD d 0 / l.grain d
      let s1 := (l.leafCells x).foldl (fun (s : State) i => s.setCell l i 0) s
      let s2 := s1.setLaunch b.launch { l with cursor := min l.cursor ((s.sigOf l).position l first) }
      (s2.forgetLeaf c b.launch x).sysResult c k f [(f.dst.toNat, 0)]

/-! Staging, folds, reading (R226, R228, R437). -/

/-- SIGSTAGE (R437). -/
def execSigstage (f : RR) (s : State) : Host.Outcome State Fault Refusal :=
  asWarp s fun c k w => s.sigRun c k w f true fun lane _ l =>
    s.sigOn c k w lane [] [(l.sigstg, 64)] <| .done (s.tkWrite l.ctx l.sigstg ((List.range 8).flatMap fun i => leBytes 8 (s.readS c k w lane (f.sa.toNat + i)).toNat))

/-- Blocks per core still to place after a mask changes: as many more on each core it adds, none on a core it drops (R215, R228). -/
def Launch.refit (l : Launch) (old new : BitVec 192) : Launch :=
  let kept := l.want.filter fun e => new.getLsbD e.1
  let added := (List.range 192).filter fun c => new.getLsbD c && !old.getLsbD c
  { l with want := added.foldl (fun (m : Assoc Nat) c => m.put c (m.getD c 0 + fieldAt l.fields 0x20 4)) kept }

/-- A fold (R226): the staged record becomes the signature. -/
def State.fold (s : State) (li : Nat) (l : Launch) (staged : List Byte) : State :=
  let old := s.maskNow l
  let gen := l.generation + 1
  let s1 := (s.tkWrite l.ctx l.sigrec staged).tkWrite l.ctx (l.lpb.toNat + 0xE4) (leBytes 4 (gen % 2 ^ 32))
  let s2 := (s1.blocks.filter fun e => e.2.launch == li).foldl (fun (s : State) e => s.dropChunk e.1) s1
  s2.setLaunch li ({ l with generation := gen, cursor := 0 }.refit old (s2.maskNow l))

/-- SIGSWAP (R226, R437). -/
def execSigswap (f : RR) (s : State) : Host.Outcome State Fault Refusal :=
  asWarp s fun c k w => s.sigRun c k w f true fun lane b l =>
    s.sigOn c k w lane [(l.sigstg, 64)] [l.recRange, (l.lpb.toNat + 0xE4, 4)] <|
    match s.tkRead l.ctx l.sigstg 64 with
    | some r =>
      if Sig.ok ⟨r⟩ l then
        (s.fold b.launch l r).sysResult c k f [(f.dst.toNat, BitVec.ofNat 64 ((l.generation + 1) % 2 ^ 32 * 2 ^ 16))]
      else s.sysResult c k f [(f.dst.toNat, 0x04)]
    | none => s.sysResult c k f [(f.dst.toNat, 0x04)]

/-- SIGREAD (R437). -/
def execSigread (f : RR) (s : State) : Host.Outcome State Fault Refusal :=
  asWarp s fun c k w => s.sigRun c k w f false fun lane _ l =>
    s.sigOn c k w lane [l.recRange] [] <|
    let b := (s.sigOf l).bytes
    s.sysResult c k f ((List.range 8).map fun i => (f.dst.toNat + i, BitVec.ofNat 64 (fieldAt b (8 * i) 8)))

end Sys2Proof.Machine
end

