-- ==== Sys2Proof/Machine/Tasks.lean ====
section
/-! DEFINITION. Task queues and the carafe (R231-R236, R438-R440). -/
namespace Sys2Proof.Machine
open Sys2Proof

/-! Task records (R231). -/

/-- A field of a held task's record. -/
def TaskHeld.field (t : TaskHeld) (off n : Nat) : Nat := fieldAt t.fields off n
/-- STREAM. -/
def TaskHeld.stream (t : TaskHeld) : Nat := t.field 0x20 4
/-- STILES. -/
def TaskHeld.stiles (t : TaskHeld) : Nat := t.field 0x24 1
/-- DEADLINE. -/
def TaskHeld.deadline (t : TaskHeld) : Nat := t.field 0x28 8

/-- A ready task: its queue, its place in the queue, its record. -/
structure ReadyTask where
  queue : Nat
  index : Nat
  record : Word64
  fields : List Byte
  deriving DecidableEq, Repr

/-- The order of choice: earliest deadline, higher priority, lower queue, earlier enqueue (R233). -/
def ReadyTask.before (a b : ReadyTask) : Bool :=
  let dl := fun (t : ReadyTask) => let d := fieldAt t.fields 0x28 8; if d = 0 then 2 ^ 64 - 1 else d
  let pr := fun (t : ReadyTask) => fieldAt t.fields 0x25 1
  if dl a ≠ dl b then decide (dl a < dl b)
  else if pr a ≠ pr b then decide (pr b < pr a)
  else if a.queue ≠ b.queue then decide (a.queue < b.queue)
  else decide (a.index ≤ b.index)

/-- A task queue (R232). -/
def State.taskQueue (s : State) (q : Nat) : TaskQueue := s.taskQ.getD q {}

/-- Is a stream free of a running task and of a write-back (R233)? -/
def State.streamFree (s : State) (ctx stream : Nat) : Bool := !s.taskRun.any fun r => r.ctx == ctx && r.stream == stream

/-- The ready tasks over a run of queues (R233). -/
def State.readyTasks (s : State) (ctx first count : Nat) : List ReadyTask :=
  (List.range count).flatMap fun i =>
    let q := s.taskQueue (first + i)
    if q.ctx = some ctx then
      q.records.zipIdx.filterMap fun r => match s.tkRead ctx r.1.toNat 64 with
        | some b => if s.streamFree ctx (fieldAt b 0x20 4) then some ⟨first + i, r.2, r.1, b⟩ else none
        | none => none
    else []

/-- The records in a context's queues of a run (R232). -/
def State.queuedRecords (s : State) (ctx first count : Nat) : List Word64 :=
  (List.range count).flatMap fun i => if (s.taskQueue (first + i)).ctx = some ctx then (s.taskQueue (first + i)).records else []

/-- The task TASKGET takes (R233). -/
def State.chooseTask (s : State) (ctx first count : Nat) : Option ReadyTask := (sortBy ReadyTask.before (s.readyTasks ctx first count)).head?

/-- Records a task queue holds (R232). -/
def queueRoom : Nat := 4096

/-- Held enqueues enter a queue as space frees (R232). -/
def TaskQueue.settle (q : TaskQueue) : TaskQueue :=
  let n := queueRoom - q.records.length
  { q with records := q.records ++ q.held.take n, held := q.held.drop n }

/-- Remove a record from its queue. -/
def State.dequeue (s : State) (t : ReadyTask) : State :=
  let q := s.taskQueue t.queue
  { s with taskQ := s.taskQ.put t.queue { q with records := q.records.eraseIdx t.index }.settle }

/-- A hardware enqueue: held while the queue is full, never lost (R232, R234). -/
def State.hwEnqueue (s : State) (n : Nat) (record : Word64) : State :=
  let q := s.taskQueue n
  { s with taskQ := s.taskQ.put n { q with held := q.held ++ [record] }.settle }

/-! TASKGET (R235, R438). -/

/-- The group TASKGET writes (R438). -/
def taskGroup (dst status : Nat) (record : Word64) (fields : List Byte) : List (Nat × Word64) :=
  let v := fun (off : Nat) => if status = 0x0A then 0 else BitVec.ofNat 64 (fieldAt fields off 8)
  [(dst, BitVec.ofNat 64 (status + 256 * fieldAt fields 0x24 1)), (dst + 1, record), (dst + 2, v 0), (dst + 3, v 8)]

/-- LATE when the device time at return is past a nonzero deadline, else OK (R233). -/
def State.taskStatus (s : State) (fields : List Byte) : Nat :=
  let d := fieldAt fields 0x28 8
  if d ≠ 0 ∧ d < s.deviceTime then 0x0B else 0

/-- The tiles of a warp's first map entries, or the trap of one it does not own (R44, R51). -/
def State.stateTiles (s : State) (c k : Nat) (w : Warp) (n : Nat) : Except WRes (List Nat) :=
  (List.range n).foldl (fun (r : Except WRes (List Nat)) i => match r with
    | .error e => .error e
    | .ok ts => match s.entryTile c k w i with
      | .error e => .error e
      | .ok t => .ok (ts ++ [t])) (.ok [])

/-- A task that cannot be run: more state tiles than the warp has, or a stream beyond the carafe (R233, R235). -/
def State.badTask (s : State) (b : Block) (t : ReadyTask) : Bool :=
  let n := fieldAt t.fields 0x24 1
  let tiles := (b.header.extractLsb' 1 4).toNat
  let count := ((s.ctx b.ctx).map fun (x : Ctx) => x.carafeCount).getD 0
  decide (tiles < n) || (decide (0 < n) && decide (count ≤ fieldAt t.fields 0x20 4))

/-- Tiles begin to fill by an engine (R185, R235). -/
def State.fillTiles (s : State) (c : Nat) (ts : List Nat) : State :=
  ts.foldl (fun (s : State) t => s.setTile c t { s.tile c t with st := .filling, hold := 50 }) s

/-- TASKGET of a chosen task (R233, R235, R438). -/
def State.takeTask (s : State) (c k : Nat) (w : Warp) (b : Block) (f : RR) (t : ReadyTask) : WRes :=
  let n := fieldAt t.fields 0x24 1
  let d := f.dst.toNat
  if s.badTask b t then (s.dequeue t).sysResult c k f (taskGroup d 0x0A t.record t.fields)
  else match s.stateTiles c k w n with
    | .error r => r
    | .ok ts =>
      let s1 := s.dequeue t
      let run : TaskRun := ⟨b.ctx, fieldAt t.fields 0x20 4, w.block, w.idx⟩
      let s2 := ({ s1 with taskRun := s1.taskRun ++ [run] } : State).l1Drop c b.ctx
      let held : TaskHeld := { record := t.record, fields := t.fields, queue := t.queue, phase := .held, due := s.clock + s.latency, dst := d, sbd := f.sbd.toNat }
      if n = 0 then (s2.setWarp c k { w with task := some held }).sysResult c k f (taskGroup d (s.taskStatus t.fields) t.record t.fields)
      else .wait ((s2.fillTiles c ts).setWarp c k ({ w with task := some { held with phase := .loading } }.sleep .task))

/-- TASKGET (R438): ILLEGAL outside a task block and while a task is held; it waits for a write-back and for a ready task. -/
def execTaskget (f : RR) (s : State) : Host.Outcome State Fault Refusal :=
  asWarp s fun c k w => s.fullRun c k w f.g fun lane => match s.blockOf w with
    | none => .done s
    | some b => match s.launches.find b.launch with
      | none => wholeTrap w .illegal
      | some l => match b.header.getLsbD 22, w.task.map (fun (t : TaskHeld) => t.phase) with
        | false, _ => wholeTrap w .illegal
        | true, some .writing => s.again c k w
        | true, some _ => wholeTrap w .illegal
        | true, none =>
          let first := fieldAt l.fields 0xDE 2
          let count := fieldAt l.fields 0xE0 2
          let rs := s.queuedRecords b.ctx first count
          let ranges := rs.map fun (r : Word64) => (r.toNat, 64)
          match s.structsAt c k w lane .read ranges, s.rangePoison b.ctx ranges with
          | some r, _ => r
          | none, some x => .halt x
          | none, none => match s.chooseTask b.ctx first count with
            | none => s.again c k w
            | some t => s.takeTask c k w b f t

/-! The carafe (R235). -/

/-- The agent that moves a warp's state tiles: a stream engine of its core's die. -/
def carafeAgt (c ctx : Nat) : Agt := engineAgt (12 * dieOf c) ctx

/-- The parts of a task's state in memory: 4 KiB a tile. -/
def State.carafeParts (s : State) (ctx : Nat) (t : TaskHeld) : List Part :=
  let base := ((s.ctx ctx).map fun (x : Ctx) => x.carafeBase).getD 0
  (List.range t.stiles).map fun i => ⟨0, base + BitVec.ofNat 64 (t.stream * 32768 + i * 4096), 4096⟩

/-- Tiles return to their warp (R185). -/
def State.ownTiles (s : State) (c k : Nat) (ts : List Nat) : State :=
  ts.foldl (fun (s : State) t => s.setTile c t { s.tile c t with st := .owned, hold := k }) s

/-- The map tiles of a task's state. -/
def Warp.taskTiles (w : Warp) (t : TaskHeld) : List Nat := (List.range t.stiles).map w.entry

/-- A transfer of a warp's task that is due and waits for no page. -/
def State.taskMoving (s : State) (c k : Nat) (phase : TaskPhase) : Option (Warp × TaskHeld) :=
  match s.home c k with
  | none => none
  | some w => match w.task with
    | some t => if t.phase = phase ∧ t.due ≤ s.clock ∧ !s.waitsPage (carafeAgt c (s.ctxOf w)) ∧ !(t.sent && s.workOut (warpWork c k)) then some (w, t) else none
    | none => none

/-- The state load ends (R235): the tiles are the warp's, and TASKGET returns. -/
def State.endLoad (s : State) (c k : Nat) (w : Warp) (t : TaskHeld) : State :=
  let ctx := s.ctxOf w
  let g := carafeAgt c ctx
  match s.reachAll g .read (s.carafeParts ctx t) with
  | .wait u => u
  | .fatal _ _ u => u.engineFault ctx
  | .ok sts => match s.pull g (warpWork c k) false sts with
    | .wait u => u
    | .fatal _ _ => s.engineFault ctx
    | .bytes b =>
      let s1 := (w.taskTiles t).zipIdx.foldl (fun (s : State) y =>
        s.setTile c y.1 { s.tile c y.1 with elems := tileFromBytes 0 ((b.drop (4096 * y.2)).take 4096) }) ((s.partsRead g false sts).pxDrop (warpWork c k))
      let s2 := s1.ownTiles c k (w.taskTiles t)
      let s3 := s2.setWarp c k (({ w with task := some { t with phase := .held } }.wake s.clock).advance s.clock)
      s3.writeLater c k t.sbd ((taskGroup t.dst (s.taskStatus t.fields) t.record t.fields).map fun x => .sreg x.1 x.2)

/-- CARAFE_STATE_LOAD_COMPLETE (R235). -/
def execCarafeStateLoadComplete (s : State) : Host.Outcome State Fault Refusal :=
  asEvent s fun a => match s.taskMoving a.core a.slot .loading with
    | some (w, t) => (s.endLoad a.core a.slot w t).draw
    | none => s

/-- What a task's successor counter becomes (R234): decremented, the successor enqueued at zero, an underflow logged. -/
def State.succeed (s : State) (c k : Nat) (w : Warp) (t : TaskHeld) (st : Store) : State :=
  let ctx := s.ctxOf w
  let v := s.fieldIn ctx st 0 8
  if v = 0 then s.recordOne c k w 0x13 (lowLane w.active)
  else
    let s1 := s.setFieldIn ctx st 0 8 (v - 1)
    if v = 1 then s1.hwEnqueue t.queue (BitVec.ofNat 64 (t.field 0x30 8)) else s1

/-- A task is over: its stream is free, the warp holds none. -/
def State.taskOver (s : State) (c k : Nat) (w : Warp) : State :=
  let s1 := { s with taskRun := s.taskRun.filter fun r => !(r.block == w.block && r.warp == w.idx) }
  match s1.home c k with
  | some w => s1.setHome c k { w with task := none }
  | none => s1

/-- The end of a task once its state is written back (R234); a fault on the counter waits, or ends the context. -/
def State.endTask (s : State) (c k : Nat) (w : Warp) (t : TaskHeld) : State :=
  let a := BitVec.ofNat 64 (t.field 0x18 8)
  let ready := s.ownTiles c k (w.taskTiles t)
  if a = 0 then ready.taskOver c k w
  else match s.counterAt (s.ctxOf w) a with
    | .ok st => (ready.succeed c k w t st).taskOver c k w
    | .wait u => u
    | .fatal _ => s.engineFault (s.ctxOf w)

/-- The write-back of a task's state (R234, R235): it ends when its peers have acknowledged what lies with them. -/
def State.endWriteback (s : State) (c k : Nat) (w : Warp) (t : TaskHeld) : State :=
  let ctx := s.ctxOf w
  let g := { carafeAgt c ctx with work := warpWork c k }
  if t.sent then s.endTask c k w t
  else match s.reachAll g .write (s.carafeParts ctx t) with
    | .wait u => u
    | .fatal _ _ u => u.engineFault ctx
    | .ok sts =>
      let w1 := { w with task := some { t with sent := true } }
      let s1 := ((s.deposit g sts ((w.taskTiles t).flatMap fun n => tileToBytes (s.tile c n).elems)).showAll g).setHome c k w1
      if s1.workOut (warpWork c k) then s1 else s1.endTask c k w1 { t with sent := true }

/-- CARAFE_WRITEBACK_COMPLETE (R234). -/
def execCarafeWritebackComplete (s : State) : Host.Outcome State Fault Refusal :=
  asEvent s fun a => match s.taskMoving a.core a.slot .writing with
    | some (w, t) => (s.endWriteback a.core a.slot w t).draw
    | none => s

/-! TASKEND and TASKPUT. -/

/-- TASKEND (R439): it waits for register writes in flight to the state tiles. -/
def execTaskend (f : RR) (s : State) : Host.Outcome State Fault Refusal :=
  asWarp s fun c k w => s.fullRun c k w f.g fun _ => match w.task with
    | none => wholeTrap w .illegal
    | some t =>
      if t.phase ≠ .held then wholeTrap w .illegal
      else match s.stateTiles c k w t.stiles with
        | .error r => r
        | .ok ts =>
          if ts.any fun n => decide (0 < w.inFlightTo n) then s.again c k w
          else s.afterWrites c k w fun u =>
            let s1 := (u.fillTiles c ts).setWarp c k { w with task := some { t with phase := .writing, due := s.clock + s.latency } }
            if t.stiles = 0 ∧ t.field 0x18 8 = 0 then .done (s1.taskOver c k w) else .done s1

/-- A record's reserved fields are zero (R231). -/
def taskRecordOk (b : List Byte) : Bool := decide (fieldAt b 0x26 2 < 2) && fieldAt b 0x38 8 == 0

/-- TASKPUT (R440). -/
def execTaskput (f : RR) (s : State) : Host.Outcome State Fault Refusal :=
  asWarp s fun c k w => s.sysRun c k w f.g fun l =>
    let n := (s.sArg c k w l f.sa).toNat
    let b := s.sArg c k w l f.sb
    let d := f.dst.toNat
    let q := s.taskQueue n
    let bad := s.sysResult c k f [(d, 0x0A)]
    if 512 ≤ n ∨ q.ctx ≠ some (s.ctxOf w) then s.sysResult c k f [(d, 0x09)]
    else if b.toNat % 64 ≠ 0 ∨ windowsBase ≤ b.toNat then bad
    else match s.reachOne c k (s.tkIssueAgt c k w) .read 0 false b 64 l with
      | .error r => r
      | .ok st =>
        if !placeOk false st then bad
        else match s.warpPull c k w true (s.laneAgt c k w l) b 64 st with
          | .error r => r
          | .ok (s1, bytes) =>
            if !taskRecordOk bytes then bad
            else if queueRoom ≤ q.records.length then s.again c k w
            else s1.afterWrites c k w fun u => ({ u with taskQ := u.taskQ.put n { q with records := q.records ++ [b] } } : State).sysResult c k f [(d, 0)]

end Sys2Proof.Machine
end

