-- ==== Sys2Proof/Machine/Collate.lean ====
section
/-! DEFINITION. Collation: domains (R240, R241), numbers and terms (R246-R248), the collator with its standby (R247, R251, R256, R257), what its messages do at a member (R252, R254, R257), and failover (R258, R259). -/
namespace Sys2Proof.Machine
open Sys2Proof

/-! Numbers and terms. -/

/-- The successor of a collation number (R246). -/
def cnSucc (n : BitVec 48) : BitVec 48 := if n + 1 = 0 then 1 else n + 1
/-- The number k places after one. -/
def cnAfter (n : BitVec 48) : Nat → BitVec 48
  | 0 => n
  | k + 1 => cnAfter (cnSucc n) k
/-- One number precedes another (R246). -/
def cnPrecedes (a b : BitVec 48) : Bool := decide (1 ≤ (b - a).toNat) && decide ((b - a).toNat < 2 ^ 47)
/-- One term precedes another (R248). -/
def termPrecedes (a b : BitVec 16) : Bool := decide (1 ≤ (b - a).toNat) && decide ((b - a).toNat < 2 ^ 15)

/-- Cycles of 2 ms, 10 ms and 200 µs at 3.3 GHz (log entry 4). -/
def cycles2ms : Nat := 6600000
/-- Cycles of 10 ms. -/
def cycles10ms : Nat := 33000000
/-- Cycles of 200 µs. -/
def cycles200us : Nat := 660000

/-! Domains. -/

/-- A domain of a context. -/
def State.dom (s : State) (ctx domid : Nat) : Option Domain := s.domains.find? fun d => d.ctx == ctx && d.domid == domid
/-- Replace a domain. -/
def State.setDom (s : State) (d : Domain) : State :=
  { s with domains := s.domains.map fun (x : Domain) => if x.ctx = d.ctx ∧ x.domid = d.domid then d else x }

/-- H of R241. -/
def domainHash (job domid : Nat) : Nat := (job * 0x9E3779B1 + domid * 0x85EBCA77) % 2 ^ 32

/-- Ids of a rank table are those of different packages. -/
def distinctIds : List Nat → Bool
  | [] => true
  | x :: t => !t.contains x && distinctIds t

/-- A descriptor keeps the table of R240. -/
def domainDescOk (b : List Byte) : Bool :=
  b.length == 64 && fieldAt b 0x0A 6 == 0 && fieldAt b 0x20 32 == 0 && decide (fieldAt b 0x04 2 < 4096) &&
  decide (1 ≤ fieldAt b 0x06 2) && decide (fieldAt b 0x06 2 ≤ 32768) && decide (fieldAt b 0x08 2 < fieldAt b 0x06 2)

/-- The domain a descriptor defines with its rank table, or none where it is rejected (R240). -/
def State.domainOf (s : State) (ctx : Nat) (b t : List Byte) : Option Domain :=
  let job := fieldAt b 0x00 4
  let domid := fieldAt b 0x04 2
  let m := fieldAt b 0x06 2
  let rank := fieldAt b 0x08 2
  let ids := (List.range m).map fun i => fieldAt t (2 * i) 2
  if ids.any (fun x => decide (32768 ≤ x)) || !distinctIds ids || ids.getD rank 32768 != s.pkgid then none
  else
    let a := domainHash job domid % m
    some { ctx := ctx, domid := domid, jobid := job, m := m, rank := rank, rtab := ids, digest := BitVec.ofNat 64 (fieldAt b 0x18 8),
           collator := a, standby := if m = 1 then none else some ((a + 1) % m), lastHeard := s.clock }

/-- The number under which a context's rank table is read at peers. -/
def rankWork (ctx : Nat) : Nat := 4000000000 + ctx

/-- Read a rank table: global memory of any tier, by path TK of die 0 (R240). -/
def State.rankTable (s : State) (ctx va n : Nat) : Pulled :=
  if windowsBase < va + n then .fatal .addrHole va
  else match s.walkRange ctx .read va n with
    | .error x => if s.replayable ctx x.cause then .wait (s.raiseTk ctx x) else .fatal x.cause va
    | .ok ps => s.pull (tkAgt ctx 0) (rankWork ctx) false [(⟨1, BitVec.ofNat 64 va, n⟩, .mem ps)]

/-- Define a domain of a context, anew where it was defined before; a rank table that is waited for leaves the request pending (R37, R240). -/
def State.define (s : State) (ctx : Nat) (b : List Byte) : State :=
  let forget := fun (t : State) => ({ t with defining := t.defining.filter fun x => x.1 != ctx }).pxDrop (rankWork ctx)
  let rejected := { forget s with hostReply := .rejected 0 }
  match s.ctx ctx, domainDescOk b with
  | some _, true => match s.rankTable ctx (fieldAt b 0x10 8) (2 * fieldAt b 0x06 2) with
    | .wait t => { t with defining := (t.defining.filter fun x => x.1 != ctx) ++ [(ctx, b)], hostReply := .none }
    | .fatal _ _ => rejected
    | .bytes t => match t.all (fun x => x.2.isNone), s.domainOf ctx b (t.map Prod.fst) with
      | true, some d =>
        let s1 := forget s
        { s1 with
          domains := (s1.domains.filter fun (x : Domain) => !(x.ctx == d.ctx && x.domid == d.domid)) ++ [d]
          hostReply := .ok }
      | _, _ => rejected
  | _, _ => rejected

/-- DOMAIN_DEFINITION (R240): the request, or with `flag` the one of a context whose rank table was waited for. -/
def execDomainDefinition (s : State) : Host.Outcome State Fault Refusal :=
  asEvent s fun a =>
    if a.flag then match s.defining.find? fun x => x.1 == a.ctx with
      | some x => s.define x.1 x.2
      | none => s
    else s.define a.ctx a.bytes

/-! Messages (R249). -/

/-- A message of a domain with its sender's rank, term and digest. -/
def Domain.msg (d : Domain) : CollMsg :=
  { ctx := d.ctx, domid := d.domid, rank := d.rank, term := d.term, digest := d.digest, key := 0, cn := 0, range := 1, params := ⟨0, 0, 0, 0, 0⟩,
    bad := 0, present := false, outcome := .run, answer := .honoured }

/-- Send a message to a rank; one to this package itself is an input of its own (log entry 8). -/
def State.sendColl (s : State) (d : Domain) (dest : Nat) (i : Instr) (m : CollMsg) : State :=
  if dest = d.rank then { s with inbox := s.inbox ++ [(i, { coll := m })] }
  else { s with stoxia := s.stoxia ++ [.coll (d.rtab.getD dest 0) i m] }

/-- The same message to every member. -/
def Domain.everyone (d : Domain) (i : Instr) (m : CollMsg) : List Decided := (List.range d.m).map fun r => ⟨r, i, m⟩

/-- What the collator tells its standby, with the messages that wait for the acknowledgement. -/
abbrev Decision := CollMsg × List Decided

/-- A decision of the collator: replicated first where there is a standby, else its messages go at once (R251). -/
def State.decideColl (s : State) (d : Domain) (x : Decision) : State :=
  match d.standby with
  | none => x.2.foldl (fun (s : State) y => s.sendColl d y.dest y.step y.msg) (s.setDom d)
  | some r => (s.setDom { d with decisions := d.decisions ++ [x.2] }).sendColl d r .collatorReplication x.1

/-- Decisions in order. -/
def State.publish (s : State) (d : Domain) (xs : List Decision) : State :=
  xs.foldl (fun (s : State) x => match s.dom d.ctx d.domid with
    | some d1 => s.decideColl d1 x
    | none => s) (s.setDom d)

/-! The collator's table (R251). -/

/-- The number that a key now has: its latest (R251). -/
def Domain.latest (d : Domain) (key : Word64) : Option Number := d.numbers.reverse.find? (·.key == key)
/-- A number of the table. -/
def Domain.number (d : Domain) (cn : BitVec 48) : Option Number := d.numbers.find? (·.cn == cn)
/-- Replace a number of the table. -/
def Domain.setNumber (d : Domain) (n : Number) : Domain :=
  { d with numbers := d.numbers.map fun (x : Number) => if x.cn = n.cn then n else x }
/-- Is a rank present for a number? -/
def Number.has (n : Number) (rank : Nat) : Bool := n.presences.any fun p => p.1 == rank

/-- Assign the next numbers to consecutive keys. -/
def Domain.assign (d : Domain) (key : Word64) : Nat → Domain
  | 0 => d
  | k + 1 => Domain.assign { d with numbers := d.numbers ++ [{ cn := d.nextCn, key := key }], nextCn := cnSucc d.nextCn, top := d.nextCn } (key + 1) k

/-- ASSIGNED of a range (R249). -/
def Domain.assignedMsg (d : Domain) (key : Word64) (cn : BitVec 48) (range : Nat) : CollMsg := { d.msg with key := key, cn := cn, range := range }

/-- The next numbers are assigned, and every member is told. The ASSIGNED of a reservation is marked with the rank that asked for it (R256; log entry 10). -/
def Domain.newNumbers (d : Domain) (key : Word64) (k : Nat) (reserver : Option Nat) : Domain × List Decision :=
  let m := d.assignedMsg key d.nextCn k
  let sent := match reserver with
    | some r => { m with present := true, bad := r }
    | none => m
  (d.assign key k, [(m, d.everyone .assigned sent)])

/-- The outcome once every member is present: the lowest failure, MISMATCH, or RUN (R251). -/
def Number.verdict (n : Number) : GoOutcome :=
  match ((n.presences.map fun p => p.2.1).filter (· != 0)).min? with
  | some b => .fail b
  | none => if n.presences.all fun p => some p.2.2 == n.presences.head?.map (·.2.2) then .run else .fail 5

/-- GO of a number; it names the key as well. -/
def Domain.goMsg (d : Domain) (n : Number) : CollMsg := { d.msg with key := n.key, cn := n.cn, range := 0, outcome := n.outcome }

/-- A number's GO is decided (R251). -/
def Domain.goes (d : Domain) (n : Number) (st : NumberSt) (o : GoOutcome) : Domain × List Decision :=
  let n1 := { n with st := st, outcome := o }
  (d.setNumber n1, [(d.goMsg n1, d.everyone .go (d.goMsg n1))])

/-- The replication of a presence. -/
def Domain.presenceMsg (d : Domain) (n : Number) (p : Nat × Nat × CollParams) : CollMsg :=
  { d.msg with rank := p.1, key := n.key, cn := n.cn, present := true, params := p.2.2, bad := p.2.1 }

/-- A member is marked present; the last presence decides GO (R251). -/
def Domain.mark (d : Domain) (n : Number) (m : CollMsg) : Domain × List Decision :=
  let p := (m.rank, m.bad, m.params)
  let n1 := { n with presences := n.presences ++ [p] }
  let seen : Decision := (d.presenceMsg n p, [])
  if n1.presences.length = d.m then
    let r := d.goes n1 .goSent n1.verdict
    (r.1, seen :: r.2)
  else (d.setNumber n1, [seen])

/-- A SIGHT of a key that takes a new number. -/
def Domain.sightNew (d : Domain) (m : CollMsg) : Domain × List Decision :=
  let r := d.newNumbers m.key 1 none
  match m.present, r.1.number d.nextCn with
  | true, some n => let t := r.1.mark n m; (t.1, r.2 ++ t.2)
  | _, _ => r

/-- The number of a key is told to one member. -/
def Domain.tell (d : Domain) (n : Number) (rank : Nat) : Decision :=
  (d.assignedMsg n.key n.cn 1, [⟨rank, .assigned, d.assignedMsg n.key n.cn 1⟩])

/-- SIGHT at the collator (R251, R256). -/
def Domain.onSight (d : Domain) (m : CollMsg) : Domain × List Decision :=
  match d.latest m.key with
  | none => d.sightNew m
  | some n => match n.st with
    | .goSent => d.sightNew m
    | .cancelled => (d, [d.tell n m.rank])
    | .assigned =>
      if n.has m.rank then d.sightNew m
      else if m.present then (let r := d.mark n m; (r.1, d.tell n m.rank :: r.2))
      else (d, [d.tell n m.rank])

/-- PRESENT at the collator (R251). -/
def Domain.onPresent (d : Domain) (m : CollMsg) : Domain × List Decision :=
  match d.number m.cn with
  | none => (d, [])
  | some n => match n.st with
    | .goSent => (d, [])
    | .cancelled => (d, [d.tell n m.rank])
    | .assigned => if n.has m.rank then (d, []) else d.mark n m

/-- CANCEL-REPLY to a member. -/
def Domain.replyTo (d : Domain) (m : CollMsg) (x : CancelAnswer) : Decided := ⟨m.rank, .cancelReply, { d.msg with key := m.key, answer := x }⟩

/-- A number is cancelled and the cancel answered (R251, R257). -/
def Domain.cancelNumber (d : Domain) (n : Number) (m : CollMsg) : Domain × List Decision :=
  let r := d.goes n .cancelled .cancel
  (r.1, r.2.map fun x => (x.1, x.2 ++ [d.replyTo m .honoured]))

/-- CANCEL at the collator (R251, R257). -/
def Domain.onCancel (d : Domain) (m : CollMsg) : Domain × List Decision :=
  match d.latest m.key with
  | none =>
    let r := d.newNumbers m.key 1 none
    (match r.1.number d.nextCn with
    | some n => let t := r.1.cancelNumber n m; (t.1, r.2 ++ t.2)
    | none => r)
  | some n => match n.st with
    | .assigned => d.cancelNumber n m
    | .cancelled => (d, [(d.goMsg n, [d.replyTo m .honoured])])
    | .goSent => (d, [(d.goMsg n, [d.replyTo m .tooLate])])

/-- DONE at the collator (R247, R251): after the last one the number is retired and its key forgotten. -/
def Domain.onDone (d : Domain) (cn : BitVec 48) (rank : Nat) : Domain :=
  match d.number cn with
  | none => d
  | some n =>
    let n1 := { n with done := if n.done.contains rank then n.done else rank :: n.done }
    if n1.st != NumberSt.assigned ∧ n1.done.length = d.m then { d with numbers := d.numbers.filter fun (x : Number) => x.cn != cn }
    else d.setNumber n1

/-- The replication of a DONE. -/
def Domain.doneMsg (d : Domain) (cn : BitVec 48) (rank : Nat) : CollMsg := { d.msg with rank := rank, cn := cn, range := 0, present := true }

/-- Numbers outstanding at most (R247). -/
def windowMax : Nat := 65536

/-- Numbers a request would take (R247, R251). -/
def Domain.needs (d : Domain) (i : Instr) (m : CollMsg) : Nat :=
  match i with
  | .cnres => m.range
  | .collationCancel => if (d.latest m.key).isSome then 0 else 1
  | .sight => match d.latest m.key with
    | none => 1
    | some n => match n.st with
      | .goSent => 1
      | .cancelled => 0
      | .assigned => if n.has m.rank then 1 else 0
  | _ => 0

/-- A request the collator handles. -/
def Domain.handle (d : Domain) (i : Instr) (m : CollMsg) : Domain × List Decision :=
  match i with
  | .sight => d.onSight m
  | .present => d.onPresent m
  | .collationCancel => d.onCancel m
  | .cnres => d.newNumbers m.key m.range (some m.rank)
  | .done => (d.onDone m.cn m.rank, [(d.doneMsg m.cn m.rank, [])])
  | _ => (d, [])

/-- Must a request wait: for a standby (R258), for room, or behind one that waits for room (R247, R256)? -/
def Domain.mustWait (d : Domain) (i : Instr) (m : CollMsg) : Bool :=
  d.searching || (d.needs i m != 0 && (!d.held.isEmpty || decide (windowMax < d.numbers.length + d.needs i m)))

/-- A request at the collator (R251). -/
def State.atCollator (s : State) (i : Instr) (m : CollMsg) : State :=
  match s.dom m.ctx m.domid with
  | none => s
  | some d =>
    if d.mustWait i m then s.setDom { d with held := d.held ++ [(i, m)] }
    else let r := d.handle i m; s.publish r.1 r.2

/-- Requests that wait are tried again, in arrival order. -/
def State.drainHeld (s : State) (ctx domid : Nat) : State :=
  match s.dom ctx domid with
  | none => s
  | some d => d.held.foldl (fun (s : State) x => s.atCollator x.1 x.2) (s.setDom { d with held := [] })

/-! Receipt. -/

/-- A message comes from the collator or the standby (R258, R259). -/
def Domain.heard (d : Domain) (rank clock : Nat) : Domain :=
  if rank != d.rank && (rank == d.collator || (some rank == d.standby)) then { d with lastHeard := clock } else d

/-- A message of a domain arrives; one of an earlier term is discarded (R248). -/
def State.onColl (s : State) (m : CollMsg) (f : Domain → State) : State :=
  match s.dom m.ctx m.domid with
  | none => s
  | some d => if termPrecedes m.term d.term then s else f (d.heard m.rank s.clock)

/-- A request arrives at the active collator; a digest that differs is answered and changes nothing (R240, R251). -/
def State.request (s : State) (i : Instr) (m : CollMsg) (refuse : Domain → Decided) : State :=
  s.onColl m fun d =>
    if d.rank ≠ d.collator then s
    else if m.digest ≠ d.digest then (let x := refuse d; s.sendColl d x.dest x.step x.msg)
    else s.atCollator i m

/-- REFUSED of a key (R240). -/
def Domain.refusal (d : Domain) (m : CollMsg) : Decided := ⟨m.rank, .refused, { d.msg with key := m.key, cn := m.cn, answer := .badDomain }⟩

/-- SIGHT (R251). -/
def execSight (s : State) : Host.Outcome State Fault Refusal := asEvent s fun a => s.request .sight a.coll fun d => d.refusal a.coll
/-- PRESENT (R251). -/
def execPresent (s : State) : Host.Outcome State Fault Refusal := asEvent s fun a => s.request .present a.coll fun d => d.refusal a.coll
/-- CANCEL at the collator (R257). -/
def execCollationCancel (s : State) : Host.Outcome State Fault Refusal :=
  asEvent s fun a => s.request .collationCancel a.coll fun d => d.replyTo a.coll .badDomain

/-- DONE (R251): a retired number lets requests in that wait for room. -/
def execDone (s : State) : Host.Outcome State Fault Refusal :=
  asEvent s fun a => s.onColl a.coll fun d =>
    if d.rank ≠ d.collator then s else (s.atCollator .done a.coll).drainHeld d.ctx d.domid

/-! Reservation (R256). -/

/-- CNRES: the driver's request at its package, or the request at the collator's (R256). -/
def execCnres (s : State) : Host.Outcome State Fault Refusal :=
  asEvent s fun a =>
    if a.flag then s.onColl a.coll fun d => if d.rank = d.collator then s.atCollator .cnres a.coll else s
    else match s.dom a.ctx a.dom with
      | some d =>
        if a.len = 0 ∨ 4096 < a.len ∨ a.bits ≠ 0 then { s with cnresDone := 0 }
        else
          let m := { d.msg with key := a.value, range := a.len }
          if d.collator = d.rank then s.atCollator .cnres m
          else { s with stoxia := s.stoxia ++ [.coll (d.rtab.getD d.collator 0) .cnres m] }
      | none => { s with cnresDone := 0 }

/-! A member learns (R252-R254). -/

/-- Has a number been passed by E (R253)? -/
def Domain.past (d : Domain) (cn : BitVec 48) : Bool := cnPrecedes cn d.turn

/-- Change the first element of a list that a test accepts. -/
def updateFirst {α : Type} (p : α → Bool) (f : α → α) : List α → List α
  | [] => []
  | x :: t => if p x then f x :: t else x :: updateFirst p f t

/-- Remove the first element of a list that a test accepts. -/
def dropFirst {α : Type} (p : α → Bool) : List α → List α
  | [] => []
  | x :: t => if p x then t else x :: dropFirst p t

/-- A collective issued here that has no number yet. -/
def Member.unnumbered (x : Member) : Bool := x.issued && x.cn.isNone

/-- A collective leaves the order and completes by itself with a status. -/
def Domain.closeOut (d : Domain) (x : Member) (status : Nat) : Domain := { d with closing := d.closing ++ [{ x with finish := some status }] }

/-- A key's number becomes known (R252, R254): it is that of an issue without one, or KNOWN. A number that comes again is a cancelled one, its turn passed or its first issue complete: an issue without a number completes CANCELLED under it. -/
def Domain.learn (d : Domain) (key : Word64) (cn : BitVec 48) : Domain :=
  let fits := fun (x : Member) => x.key == key && x.unnumbered
  let known := d.members.find? fun x => x.cn == some cn && !x.passed
  let cancelled := fun (o : Option (GoOutcome × BitVec 16)) => match d.members.find? fits with
    | some x => ({ d with members := dropFirst fits d.members } : Domain).closeOut { x with cn := some cn, outcome := o, cnDue := true } 1
    | none => d
  if known.isSome then (match known.filter (·.used) with
    | some n => cancelled n.outcome
    | none => d)
  else if d.past cn then cancelled none
  else if d.members.any fits then { d with members := updateFirst fits (fun (x : Member) => { x with cn := some cn, cnDue := true }) d.members }
  else { d with members := d.members ++ [{ key := key, cn := some cn }] }

/-- Learn a range (R249). -/
def Domain.learnAll (d : Domain) (key : Word64) (cn : BitVec 48) : Nat → Domain
  | 0 => d
  | k + 1 => (d.learn key cn).learnAll (key + 1) (cnSucc cn) k

/-- The agent a domain's collective engine is (R19). -/
def collAgt (d : Domain) (die : Nat) : Agt := { path := .co, who := .coll d.ctx d.domid, ctx := d.ctx, die := die }

/-- Is a context there and not being terminated? -/
def State.ctxLives (s : State) (ctx : Nat) : Bool := match s.ctx ctx with | some x => x.terminating.isNone && !x.ended | none => false

/-- The number under which a domain's reads and writes are known to peers. -/
def collWork (d : Domain) : Nat := 2000000000 + d.ctx * 4096 + d.domid

/-- Replace a collective of a domain, in the order or outside it. -/
def State.remember (s : State) (d : Domain) (x y : Member) : State :=
  match s.dom d.ctx d.domid with
  | some d1 => s.setDom { d1 with members := updateFirst (· == x) (fun _ => y) d1.members, closing := updateFirst (· == x) (fun _ => y) d1.closing }
  | none => s

/-- CN is filled in when it becomes known (R245); a page that is waited for leaves it due (R262). -/
def State.fillCn (s : State) (d : Domain) (x : Member) : State :=
  let g := { collAgt d x.die with work := collWork d }
  if !s.ctxLives d.ctx then s
  else match s.reachAll g .write [⟨1, x.result, 6⟩] with
    | .ok sts => (s.deposit g sts ((leBytes 6 (x.cn.getD 0).toNat).map fun b => (b, none))).remember d x { x with cnDue := false }
    | .wait t => t.remember d x { x with cnDue := true }
    | .fatal _ _ t => t.terminate d.ctx 7

/-- The records of a domain that are still to receive a number receive it (R245). -/
def State.fillDue (s : State) (ctx domid : Nat) : State :=
  match s.dom ctx domid with
  | none => s
  | some d => ((d.members ++ d.closing).filter (·.cnDue)).foldl (fun (s : State) x => if s.waitsPage (collAgt d x.die) then s else s.fillCn d x) s

/-- The first CN of a reservation of this package goes to CNRES.DONE (R256). -/
def State.noteReserved (s : State) (d : Domain) (m : CollMsg) : State :=
  if m.present ∧ m.bad = d.rank then { s with cnresDone := m.cn } else s

/-- ASSIGNED (R252). -/
def execAssigned (s : State) : Host.Outcome State Fault Refusal :=
  asEvent s fun a => s.onColl a.coll fun d =>
    (((s.setDom (d.learnAll a.coll.key a.coll.cn a.coll.range)).noteReserved d a.coll).fillDue d.ctx d.domid)

/-- The outcome of a number reaches its entry (R254). -/
def Member.goes (x : Member) (m : CollMsg) : Member := if x.cn = some m.cn ∧ x.outcome = none then { x with outcome := some (m.outcome, m.term) } else x

/-- GO (R254). -/
def execGo (s : State) : Host.Outcome State Fault Refusal :=
  asEvent s fun a => s.onColl a.coll fun d =>
    if d.past a.coll.cn then s.setDom d
    else
      let d1 := d.learn a.coll.key a.coll.cn
      (s.setDom { d1 with members := d1.members.map (Member.goes · a.coll) }).fillDue d.ctx d.domid

/-- REFUSED (R240): the collective of the key completes BAD-DOMAIN with CN 0; a number known for the key stays KNOWN. -/
def execRefused (s : State) : Host.Outcome State Fault Refusal :=
  asEvent s fun a => s.onColl a.coll fun d =>
    let fits := fun (x : Member) => x.key == a.coll.key && x.issued && !x.used && x.outcome.isNone
    match d.members.find? fits with
    | none => s.setDom d
    | some x =>
      let rest := match x.cn with
        | none => dropFirst fits d.members
        | some n => updateFirst fits (fun (_ : Member) => { key := x.key, cn := some n }) d.members
      s.setDom (({ d with members := rest } : Domain).closeOut { x with cn := none } 4)

/-! Cancels (R257, R433). -/

/-- What COLLX writes for a reply (R433). -/
def CancelAnswer.code : CancelAnswer → Nat
  | .honoured => 0
  | .tooLate => 0x0C
  | .badDomain => 0x0D

/-- A warp waiting in COLLX for a key returns with a code (R433). -/
def State.collxReturn (s : State) (ctx domid : Nat) (key : Word64) (code : Nat) (ck : Nat × Nat) : State :=
  match s.warp ck.1 ck.2 with
  | none => s
  | some w => match w.wait with
    | some (.collx dm ky dst sbd) =>
      if dm = domid ∧ ky = key ∧ s.ctxOf w = ctx then
        ((s.setWarp ck.1 ck.2 ((w.wake s.clock).advance s.clock)).writeLater ck.1 ck.2 sbd [.sreg dst (BitVec.ofNat 64 code)]).draw
      else s
    | _ => s

/-- CANCEL-REPLY (R433): the oldest CANCEL of the key is answered. -/
def execCancelReply (s : State) : Host.Outcome State Fault Refusal :=
  asEvent s fun a => s.onColl a.coll fun d =>
    let fits := fun (x : Word64 × Option (Nat × Nat)) => x.1 == a.coll.key
    let s1 := s.setDom { d with cancels := dropFirst fits d.cancels }
    match d.cancels.find? fits with
    | some (_, some ck) => s1.collxReturn d.ctx d.domid a.coll.key (CancelAnswer.code a.coll.answer) ck
    | _ => s1

/-- Send CANCEL for a key (R257). -/
def State.sendCancel (s : State) (d : Domain) (key : Word64) (who : Option (Nat × Nat)) : State :=
  (s.setDom { d with cancels := d.cancels ++ [(key, who)] }).sendColl d d.collator .collationCancel { d.msg with key := key }

/-- Cancel every collective of a context that has not completed and that a test picks, as COLLX does (R179, R257, R280). -/
def State.cancelColls (s : State) (ctx : Nat) (pick : Member → Bool) : State :=
  (s.domains.filter fun (d : Domain) => d.ctx == ctx && !d.closed).foldl (fun (s : State) d =>
    ((d.members ++ d.closing).filter fun (x : Member) => x.issued && !x.used && pick x).foldl (fun (s : State) x =>
      match s.dom d.ctx d.domid with
      | some d1 => s.sendCancel d1 x.key none
      | none => s) s) s

/-! The standby (R249, R251). -/

/-- A domain hears of the highest number assigned (R249): the next one follows it. -/
def Domain.noteTop (d : Domain) (cn : BitVec 48) : Domain :=
  if cn ≠ 0 ∧ (d.top = 0 ∨ cnPrecedes d.top cn) then { d with top := cn, nextCn := cnSucc cn } else d

/-- KEEPALIVE (R249): the other is alive; the standby hears of the highest number assigned. -/
def execKeepalive (s : State) : Host.Outcome State Fault Refusal :=
  asEvent s fun a => s.onColl a.coll fun d => s.setDom (if d.rank = d.collator then d else d.noteTop a.coll.cn)

/-- The active collator and the standby exchange KEEPALIVE every 200 µs (R249). -/
def State.keepalives (s : State) : State :=
  if s.clock % cycles200us ≠ 0 then s
  else s.domains.foldl (fun (s : State) d =>
    let m := { d.msg with cn := d.top }
    match d.standby with
    | some r =>
      if d.closed || d.rank == r && d.rank == d.collator then s
      else if d.rank = d.collator then s.sendColl d r .keepalive m
      else if d.rank = r then s.sendColl d d.collator .keepalive m
      else s
    | none => s) s

/-- A replicated row enters the standby's table (R251): an assignment with or without a presence, a DONE, or a GO. -/
def Domain.replicate (d : Domain) (m : CollMsg) : Domain :=
  if m.range = 0 then
    if m.present then d.onDone m.cn m.rank
    else { d with numbers := d.numbers.map fun (n : Number) =>
      if n.cn = m.cn then { n with outcome := m.outcome, st := if m.outcome = .cancel then NumberSt.cancelled else NumberSt.goSent } else n }
  else
    let d1 := if (d.number m.cn).isSome then d else ({ d with nextCn := m.cn } : Domain).assign m.key m.range
    if m.present then
      { d1 with numbers := d1.numbers.map fun (n : Number) =>
        if n.cn = m.cn ∧ !n.has m.rank then { n with presences := n.presences ++ [(m.rank, m.bad, m.params)] } else n }
    else d1

/-- The table of a rank that becomes the standby is that of the rows that follow (R258). -/
def Domain.asStandby (d : Domain) : Domain := if d.standby = some d.rank then d else { d with standby := some d.rank, numbers := [], nextCn := 1, top := 0 }

/-- COLLATOR_REPLICATION (R251): the standby takes the row and acknowledges it. The message's rank is that of the row. -/
def execCollatorReplication (s : State) : Host.Outcome State Fault Refusal :=
  asEvent s fun a => match s.dom a.coll.ctx a.coll.domid with
    | none => s
    | some d =>
      if termPrecedes a.coll.term d.term || d.rank == d.collator then s
      else
        let d1 := { d.asStandby.replicate a.coll with lastHeard := s.clock }
        (s.setDom d1).sendColl d1 d1.collator .replicationAck d1.msg

/-- REPLICATION_ACK (R251): the oldest decision not acknowledged is sent. -/
def execReplicationAck (s : State) : Host.Outcome State Fault Refusal :=
  asEvent s fun a => s.onColl a.coll fun d =>
    if d.rank ≠ d.collator ∨ d.standby ≠ some a.coll.rank then s
    else match d.decisions with
      | [] => s.setDom d
      | x :: rest => x.foldl (fun (s : State) y => s.sendColl d y.dest y.step y.msg) (s.setDom { d with decisions := rest })

/-! Failover (R258, R259). -/

/-- The whole table as rows for a new standby. -/
def Domain.tableRows (d : Domain) : List CollMsg :=
  d.numbers.flatMap fun n =>
    d.assignedMsg n.key n.cn 1 :: n.presences.map (d.presenceMsg n ·) ++
    (if n.st = .assigned then [] else [d.goMsg n]) ++ n.done.map (d.doneMsg n.cn ·)

/-- The new active is ready: TAKEOVER goes to every member, and requests that waited are handled (R258). -/
def State.takeOver (s : State) (ctx domid : Nat) : State :=
  match s.dom ctx domid with
  | none => s
  | some d =>
    let m := { d.msg with cn := d.top }
    let s1 := (List.range d.m).foldl (fun (s : State) r => s.sendColl d r .takeover m) (s.setDom { d with searching := false })
    s1.drainHeld ctx domid

/-- Has the standby heard nothing from the active for 2 ms (R258)? -/
def Domain.activeGone (d : Domain) (clock : Nat) : Bool :=
  !d.closed && d.standby == some d.rank && d.rank != d.collator && decide (d.lastHeard + cycles2ms ≤ clock)

/-- COLLATOR_TAKEOVER (R258): the standby raises the term, becomes active and looks for a standby; with M = 2 there is none. -/
def execCollatorTakeover (s : State) : Host.Outcome State Fault Refusal :=
  asEvent s fun a => match s.dom a.ctx a.dom with
    | none => s
    | some d =>
      if !d.activeGone s.clock then s
      else
        let s1 := s.setDom { d with term := d.term + 1, collator := d.rank, standby := none, searching := true, askedAt := s.clock, decisions := [] }
        if d.m = 2 then s1.takeOver d.ctx d.domid else s1

/-- Does an active look for a standby (R258)? -/
def Domain.asks (d : Domain) : Bool := !d.closed && d.rank == d.collator && d.standby.isNone && decide (1 < d.m)

/-- STANDBY_SEARCH (R258): a rank has answered and receives the whole table, its rows and then in a KEEPALIVE the highest number assigned, or 2 ms have passed with no answer. -/
def execStandbySearch (s : State) : Host.Outcome State Fault Refusal :=
  asEvent s fun a => match s.dom a.ctx a.dom with
    | none => s
    | some d =>
      if !d.asks then s
      else match a.rank with
        | some r =>
          if d.m ≤ r ∨ r = d.rank then s
          else
            let s1 := d.tableRows.foldl (fun (s : State) m => s.publish ((s.dom d.ctx d.domid).getD d) [(m, [])]) (s.setDom { d with standby := some r })
            let s2 := s1.sendColl d r .keepalive { d.msg with cn := d.top }
            if d.searching then s2.takeOver d.ctx d.domid else s2
        | none =>
          if s.clock < d.askedAt + cycles2ms then s
          else
            let s1 := s.setDom { d with askedAt := s.clock }
            if d.searching then s1.takeOver d.ctx d.domid else s1

/-- What a member resends after a TAKEOVER (R258). -/
def State.resend (s : State) (d : Domain) : State :=
  let mine := d.members.filter fun (x : Member) => x.issued && !x.used && x.outcome.isNone
  let s1 := mine.foldl (fun (s : State) x =>
    let m := { d.msg with key := x.key, params := x.params, bad := x.bad, present := true }
    match x.cn with
    | none => s.sendColl d d.collator .sight m
    | some n => s.sendColl d d.collator .present { m with cn := n }) s
  d.cancels.foldl (fun (s : State) x => s.sendColl d d.collator .collationCancel { d.msg with key := x.1 }) s1

/-- TAKEOVER (R258): the member follows the new active and resends what has had no answer. -/
def execTakeover (s : State) : Host.Outcome State Fault Refusal :=
  asEvent s fun a => s.onColl a.coll fun d =>
    let m := a.coll
    let d1 := if m.term = d.term ∧ m.rank = d.collator then d
      else { d with
        term := m.term
        collator := m.rank
        standby := if d.standby = some d.rank then d.standby else none
        decisions := []
        searching := false
        held := [] }
    let d2 := { d1 with lastHeard := s.clock }
    (s.setDom d2).resend d2

/-- Has a member heard neither the active nor the standby for 10 ms (R259)? -/
def Domain.lost (d : Domain) (clock : Nat) : Bool :=
  !d.closed && d.rank != d.collator && decide (d.lastHeard + cycles10ms ≤ clock)

/-- COLLATOR_LOST_TIMEOUT (R259): what has not reached GO completes COLLATOR-LOST, the host is told, and the domain takes no further issue. -/
def execCollatorLostTimeout (s : State) : Host.Outcome State Fault Refusal :=
  asEvent s fun a => match s.dom a.ctx a.dom with
    | none => s
    | some d =>
      if !d.lost s.clock then s
      else
        let gone := fun (x : Member) => x.issued && !x.used && x.outcome.isNone
        let d1 := (d.members.filter gone).foldl (fun (d : Domain) x => d.closeOut x 9)
          ({ d with closed := true, cancels := [], members := d.members.filter fun (x : Member) => !gone x } : Domain)
        d.cancels.foldl (fun (s : State) x => match x.2 with
          | some ck => s.collxReturn d.ctx d.domid x.1 0x0E ck
          | none => s) ((s.setDom d1).interrupt (.domain d.ctx))

end Sys2Proof.Machine
end

