-- ==== Sys2Proof/Machine/Collectives.lean ====
section
/-! DEFINITION. Collectives at a member: descriptors and their issue (R243-R245, R250, R431), the order of execution (R253, R254), data phases (R244, R261, R262), COLL, COLLW, COLLQ and COLLX (R431-R433). -/
namespace Sys2Proof.Machine
open Sys2Proof

/-! Descriptors (R243, R244). -/

/-- The parameters of a descriptor (R242, R243). -/
def collParams (b : List Byte) : CollParams :=
  { op := fieldAt b 0x22 1, fmt := fieldAt b 0x23 1 % 8, rop := fieldAt b 0x23 1 / 8 % 4, count := fieldAt b 0x18 8, root := fieldAt b 0x24 2 }

/-- Bytes of an element (R243). -/
def elemSize (p : CollParams) : Nat := if p.fmt = 0 then 4 else if p.fmt = 3 then 1 else 2
/-- Elements of SRC with m members (R244). -/
def srcElems (p : CollParams) (m : Nat) : Nat := if p.op = 5 then 0 else if p.op = 1 ∨ p.op = 4 then m * p.count else p.count
/-- Elements of DST with m members (R244). -/
def dstElems (p : CollParams) (m : Nat) : Nat := if p.op = 5 then 0 else if p.op = 2 ∨ p.op = 4 then m * p.count else p.count
/-- Does a rank's SRC take part (R244)? -/
def usesSrc (p : CollParams) (rank : Nat) : Bool := p.op != 5 && (p.op != 3 || rank == p.root)

/-- Reserved fields and values of a descriptor (R243). -/
def descReserved (b : List Byte) (p : CollParams) (m : Nat) : Bool :=
  decide (5 < p.op) || decide (32 ≤ fieldAt b 0x23 1) || decide (3 < p.fmt) || p.rop == 3 || fieldAt b 0x26 2 != 0 || fieldAt b 0x38 8 != 0 ||
  (decide (2 ≤ p.op) && p.rop != 0) || (if p.op = 3 then decide (m ≤ p.root) else p.root != 0) || fieldAt b 0x28 8 % 8 != 0 ||
  (if p.op = 5 then p.count != 0 || fieldAt b 0x08 16 != 0 else p.count == 0 || decide (2 ^ 40 < p.count))

/-- The buffers a rank uses: address and bytes (R244). -/
def descBuffers (b : List Byte) (p : CollParams) (m rank : Nat) : List (Nat × Nat) :=
  if p.op = 5 then []
  else (fieldAt b 0x10 8, dstElems p m * elemSize p) :: (if usesSrc p rank then [(fieldAt b 0x08 8, srcElems p m * elemSize p)] else [])

/-- A misaligned buffer, or buffers that overlap otherwise than all-reduce and broadcast may (R244). -/
def descBuffersBad (b : List Byte) (p : CollParams) (m rank : Nat) : Bool :=
  let bs := descBuffers b p m rank
  bs.any (fun x => x.1 % elemSize p != 0) ||
  (match bs with
   | [(d, n), (r, k)] => !((p.op == 0 || p.op == 3) && d == r) && decide (r < d + n) && decide (d < r + k)
   | _ => false)

/-- Has this member a collective of the key that is not complete (R245)? -/
def Domain.hasKey (d : Domain) (key : Word64) : Bool :=
  d.members.any (fun x => x.issued && !x.used && x.key == key) || d.closing.any (fun x => x.key == key)

/-- The status of a failed presence, 0 for a valid one (R245, R250). -/
def Domain.issueStatus (d : Domain) (b : List Byte) : Nat :=
  let p := collParams b
  if descReserved b p d.m || descBuffersBad b p d.m d.rank then 2
  else if (descBuffers b p d.m d.rank).any fun x => decide (windowsBase < x.1 + x.2) then 3
  else if d.hasKey (BitVec.ofNat 64 (fieldAt b 0 8)) then 8
  else 0

/-! Result records and completion (R245). -/

/-- The 16 bytes of a result record (R245). -/
def resultBytes (cn status term : Nat) : List Byte := leBytes 6 cn ++ leBytes 1 status ++ leBytes 1 0 ++ leBytes 2 term ++ leBytes 6 0

/-- A fatal fault of the collective engine ends its context (R262, R279). -/
def State.collFault (s : State) (d : Domain) : State := s.terminate d.ctx 7

/-- What an attempt comes to: made, or to be made again. -/
inductive Tried where
  | made (s : State)
  | again (s : State)
  deriving DecidableEq, Repr

/-- Add to a collective's counter after its record is written (R245): with writes outstanding at peers, or a page to wait for, it is tried again. -/
def State.countDone (s : State) (d : Domain) (x : Member) (status : Nat) : Tried :=
  let later := fun (t : State) => Tried.again (t.remember d x { x with stage := 2, finish := some status })
  if x.done = 0 then .made s
  else if s.workOut (collWork d) then later s
  else match s.counterAt d.ctx x.done with
    | .wait t => later t
    | .fatal _ => .made (s.collFault d)
    | .ok st => .made (s.countOne d.ctx st false)

/-- Complete a collective whose output has left (R245): once the output is performed its record is written, with STATUS, and after that its counter; each write waits for its page (R262). A context being terminated has nothing written (R280). -/
def State.tryComplete (s : State) (d : Domain) (x : Member) (status : Nat) : Tried :=
  let g := { collAgt d x.die with work := collWork d }
  let later := fun (t : State) => Tried.again (t.remember d x { x with finish := some status })
  if !s.ctxLives d.ctx then .made s
  else if s.waitsPage g || s.workOut g.work then later s
  else if x.stage = 2 then s.countDone d x status
  else match s.reachAll g .write [⟨1, x.result, 16⟩] with
    | .fatal _ _ t => .made (t.collFault d)
    | .wait t => later t
    | .ok sts =>
      let term := ((x.outcome.map Prod.snd).getD 0).toNat
      let record := (resultBytes (x.cn.getD 0).toNat status term).map fun b => (b, none)
      ((s.showAll g).deposit g sts record).countDone d x status

/-- May a collective outside the order complete: once no collective of this member runs under its number? -/
def Domain.mayClose (d : Domain) (x : Member) : Bool :=
  x.cn.isNone || !(d.members.any fun y => y.issued && y.cn == x.cn)

/-- The collectives of a domain that complete outside the order do so. -/
def State.closeReady (s : State) (ctx domid : Nat) : State :=
  match s.dom ctx domid with
  | none => s
  | some d => (d.closing.filter d.mayClose).foldl (fun (s : State) x => match s.tryComplete d x (x.finish.getD 0) with
      | .again t => t
      | .made t => match t.dom ctx domid with
        | some d1 => t.setDom { d1 with closing := dropFirst (fun (y : Member) => y == x) d1.closing }
        | none => t) s

/-! Issue (R250). -/

/-- The entry of an issue. -/
def issueMember (b : List Byte) (launch cmd : Option Nat) (die bad : Nat) : Member :=
  { key := BitVec.ofNat 64 (fieldAt b 0x00 8), issued := true, params := collParams b, src := BitVec.ofNat 64 (fieldAt b 0x08 8), dst := BitVec.ofNat 64 (fieldAt b 0x10 8),
    result := BitVec.ofNat 64 (fieldAt b 0x30 8), done := BitVec.ofNat 64 (fieldAt b 0x28 8), launch := launch, cmd := cmd, die := die, bad := bad }

/-- An issue whose key has a number here (R250, R254): a cancelled one completes it at once; else it sends PRESENT. -/
def State.issueKnown (s : State) (d : Domain) (x n : Member) (fits : Member → Bool) : State :=
  let y := { x with cn := n.cn, outcome := n.outcome, cnDue := true }
  match n.outcome with
  | some (.cancel, _) =>
    let rest := if n.passed then dropFirst fits d.members else updateFirst fits (fun (m : Member) => { m with used := true }) d.members
    (s.setDom (({ d with members := rest } : Domain).closeOut y 1)).closeReady d.ctx d.domid
  | _ =>
    let s1 := s.setDom { d with members := updateFirst fits (fun (_ : Member) => y) d.members }
    (s1.sendColl d d.collator .present { d.msg with key := x.key, cn := n.cn.getD 0, params := x.params, bad := x.bad, present := true }).fillDue d.ctx d.domid

/-- An issue in a domain (R250). -/
def State.issueIn (s : State) (d : Domain) (x : Member) : State :=
  let fits := fun (y : Member) => y.key == x.key && !y.issued && !y.used
  if d.closed then (s.setDom (d.closeOut x 9)).closeReady d.ctx d.domid
  else match d.members.find? fits with
    | some n => s.issueKnown d x n fits
    | none =>
      -- a failed presence under a number known here: it shares the number and completes after it (log entry 10)
      match d.members.find? fun (y : Member) => y.key == x.key && y.issued && !y.used && y.cn.isSome with
      | some y =>
        ((s.setDom (d.closeOut { x with cn := y.cn, cnDue := true } x.bad)).sendColl d d.collator .present
          { d.msg with key := x.key, cn := y.cn.getD 0, params := x.params, bad := x.bad, present := true }).fillDue d.ctx d.domid
      | none =>
        (s.setDom { d with members := d.members ++ [x] }).sendColl d d.collator .sight
          { d.msg with key := x.key, params := x.params, bad := x.bad, present := true }

/-- Issue the collective of a descriptor (R243, R245, R250): its record becomes PENDING; an undefined domain completes at once. -/
def State.issueColl (s : State) (ctx die : Nat) (launch cmd : Option Nat) (b : List Byte) (record : State → List Byte → State) : Tried :=
  match s.dom ctx (fieldAt b 0x20 2) with
  | some d => .made ((record s (resultBytes 0 0xFF 0)).issueIn d (issueMember b launch cmd die (d.issueStatus b)))
  | none =>
    let done := BitVec.ofNat 64 (fieldAt b 0x28 8)
    let ended := fun (t : State) => record t (resultBytes 0 4 0)
    if done = 0 then .made (ended s)
    else match s.counterAt ctx done with
      | .ok st => .made ((ended s).countOne ctx st false)
      | .wait t => .again (ended t)
      | .fatal _ => .made ((ended s).terminate ctx 7)

/-! The order of execution (R253, R254). -/

/-- The number at E, if it is known. -/
def Domain.atTurn (d : Domain) : Option Member := d.members.find? fun x => x.cn == some d.turn && !x.passed

/-- E advances and DONE is sent (R254). -/
def State.advanceE (s : State) (d : Domain) : State :=
  let s1 := ((s.setDom { d with turn := cnSucc d.turn, inputs := none }).clearFails (.coll d.ctx d.domid)).pxDrop (collWork d)
  s1.sendColl d d.collator .done { d.msg with cn := d.turn }

/-- The number at E completes with a status (R245, R254). -/
def State.completeTurn (s : State) (d : Domain) (x : Member) (status : Nat) : State :=
  match s.tryComplete d x status with
  | .again t => t
  | .made t => match t.dom d.ctx d.domid with
    | some d1 => (t.advanceE { d1 with members := dropFirst (fun (y : Member) => y == x) d1.members }).closeReady d.ctx d.domid
    | none => t

/-- COLLECTIVE_TURN (R253, R254): what stands at E completes without a data phase, or begins one; collectives outside the order complete. -/
def execCollectiveTurn (s : State) : Host.Outcome State Fault Refusal :=
  asEvent s fun a =>
    let s0 := s.closeReady a.ctx a.dom
    match s0.dom a.ctx a.dom with
    | none => s0
    | some d => match d.atTurn with
      | none => s0
      | some x => match x.outcome, x.issued with
        | none, _ => s0
        | some (.cancel, _), true => s0.completeTurn d x 1
        | some (.cancel, _), false =>
          let rest := if x.used then dropFirst (fun (y : Member) => y == x) d.members else updateFirst (fun (y : Member) => y == x) (fun (y : Member) => { y with passed := true }) d.members
          s0.advanceE { d with members := rest }
        | some (.fail st, _), true => s0.completeTurn d x st
        | some (.run, _), true =>
          if x.running.isSome then s0
          else s0.setDom { d with members := updateFirst (fun (y : Member) => y == x) (fun (y : Member) => { y with running := some s.clock }) d.members }
        | _, false => s0

/-- Has COLLECTIVE_TURN something to do for a domain? -/
def Domain.turnReady (d : Domain) : Bool :=
  d.closing.any d.mayClose || (match d.atTurn with
    | some x => (match x.outcome, x.issued with
      | some (.cancel, _), _ => true
      | some (.fail _, _), i => i
      | some (.run, _), i => i && x.running.isNone
      | none, _ => false)
    | none => false)

/-! Data phases (R244, R261, R262). -/

/-- The format of the elements (R243). -/
def collFmt (n : Nat) : Fmt := match n with | 0 => .f32 | 1 => .f16 | 2 => .b16 | _ => .e4m3

/-- One combination (R261). -/
def collOp (rop a b : Nat) : Nat :=
  (match rop with
   | 0 => fAdd .f32 Rnd.rne a b
   | 1 => fMin .f32 a b
   | _ => fMax .f32 a b).bits

/-- The reduction of the ranks' elements in rank order (R261). -/
def collReduce (fmt rop : Nat) (xs : List Nat) : Nat :=
  let f := collFmt fmt
  match xs.map fun x => if fmt = 0 then x else (cvtFF .f32 f Rnd.rne false x).bits with
  | [] => 0
  | x :: t => (cvtFF f .f32 Rnd.rne false (t.foldl (collOp rop) x)).bits

/-- An element of an input with its poison. -/
def inputElem (x : CollInput) (size e : Nat) : Nat × Bool := (leNat ((x.bytes.drop (e * size)).take size), x.poisoned.contains e)

/-- The elements of DST at a rank, with their poison (R244, R261, R262). -/
def collOutput (p : CollParams) (m rank : Nat) (ins : List CollInput) : List (Nat × Bool) :=
  let at_ := fun (r e : Nat) => inputElem (ins.getD r ⟨[], []⟩) (elemSize p) e
  (List.range (dstElems p m)).map fun e =>
    match p.op with
    | 2 => at_ (e / p.count) (e % p.count)
    | 3 => at_ p.root e
    | 4 => at_ (e / p.count) (rank * p.count + e % p.count)
    | _ =>
      let xs := (List.range m).map fun r => at_ r (if p.op = 1 then rank * p.count + e else e)
      (collReduce p.fmt p.rop (xs.map Prod.fst), xs.any Prod.snd)

/-- Input bytes of this member as an input: the elements with a poisoned byte are poisoned. -/
def ownInput (size : Nat) (b : List (Byte × Option Nat)) : CollInput :=
  { bytes := b.map Prod.fst, poisoned := ((b.zipIdx.filter fun x => x.1.2.isSome).map fun x => x.2 / size).eraseDups }

/-- Do the data of other members matter to this one's data phase? -/
def Domain.needsOthers (d : Domain) (p : CollParams) : Bool := (List.range d.m).any fun r => r != d.rank && usesSrc p r

/-- Inputs of the other members that fit the collective. -/
def Domain.inputsFit (d : Domain) (p : CollParams) (ins : List CollInput) : Bool :=
  ins.length == d.m && (List.range d.m).all fun r => r == d.rank || !usesSrc p r || (ins.getD r ⟨[], []⟩).bytes.length == srcElems p d.m * elemSize p

/-- The data phase with the other members' inputs: own input read, outputs written, completion (R254, R261, R262). -/
def State.runData (s : State) (d : Domain) (x : Member) (ins : List CollInput) : State :=
  let g := { collAgt d x.die with work := collWork d }
  let p := x.params
  let part := fun (a : Word64) (n : Nat) => if n = 0 then [] else [(⟨1, a, n * elemSize p⟩ : Part)]
  if s.waitsPage g then s
  else match s.reachAll g .read (if usesSrc p d.rank then part x.src (srcElems p d.m) else []), s.reachAll g .write (part x.dst (dstElems p d.m)) with
    | .fatal _ _ t, _ => t.collFault d
    | _, .fatal _ _ t => t.collFault d
    | .wait t, _ => t
    | _, .wait t => t
    | .ok ss, .ok ds => match s.pull g (collWork d) false ss with
      | .wait t => t
      | .fatal _ _ => s.collFault d
      | .bytes b =>
        let own := ownInput (elemSize p) b
        let all := (List.range d.m).map fun r => if r = d.rank then own else ins.getD r ⟨[], []⟩
        let sector := (b.findSome? Prod.snd).getD 0
        let out := collOutput p d.m d.rank all
        let bytes := out.flatMap fun y => (leBytes (elemSize p) y.1).map fun z => (z, if y.2 then some sector else none)
        let status := if out.any Prod.snd then 6 else 0
        let y := { x with stage := 1, finish := some status }
        let s1 := ((s.partsRead g false ss).deposit g ds bytes).remember d x y
        match s1.dom d.ctx d.domid with
        | some d1 => s1.completeTurn d1 y status
        | none => s1

/-- The collective whose data phase runs. -/
def Domain.running (d : Domain) : Option Member :=
  match d.atTurn with
  | some x => if x.running.isSome then some x else none
  | none => none

/-- COLLECTIVE_DATA_PHASE_COMPLETE (R254): with the other members' inputs, where they matter. -/
def execCollectiveDataPhaseComplete (s : State) : Host.Outcome State Fault Refusal :=
  asEvent s fun a => match s.dom a.ctx a.dom with
    | none => s
    | some d => match d.running with
      | none => s
      | some x =>
        if !s.ctxLives d.ctx then s
        else match x.finish with
        | some st => s.completeTurn d x st
        | none =>
        if !d.needsOthers x.params then s.runData d x []
        else match d.inputs with
          | some ins => s.runData d x ins
          | none =>
            if d.inputsFit x.params a.inputs then
              (let d1 := { d with inputs := some a.inputs }
               (s.setDom d1).runData d1 x a.inputs)
            else s

/-- May a data phase go on without an input from outside? -/
def Domain.dataReady (d : Domain) : Bool :=
  match d.running with
  | some x => x.finish.isSome || !d.needsOthers x.params || d.inputs.isSome
  | none => false

/-- May another member have been silent for 2 ms in a data phase (R254)? Whether it has is seen from outside (log entry 10). -/
def Domain.silent (d : Domain) (clock : Nat) : Option Member :=
  match d.running with
  | some x => match x.running with
    | some t => if d.needsOthers x.params && x.finish.isNone && d.inputs.isNone && decide (t + cycles2ms ≤ clock) then some x else none
    | none => none
  | none => none

/-- The output elements of a data phase that ends unfinished: each is unchanged or written, and which, with what, is free (R245). -/
def State.partOut (s : State) (d : Domain) (x : Member) : State :=
  let g := { collAgt d x.die with work := collWork d }
  let n := elemSize x.params
  ((List.range (dstElems x.params d.m)).filter fun e => Config.freeNew s.free (e + d.domid * 2 ^ 60 + 2 ^ 120)).foldl (fun (s : State) e =>
    match s.reachAll g .write [⟨1, x.dst + BitVec.ofNat 64 (e * n), n⟩] with
    | .ok ds => s.deposit g ds ((leBytes n ((Config.freeWord (s.free + e)).toNat % 2 ^ (8 * n))).map fun b => (b, none))
    | _ => s) s

/-- MEMBER_SILENCE_TIMEOUT (R254, R260): MEMBER-LOST. -/
def execMemberSilenceTimeout (s : State) : Host.Outcome State Fault Refusal :=
  asEvent s fun a => match s.dom a.ctx a.dom with
    | none => s
    | some d => match d.silent s.clock with
      | some x => (s.partOut d x).completeTurn d x 7
      | none => s

/-! The instructions. -/

/-- A structure that a warp names in global space, aligned to its size (R431-R433). -/
def State.globalAt (s : State) (c k : Nat) (w : Warp) (l : Nat) (acc : Acc) (ea : Word64) (n : Nat) : Except WRes Store :=
  s.reachOne c k (s.laneAgt c k w l) acc 1 true ea n l

/-- Read a structure that a warp names in global space. -/
def State.globalRead (s : State) (c k : Nat) (w : Warp) (plain : Bool) (l : Nat) (ea : Word64) (n : Nat) : Except WRes (State × List Byte) :=
  match s.globalAt c k w l .read ea n with
  | .error r => .error r
  | .ok st => s.warpPull c k w plain (s.laneAgt c k w l) ea n st

/-- COLL (R431). -/
def execColl (f : RR) (s : State) : Host.Outcome State Fault Refusal :=
  asWarp s fun c k w => s.sysRun c k w f.g fun l =>
    match s.globalRead c k w false l (s.sArg c k w l f.sa) 64 with
    | .error r => r
    | .ok (s1, b) =>
      let r := BitVec.ofNat 64 (fieldAt b 0x30 8)
      match s1.globalAt c k w l .write r 16 with
      | .error e => e
      | .ok st =>
        let g := s.laneAgt c k w l
        let launch := (s.blockOf w).map fun (x : Block) => x.launch
        s1.afterWrites c k w fun u => match (u.l1Drop c g.ctx).issueColl g.ctx (dieOf c) launch none b fun t bs => (t.storeOut g st r.toNat bs).showAll g with
          | .made t => .done t
          | .again t => t.again c k w

/-- The result of COLLW and COLLQ: STATUS and CN (R432). -/
def collStatus (b : List Byte) : Word64 := BitVec.ofNat 64 (fieldAt b 6 1 + 256 * fieldAt b 0 6)

/-- COLLW and COLLQ (R432): a read that reports completion acquires. -/
def State.collRead (s : State) (c k : Nat) (w : Warp) (f : RR) (waits : Bool) : WRes :=
  s.sysRun c k w f.g fun l =>
    match s.globalRead c k w false l (s.sArg c k w l f.sa) 16 with
    | .error r => r
    | .ok (s1, b) =>
      if fieldAt b 6 1 ≠ 0xFF then (s1.l1Drop c (s.ctxOf w)).sysResult c k f [(f.dst.toNat, collStatus b)]
      else if waits then s1.again c k w
      else s1.sysResult c k f [(f.dst.toNat, collStatus b)]

/-- COLLW (R432). -/
def execCollw (f : RR) (s : State) : Host.Outcome State Fault Refusal := asWarp s fun c k w => s.collRead c k w f true
/-- COLLQ (R432). -/
def execCollq (f : RR) (s : State) : Host.Outcome State Fault Refusal := asWarp s fun c k w => s.collRead c k w f false

/-- COLLX (R433). -/
def execCollx (f : RR) (s : State) : Host.Outcome State Fault Refusal :=
  asWarp s fun c k w => s.sysRun c k w f.g fun l =>
    match s.globalRead c k w true l (s.sArg c k w l f.sa) 64 with
    | .error r => r
    | .ok (s1, b) =>
      let key := BitVec.ofNat 64 (fieldAt b 0 8)
      let d := f.dst.toNat
      match s1.dom (s.ctxOf w) (fieldAt b 0x20 2) with
      | none => s1.sysResult c k f [(d, 0x0D)]
      | some dm =>
        if dm.closed then s1.sysResult c k f [(d, 0x0E)]
        else .wait ((s1.sendCancel dm key (some (c, k))).setWarp c k (w.sleep (.collx dm.domid key d f.sbd.toNat)))

end Sys2Proof.Machine
end

