-- ==== Sys2Proof/Machine/Units.lean ====
section
/-! DEFINITION. Units of work: when they are complete (R176-R178, R215), cancellation (R179, R444), termination by the host and its end (R279, R280), and the host's PREEMPT and RESUME (R237, R479). -/
namespace Sys2Proof.Machine
open Sys2Proof

/-! Launches. -/

/-- The header's number of warps (R326). -/
def hdrWarps (h : Word64) : Nat := (h.extractLsb' 5 6).toNat
/-- The header's tiles per warp (R326). -/
def hdrTiles (h : Word64) : Nat := (h.extractLsb' 1 4).toNat
/-- The header's shared bytes (R326). -/
def hdrShared (h : Word64) : Nat := (h.extractLsb' 11 9).toNat * 1024
/-- SEQP: the block has a sequencer program (R326). -/
def hdrSeq (h : Word64) : Bool := h.getLsbD 20

/-- GRIDX, GRIDY or GRIDZ (R213). -/
def Launch.grid (l : Launch) (d : Nat) : Nat := l.field4 0x20 d
/-- The block count against which tickets are checked (R215); KIND 1 has none. -/
def Launch.blockCount (l : Launch) : Nat := if l.kind = 0 then l.grid 0 * l.grid 1 * l.grid 2 else l.grid 0
/-- Does only die 0's processor place the launch: cluster groups and ring block sets (R214, R215)? -/
def Launch.byDie0 (l : Launch) : Bool := l.isCluster || l.kind == 3

/-- Cores of a launch of KIND 1 that still want blocks, in the current mask (R215, R228). -/
def State.wanting (s : State) (l : Launch) : List (Nat × Nat) := l.want.filter fun e => e.2 != 0 && (s.maskNow l).getLsbD e.1

/-- Is every block of a launch placed, or no more to be placed (R179, R214, R215)? -/
def State.allPlaced (s : State) (l : Launch) : Bool :=
  l.cancelled || (if l.kind = 1 then (s.wanting l).isEmpty
    else decide (l.blockCount ≤ l.placed) || (l.stopped.contains 0 && (l.byDie0 || l.stopped.contains 1)))

/-- Is a block of a launch still to end? -/
def State.blocksLive (s : State) (i : Nat) : Bool := s.blocks.any fun e => e.2.launch == i && e.2.st != BlockSt.ended

/-- Is every cell done or abandoned (R178)? -/
def State.cellsOver (s : State) (l : Launch) : Bool := (List.range l.cellCount).all fun i => decide (2 ≤ s.cell l i)

/-- Has a launch a collective that is not complete (R178)? -/
def State.launchColls (s : State) (l : Launch) (i : Nat) : Bool :=
  s.domains.any fun d => d.ctx == l.ctx &&
    (d.members.any (fun x => x.launch == some i && x.issued && !x.used) || d.closing.any fun x => x.launch == some i)

/-- Structures of launches that path TK itself reads next: the signature record of one that places blocks, the sewing map of one whose blocks have ended; a replayable fault is raised and waited for, a fatal one ends the context (R37, R228, R279). -/
def State.reachSigns (s : State) : State :=
  s.launches.foldl (fun (s : State) e =>
    let l := e.2
    if l.kind ≠ 1 ∨ l.complete ∨ l.cancelled ∨ !s.ctxLives l.ctx then s
    else match s.tkRange l.ctx .read l.sigrec 64 false, if s.blocksLive e.1 then .ok (.mem []) else s.tkRange l.ctx .read l.sewmap ((l.cellCount + 3) / 4) false with
      | .error x, _ | _, .error x => if s.replayable l.ctx x.cause then s.raiseTk l.ctx x else s.terminate l.ctx 7
      | _, _ => s) s

/-- Is a launch over (R178, R179)? -/
def State.launchOver (s : State) (i : Nat) (l : Launch) : Bool :=
  !l.complete && s.allPlaced l && !s.blocksLive i && !s.launchColls l i && (l.kind != 1 || l.cancelled || s.cellsOver l)

/-! Other units. -/

/-- Is work that a command started complete (R211)? -/
def State.workDone (s : State) : Work → Bool
  | .launch i => match s.launches.find i with | some l => l.complete | none => true
  | .graph i => match s.graphs.find i with | some g => g.complete | none => true
  | .record i => !(s.engines.any fun e => e.2.any fun r => r.id == i)
  | .phase i => match s.phases.find i with | some p => p.complete | none => true
  | .coll i => !(s.domains.any fun d => d.members.any (fun x => x.cmd == some i && x.issued && !x.used) || d.closing.any fun x => x.cmd == some i)

/-- Is a graph over: every command started and complete, or skipped (R178, R179)? -/
def State.graphOver (s : State) (g : Graph) : Bool := !g.complete && decide (g.count ≤ g.next) && g.running.all s.workDone

/-- Is a phase over: its PHASE-END reached, every graph of it complete (R178)? -/
def State.phaseOver (s : State) (i : Nat) (p : Phase) : Bool :=
  !p.complete && p.counter.isSome && s.graphs.all fun e => e.2.phase != i || e.2.complete

/-- Has a context work that has not ended (R178)? -/
def State.ctxBusy (s : State) (ctx : Nat) : Bool :=
  s.launches.any (fun e => e.2.ctx == ctx && !e.2.complete) || s.graphs.any (fun e => e.2.ctx == ctx && !e.2.complete) ||
  s.phases.any (fun e => e.2.ctx == ctx && !e.2.complete && e.2.counter.isSome) || s.engines.any (fun e => e.2.any fun r => r.ctx == ctx) ||
  s.cores.any (fun e => e.2.copies.any fun x => x.ctx == ctx) ||
  s.domains.any fun d => d.ctx == ctx && (d.members.any (fun x => x.issued && !x.used) || !d.closing.isEmpty)

/-! Completion (R177, R178). -/

/-- A unit completes: its counter receives its count and the state its mark; a replayable fault on the counter waits, a fatal one ends the context (R177). -/
def State.finishUnit (s : State) (ctx : Nat) (va : Word64) (cancelled : Bool) (mark : State → State) : State :=
  match s.counterAt ctx va with
  | .ok st => mark (s.countOne ctx st cancelled)
  | .wait t => t
  | .fatal _ => s.terminate ctx 7

/-- A launch is complete; its ended blocks are forgotten, with the CLUSTER slices they kept (R59). -/
def State.markLaunch (s : State) (i : Nat) : State :=
  { s with
    launches := mapVals s.launches fun (k : Nat) (l : Launch) => if k = i then { l with complete := true } else l
    blocks := s.blocks.filter fun (e : Nat × Block) => !(e.2.launch == i && e.2.st == BlockSt.ended) }

/-- UNIT_COMPLETION (R178): a launch, graph or phase that is over; the job of a context, which the driver ends when nothing of it is left. -/
def execUnitCompletion (s : State) : Host.Outcome State Fault Refusal :=
  asEvent s fun a => match a.unit with
    | .launch i => match s.launches.find i with
      | some l => if s.launchOver i l then s.finishUnit l.ctx l.counter l.cancelled (·.markLaunch i) else s
      | none => s
    | .graph i => match s.graphs.find i with
      | some g => if s.graphOver g then s.finishUnit g.ctx g.counter g.cancelled fun t => { t with graphs := t.graphs.put i { g with complete := true } } else s
      | none => s
    | .phase i => match s.phases.find i with
      | some p => match p.counter with
        | some c => if s.phaseOver i p then s.finishUnit p.ctx c p.cancelled fun t => { t with phases := t.phases.put i { p with complete := true } } else s
        | none => s
      | none => s
    | .job c => match s.ctx c with
      | some x =>
        if x.ended || x.terminating.isSome || s.ctxBusy c then s
        else
          let mark := fun (t : State) => t.onCtx c fun y => { y with ended := true }
          if x.counter = 0 then mark s else s.finishUnit c x.counter false mark
      | none => s

/-! Cancellation (R179). -/

/-- A block of a cancelled launch stops as for pre-emption and then ends; a suspended one drains; leaves handed out to it are abandoned as it drains. -/
def State.cancelBlock (s : State) (bid : Nat) : State :=
  match s.block bid with
  | none => s
  | some b => match b.st with
    | .resident => s.setBlock bid { b with stopping := true, cancelled := true }
    | .suspended =>
      let t := s.dropLeaves bid
      match t.block bid with
      | some x => t.setBlock bid { x with st := .draining, cancelled := true }
      | none => t
    | .draining => s.dropLeaves bid
    | .ended => s

/-- The cells of a launch that are claimed and that no block holds a leaf of any more become abandoned (R179). -/
def State.dropClaimed (s : State) (i : Nat) (l : Launch) : State :=
  if l.kind ≠ 1 then s
  else
    let kept := (s.blocks.filter fun e => e.2.launch == i && e.2.st != BlockSt.ended).flatMap fun e => (e.2.chunk ++ e.2.handed).flatMap l.leafCells
    ((List.range l.cellCount).filter fun n => !kept.contains n).foldl (fun (s : State) n => s.tkDo l.ctx (.cell (l.sewmap + n / 4) (n % 4) (some 1) 3)) s

/-- Cancel a launch (R179). -/
def State.cancelLaunch (s : State) (i : Nat) : State :=
  match s.launches.find i with
  | none => s
  | some l =>
    if l.complete || l.cancelled then s
    else
      let s1 := s.setLaunch i { l with cancelled := true, stuckSince := none }
      let mine := (s1.blocks.filter fun e => e.2.launch == i).map Prod.fst
      ((mine.foldl State.cancelBlock s1).dropClaimed i l).cancelColls l.ctx fun x => x.launch == some i

/-- Cancel a graph: its launches, and its later commands are skipped (R179). -/
def State.cancelGraph (s : State) (i : Nat) : State :=
  match s.graphs.find i with
  | none => s
  | some g =>
    if g.complete || g.cancelled then s
    else
      let s1 := { s with
        graphs := s.graphs.put i { g with cancelled := true, next := g.count }
        queues := mapVals s.queues fun (_ : Nat) (q : Queue) => if q.graph = some i then { q with graph := none, head := q.head + 1 } else q }
      (s.launches.filter fun e => e.2.graph == some i).foldl (fun (s : State) e => s.cancelLaunch e.1) s1

/-- Cancel a phase: its graphs (R179). -/
def State.cancelPhase (s : State) (i : Nat) : State :=
  match s.phases.find i with
  | none => s
  | some p =>
    if p.complete || p.cancelled then s
    else
      let s1 := { s with phases := s.phases.put i { p with cancelled := true } }
      (s.graphs.filter fun e => e.2.phase == i).foldl (fun (s : State) e => s.cancelGraph e.1) s1

/-- Cancel the unit of a context that a counter names, ordered against its completion: the status of R444. -/
def State.cancelUnit (s : State) (ctx : Nat) (va : Word64) : State × Nat :=
  match s.launches.find? fun e => e.2.ctx == ctx && e.2.counter == va && !e.2.complete with
  | some e => (s.cancelLaunch e.1, 0)
  | none => match s.graphs.find? fun e => e.2.ctx == ctx && e.2.counter == va && !e.2.complete with
    | some e => (s.cancelGraph e.1, 0)
    | none => match s.phases.find? fun e => e.2.ctx == ctx && e.2.counter == some va && !e.2.complete with
      | some e => (s.cancelPhase e.1, 0)
      | none =>
        if va ≠ 0 ∧ (s.ctx ctx).any (fun x => x.counter == va) then (s.terminate ctx 4, 0)
        else if s.launches.any (fun e => e.2.ctx == ctx && e.2.counter == va) || s.graphs.any (fun e => e.2.ctx == ctx && e.2.counter == va) ||
          s.phases.any (fun e => e.2.ctx == ctx && e.2.counter == some va) then (s, 0x0F)
        else (s, 0x10)

/-- CANCEL (R444): it orders no memory. -/
def execCancel (f : RR) (s : State) : Host.Outcome State Fault Refusal :=
  asWarp s fun c k w => s.sysRun c k w f.g fun l =>
    let r := s.cancelUnit (s.ctxOf w) (s.sArg c k w l f.sa)
    match r.1.warp c k with
    | some _ => r.1.sysResult c k f [(f.dst.toNat, BitVec.ofNat 64 r.2)]
    | none => .jump r.1

/-! Termination by the host, and its end (R279, R280). -/

/-- TERMINATE (R279): reason HOST. -/
def execTerminate (s : State) : Host.Outcome State Fault Refusal := asEvent s fun a => s.terminate a.ctx 8

/-- Is the last step of a termination still to be taken? -/
def State.termDue (s : State) (ctx : Nat) : Bool := (s.ctx ctx).any fun x => x.terminating.isSome && !x.ended

/-- TERMINATION_COMPLETE (R280, step 6): its collectives before GO have been cancelled; TERM.DONE and its interrupt. -/
def execTerminationComplete (s : State) : Host.Outcome State Fault Refusal :=
  asEvent s fun a =>
    if s.termDue a.ctx then
      let s1 := (s.cancelColls a.ctx fun x => x.outcome.isNone).onCtx a.ctx fun x => { x with ended := true }
      let s2 := { s1 with
        termDone := BitVec.ofNat 64 a.ctx
        blocks := s1.blocks.filter fun (e : Nat × Block) => !(e.2.ctx == a.ctx && e.2.st == BlockSt.ended) }
      s2.interrupt (.termDone a.ctx)
    else s

/-! The host's PREEMPT and RESUME (R237, R479). -/

/-- A block the host pre-empts: a resident one stops, a suspended one waits for the host's RESUME. -/
def Block.preempted (b : Block) : Block :=
  match b.st with
  | .resident => { b with stopping := true, byHost := true }
  | .suspended => { b with byHost := true }
  | _ => b

/-- PREEMPT (R237). -/
def execPreempt (s : State) : Host.Outcome State Fault Refusal :=
  asEvent s fun a => { s with blocks := mapVals s.blocks fun (_ : Nat) (b : Block) => if b.ctx = a.ctx then b.preempted else b }

/-- RESUME (R479): the context's blocks that the host pre-empted are ready to resume. -/
def execResume (s : State) : Host.Outcome State Fault Refusal :=
  asEvent s fun a => { s with blocks := mapVals s.blocks fun (_ : Nat) (b : Block) => if b.ctx = a.ctx then { b with byHost := false } else b }

end Sys2Proof.Machine
end

