-- ==== Sys2Proof/Machine/Commands.lean ====
section
/-! DEFINITION. Device queues (R208-R212), the commands (R210, R211, R243), and launch parameter blocks with their checks (R212, R213, R215, R326). -/
namespace Sys2Proof.Machine
open Sys2Proof

/-! Queues and their next command. -/

/-- A device queue (R208). -/
def State.queue (s : State) (n : Nat) : Queue := s.queues.getD n {}
/-- Replace a device queue. -/
def State.setQueue (s : State) (n : Nat) (q : Queue) : State := { s with queues := s.queues.put n q }
/-- The die whose command processor serves a queue (R208). -/
def queueDie (n : Nat) : Nat := if n < 2048 then 0 else 1

/-- The command of a TYPE (R210). -/
def commandOf (ty : Nat) : Option Instr :=
  match ty with
  | 1 => some .launch
  | 2 => some .graph
  | 3 => some .copy
  | 4 => some .wait
  | 5 => some .signal
  | 6 => some .collCommand
  | 7 => some .cancelCommand
  | 8 => some .phaseEnd
  | _ => none

/-- The address of a queue's next command: in the array of the graph it runs, or in its ring (R208, R211). -/
def State.commandAt (s : State) (q : Queue) : Nat :=
  match q.graph.bind s.graphs.find with
  | some g => g.array.toNat + 64 * g.next
  | none => q.slotAt q.head

/-- Has a queue a command to look at? -/
def State.queueOpen (s : State) (n : Nat) : Bool :=
  let q := s.queue n
  q.st == QueueSt.running && s.ctxLives q.ctx && (q.graph.isSome || decide (q.head < q.tail))

/-- Is all the work begun before the next command complete, but for the graph it stands in (R211)? -/
def State.earlierDone (s : State) (q : Queue) : Bool :=
  q.running.all (fun w => s.workDone w || (match w with | .graph i => q.graph == some i | _ => false)) &&
  (match q.graph.bind s.graphs.find with | some g => g.running.all s.workDone | none => true)

/-- A command's fields from its 64 bytes (R210). -/
def cmdOf (n : Nat) (graph : Option Nat) (b : List Byte) : Cmd :=
  { q := n, graph := graph, flags := b.getD 1 0, rsv1 := BitVec.ofNat 48 (fieldAt b 2 6), a := BitVec.ofNat 64 (fieldAt b 0x08 8), b := BitVec.ofNat 64 (fieldAt b 0x10 8),
    c := BitVec.ofNat 64 (fieldAt b 0x18 8), rsv2 := BitVec.ofNat 256 (fieldAt b 0x20 32) }

/-- The next command of a queue that may be looked at; none for a record that cannot be read or has a reserved TYPE. -/
def State.nextCommand (s : State) (n : Nat) : Option (Instr × Cmd) :=
  let q := s.queue n
  if !s.queueOpen n then none
  else match s.tkRead q.ctx (s.commandAt q) 64 with
    | some b => (commandOf (b.getD 0 0).toNat).map fun i => (i, cmdOf n q.graph b)
    | none => none

/-! Consuming, starting and rejecting a command. -/

/-- The next command is consumed: a graph's command moves its array on, and with its last one the GRAPH itself has started (R208, R211). -/
def State.consume (s : State) (n : Nat) : State :=
  let q := s.queue n
  let kept := q.running.filter fun w => !s.workDone w
  match q.graph.bind s.graphs.find, q.graph with
  | some g, some i =>
    let s1 := { s with graphs := s.graphs.put i { g with next := g.next + 1 } }
    s1.setQueue n (if g.count ≤ g.next + 1 then { q with graph := none, head := q.head + 1, running := kept } else { q with running := kept })
  | _, _ => s.setQueue n { q with head := q.head + 1, running := kept }

/-- Work that a command has started counts among that of its graph, or of its queue. -/
def State.begun (s : State) (c : Cmd) (w : Work) : State :=
  match c.graph.bind s.graphs.find, c.graph with
  | some g, some i => { s with graphs := s.graphs.put i { g with running := g.running ++ [w] } }
  | _, _ =>
    let q := s.queue c.q
    s.setQueue c.q { q with running := q.running ++ [w] }

/-- A command is rejected (R212): LASTERR and its interrupt; the counter it names receives its count as if cancelled and the queue continues, else the queue stops. -/
def State.reject (s : State) (n code : Nat) (counter : Option Word64) : State :=
  let ctx := (s.queue n).ctx
  let noted := fun (t : State) (st : QueueSt) =>
    let t1 := t.consume n
    (t1.setQueue n { t1.queue n with lasterr := code, st := st }).interrupt (.lasterr n)
  match counter with
  | none => noted s QueueSt.stopped
  | some v =>
    if v.toNat % 8 ≠ 0 then noted s QueueSt.stopped
    else match s.counterAt ctx v with
      | .ok st => noted (s.countOne ctx st true) QueueSt.running
      | .wait t => t
      | .fatal _ => noted s QueueSt.stopped

/-- Why a command does not start: a replayable fault holds its queue, or it is rejected with a code. -/
inductive CmdStop where
  | hold (s : State)
  | bad (code : Nat)
  deriving DecidableEq, Repr

/-- An operand or structure in global memory of TIER 0, aligned (R212). -/
def State.operand (s : State) (ctx : Nat) (acc : Acc) (va : Word64) (n align : Nat) : Except CmdStop Store :=
  if va.toNat % align ≠ 0 then .error (.bad 0x02)
  else match s.tkRange ctx acc va.toNat n false with
    | .ok st => .ok st
    | .error x => .error (if s.replayable ctx x.cause then .hold (s.raiseTk ctx x) else .bad 0x02)

/-- A rule of the checks. -/
def must (b : Bool) (code : Nat) : Except CmdStop Unit := if b then .ok () else .error (.bad code)

/-- Reserved flags and fields, and operands a command does not use, are zero (R210, R212). -/
def plainCmd (c : Cmd) (usesB usesC : Bool) : Bool :=
  decide (c.flags.toNat < 2) && c.rsv1 == 0 && c.rsv2 == 0 && (usesB || c.b == 0) && (usesC || c.c == 0)

/-- The step of a command that stands next in its queue and may start (R211): what its checks and its start come to, and the counter it names. -/
def runCommand (s : State) (i : Instr) (counter : State → Nat → Cmd → Option Word64) (start : State → Nat → Cmd → Except CmdStop State) :
    Host.Outcome State Fault Refusal :=
  asEvent s fun a =>
    let c := a.cmd
    let q := s.queue c.q
    if s.nextCommand c.q ≠ some (i, c) then s
    else if c.flags.getLsbD 0 && !s.earlierDone q then s
    else match start s q.ctx c with
      | .ok t => t
      | .error (.hold t) => t
      | .error (.bad code) => s.reject c.q code (counter s q.ctx c)

/-- A queue's next record that cannot be read, or has a reserved TYPE: it names no counter (R212). -/
def State.badRecord (s : State) (n : Nat) : State :=
  let q := s.queue n
  if !s.queueOpen n then s
  else match s.operand q.ctx .read (BitVec.ofNat 64 (s.commandAt q)) 64 1 with
    | .error (.hold t) => t
    | .error (.bad code) => s.reject n code none
    | .ok _ => if (s.nextCommand n).isNone then s.reject n 0x01 none else s

/-! LAUNCH (R213-R215, R326). -/

/-- KOBJ (R213). -/
def Launch.kobj (l : Launch) : Nat := fieldAt l.fields 0x00 8
/-- PARAM (R213). -/
def Launch.param (l : Launch) : Word64 := BitVec.ofNat 64 (fieldAt l.fields 0x08 8)
/-- TAGS (R213). -/
def Launch.tags (l : Launch) : Nat := fieldAt l.fields 0x2E 1
/-- CSIZE (R213). -/
def Launch.csize (l : Launch) : Nat := fieldAt l.fields 0x30 1
/-- SEQTILES (R213). -/
def Launch.seqTiles (l : Launch) : Nat := fieldAt l.fields 0x31 1

/-- The grid's fields (R213). -/
def Launch.gridOk (l : Launch) : Bool :=
  (if l.kind = 0 then decide (1 ≤ l.blockCount) && decide (l.blockCount < 2 ^ 32) else l.grid 1 == 1 && l.grid 2 == 1) &&
  (l.kind != 1 || (decide (1 ≤ l.grid 0) && decide (l.grid 0 ≤ 16))) && (!l.isCluster || l.kind == 1 || l.blockCount % l.csize == 0)

/-- The fields of every kind (R213). -/
def Launch.fieldsOk (l : Launch) : Bool :=
  l.kobj % 64 == 0 && decide (l.kind ≤ 3) && decide (fieldAt l.fields 0x2D 1 < 8) && decide (l.tags ≤ 64) && decide (l.flags < 16) &&
  (if l.isCluster then decide (1 ≤ l.csize) && decide (l.csize ≤ 16) else l.csize == 0) && l.seqTiles % 8 == 0 && decide (l.seqTiles ≤ 128) &&
  fieldAt l.fields 0x32 6 == 0 && fieldAt l.fields 0xB4 4 == 0 && fieldAt l.fields 0xE2 2 == 0 && fieldAt l.fields 0xF0 16 == 0 && l.gridOk &&
  (l.trbase == 0 || (l.trbase % 16 == 0 && decide (64 ≤ l.trsize) && decide (l.trsize ≤ 65536) && (List.range 17).any fun i => l.trsize == 2 ^ i))

/-- The fields of KIND 1 (R213, R221). -/
def Launch.signOk (l : Launch) : Bool :=
  l.sigrec % 64 == 0 && l.sewmap % 64 == 0 && l.sigstg % 64 == 0 && (List.range 6).all (fun d => l.isize d != 0 && decide (fieldAt l.fields (0xD8 + d) 1 ≤ 15)) &&
  decide (l.cellCount ≤ 2 ^ 24)

/-- The queues of KIND 2 (R213, R232). -/
def Launch.tasksOk (l : Launch) : Bool :=
  let n := fieldAt l.fields 0xE0 2
  decide (1 ≤ n) && decide (n ≤ 512) && decide (fieldAt l.fields 0xDE 2 + n ≤ 512)

/-- The header keeps its table and agrees with the parameter block (R326). -/
def Launch.headerOk (l : Launch) : Bool :=
  let h := l.header
  let kib := (h.extractLsb' 11 9).toNat
  h.extractLsb' 48 16 == 0x6E77#16 && (h.extractLsb' 32 16 != 0) == hdrSeq h && h.extractLsb' 24 8 == 0 && (!h.getLsbD 23 || h.getLsbD 21) &&
  decide (kib ≤ 320) && kib % 64 == 0 && decide (1 ≤ hdrWarps h) && decide (hdrWarps h ≤ 32) && decide (1 ≤ hdrTiles h) && decide (hdrTiles h ≤ 8) &&
  h.getLsbD 22 == (l.kind == 2) && h.getLsbD 21 == (l.kind == 1) && hdrSeq h == (l.seqTiles != 0)

/-- Blocks of a launch that a core can hold at once when nothing else is on it (R216). -/
def Launch.perCore (l : Launch) : Nat :=
  let h := l.header
  let w := hdrWarps h
  if 128 < l.seqTiles + w * hdrTiles h then 0
  else if hdrSeq h then 1
  else
    let t := min 16 (min (48 / w) (128 / (w * hdrTiles h)))
    let u := if hdrShared h = 0 then t else min t (327680 / hdrShared h)
    if l.tags = 0 then u else min u (64 / l.tags)

/-- The cores of a mask. -/
def coresOf (m : BitVec 192) : List Nat := (List.range 192).filter m.getLsbD

/-- The cores on which a launch may be placed: those of its mask, and of die 0 alone for a gang while the bridge is down (R153, R215). -/
def State.placeCores (s : State) (l : Launch) : List Nat :=
  (coresOf (s.maskNow l)).filter fun c => !(l.kind == 3 && s.bridgeDown) || dieOf c == 0

/-- Is a launch placed in cluster groups (R214)?
DESIGN CHOICE (log entry 29): R14 and R215 do not say how a KIND 1 launch with CLUSTER is placed; its GRIDX blocks a core are placed ungrouped. -/
def Launch.grouped (l : Launch) : Bool := l.isCluster && (l.kind == 0 || l.kind == 2)

/-- Could the launch ever be placed (R153, R174, R212, R215)? -/
def State.everFits (s : State) (l : Launch) : Bool :=
  let cs := s.placeCores l
  decide (1 ≤ l.perCore) && !cs.isEmpty && !(l.isCluster && s.bridgeDown) &&
  (!l.grouped || (List.range 12).any fun x => !s.clret.getLsbD x && decide (l.csize ≤ (cs.filter fun c => clusterOf c == x).length)) &&
  (l.kind != 3 || decide (l.grid 0 ≤ cs.length * l.perCore))

/-- The structures of a launch of KIND 1 lie where their rules require, and its signature keeps R223. -/
def State.signPlaces (s : State) (l : Launch) : Except CmdStop Unit := do
  let at_ := fun (va n : Nat) => s.operand l.ctx .atomic (BitVec.ofNat 64 va) n 1
  let _ ← at_ l.sigrec 64
  let _ ← at_ l.sewmap ((l.cellCount + 31) / 32 * 8)
  let _ ← at_ l.sigstg 64
  must ((s.sigOf l).ok l) 0x03

/-- The launch a LAUNCH command describes, once it passes every check (R212, R213, R326). -/
def State.checkLaunch (s : State) (ctx : Nat) (c : Cmd) : Except CmdStop Launch := do
  must (plainCmd c false false) 0x01
  let _ ← s.operand ctx .atomic c.a 256 256
  let l : Launch := { ctx := ctx, queue := c.q, graph := c.graph, lpb := c.a, fields := (s.tkRead ctx c.a.toNat 256).getD [], header := 0, startedAt := s.clock }
  must (l.fieldsOk && (l.kind != 1 || l.signOk) && (l.kind != 2 || l.tasksOk)) 0x03
  let _ ← s.operand ctx .atomic l.counter 8 8
  (if l.kind = 1 then s.signPlaces l else .ok ())
  let _ ← if l.trbase = 0 then .ok (Store.mem []) else s.operand ctx .atomic (BitVec.ofNat 64 l.trbase) (16 * l.trsize) 16
  let k ← s.operand ctx .read (BitVec.ofNat 64 l.kobj) 8 64
  let _ ← match s.tkRange ctx .fetch l.kobj 8 false with
    | .error ⟨.execFault, _, _, _, _⟩ => .error (CmdStop.bad 0x03)
    | _ => s.operand ctx .fetch (BitVec.ofNat 64 l.kobj) 8 64
  let l1 := { l with header := BitVec.ofNat 64 (s.fieldIn ctx k 0 8) }
  must l1.headerOk 0x04
  must (s.everFits l1) 0x06
  .ok l1

/-- Every cell of a launch's map becomes 00 (R222). -/
def State.clearMap (s : State) (l : Launch) : State :=
  let n := l.cellCount
  let s1 := s.tkWrite l.ctx l.sewmap (List.replicate (n / 4) 0)
  ((List.range (n % 4)).map fun i => n / 4 * 4 + i).foldl (fun (s : State) i => s.setCell l i 0) s1

/-- The start of a launch (R213, R215, R222, R226). -/
def State.startLaunch (s : State) (c : Cmd) (l : Launch) : State :=
  let (id, s0) := s.newId
  let s1 := if l.kind = 1 ∧ !l.repair then s0.clearMap l else s0
  let s2 := if l.kind = 1 then s1.tkWrite l.ctx (l.lpb.toNat + 0xE4) (leBytes 4 1) else s1
  let want := if l.kind = 1 then (coresOf (s.maskNow l)).map fun x => (x, l.grid 0) else []
  ((s2.setLaunch id { l with generation := 1, want := want }).begun c (.launch id)).consume c.q

/-- The counter a LAUNCH names, when its parameter block can be read (R212). -/
def launchCounter (s : State) (ctx : Nat) (c : Cmd) : Option Word64 :=
  if c.a.toNat % 256 ≠ 0 then none
  else match s.tkRange ctx .read c.a.toNat 256 false with
    | .ok st => some (BitVec.ofNat 64 (s.fieldIn ctx st 0x10 8))
    | .error _ => none

/-- LAUNCH (R213). -/
def execLaunch (s : State) : Host.Outcome State Fault Refusal :=
  runCommand s .launch launchCounter fun s ctx c => do
    let l ← s.checkLaunch ctx c
    .ok (s.startLaunch c l)

/-! GRAPH and PHASE-END (R176, R178, R211). -/

/-- The open phase of a queue, begun where there is none. -/
def State.openPhase (s : State) (n : Nat) : Nat × State :=
  let q := s.queue n
  match q.phase with
  | some p => (p, s)
  | none =>
    let (id, s1) := s.newId
    let p : Phase := { ctx := q.ctx, queue := n }
    (id, { (s1.setQueue n { q with phase := some id }) with phases := s1.phases.put id p })

/-- GRAPH (R211): the queue goes on in its command array. -/
def execGraph (s : State) : Host.Outcome State Fault Refusal :=
  runCommand s .graph (fun _ _ c => some c.c) fun s ctx c => do
    must (plainCmd c true true && decide (1 ≤ c.b.toNat) && decide (c.b.toNat ≤ 65536)) 0x01
    must c.graph.isNone 0x05
    let _ ← s.operand ctx .read c.a 64 1
    let _ ← s.operand ctx .atomic c.c 8 8
    let (ph, s1) := s.openPhase c.q
    let (id, s2) := s1.newId
    let g : Graph := { ctx := ctx, queue := c.q, counter := c.c, phase := ph, array := c.a, count := c.b.toNat }
    let s3 := ({ s2 with graphs := s2.graphs.put id g }).begun c (.graph id)
    .ok (s3.setQueue c.q { s3.queue c.q with graph := some id })

/-- PHASE-END (R211): the phase is reached; its counter is counted once its graphs are complete. -/
def execPhaseEnd (s : State) : Host.Outcome State Fault Refusal :=
  runCommand s .phaseEnd (fun _ _ c => some c.a) fun s ctx c => do
    must (plainCmd c false false) 0x01
    let _ ← s.operand ctx .atomic c.a 8 8
    let (ph, s1) := s.openPhase c.q
    let p : Phase := { ctx := ctx, queue := c.q, counter := some c.a }
    let s2 := ({ s1 with phases := s1.phases.put ph p }).setQueue c.q { s1.queue c.q with phase := none }
    .ok ((s2.begun c (.phase ph)).consume c.q)

/-! COPY, WAIT, SIGNAL and CANCEL (R179, R210, R211). -/

/-- The nonzero counter at an offset of a command's structure, when it can be read (R212). -/
def fieldCounter (off : Nat) (s : State) (ctx : Nat) (c : Cmd) : Option Word64 :=
  if c.a.toNat % 64 ≠ 0 then none
  else match s.tkRange ctx .read c.a.toNat 64 false with
    | .ok st =>
      let v := s.fieldIn ctx st off 8
      if v = 0 then none else some (BitVec.ofNat 64 v)
    | .error _ => none

/-- COPY (R210): the layout record goes to an engine of the queue's die; a full one holds the queue. -/
def execCopy (s : State) : Host.Outcome State Fault Refusal :=
  runCommand s .copy (fieldCounter 0x38) fun s ctx c => do
    must (plainCmd c false false) 0x01
    let st ← s.operand ctx .read c.a 64 64
    let e := s.leastEngine (queueDie c.q)
    let (id, s1) := s.newId
    let r : StreamRec := { id := id, ctx := ctx, queue := some c.q, fields := (s.loadBytes (homeAgt ctx st) false st 64).1 }
    let _ ← match s.recordHeld r with | some t => .error (CmdStop.hold t) | none => .ok ()
    must (s.recordStatus r == 0) 0x02
    if 64 ≤ (s.engine e).length then .error (.hold s)
    else .ok (((s1.acceptRecord e r).begun c (.record id)).consume c.q)

/-- WAIT (R177, R211): it starts, and is complete, when the counter as an unsigned number is at least the value. -/
def execWait (s : State) : Host.Outcome State Fault Refusal :=
  runCommand s .wait (fun _ _ _ => none) fun s ctx c => do
    must (plainCmd c true false) 0x01
    let st ← s.operand ctx .read c.a 8 8
    if c.b.toNat ≤ s.fieldIn ctx st 0 8 then .ok (s.consume c.q) else .error (.hold s)

/-- SIGNAL (R210). -/
def execSignal (s : State) : Host.Outcome State Fault Refusal :=
  runCommand s .signal (fun _ _ c => some c.a) fun s ctx c => do
    must (plainCmd c true false) 0x01
    let st ← s.operand ctx .atomic c.a 8 8
    .ok ((s.setFieldIn ctx st 0 8 (s.fieldIn ctx st 0 8 + c.b.toNat)).consume c.q)

/-- CANCEL, the command (R179). -/
def execCancelCommand (s : State) : Host.Outcome State Fault Refusal :=
  runCommand s .cancelCommand (fun _ _ _ => none) fun s ctx c => do
    must (plainCmd c false false) 0x01
    let _ ← s.operand ctx .read c.a 8 8
    .ok ((s.consume c.q).cancelUnit ctx c.a).1

/-! COLL, the command (R243, R431). -/

/-- The agent that reads and writes for a COLL command of a queue. -/
def queueAgtCo (n ctx : Nat) : Agt := { path := .co, who := .tk (queueDie n + 2 * (n + 1)), ctx := ctx, die := queueDie n }
/-- The number under which a queue's reads are known to peers. -/
def queueWork (n : Nat) : Nat := 3000000000 + n

/-- Reach a structure in global memory of any tier for a COLL command (R243, R431). -/
def State.collPart (s : State) (n ctx : Nat) (acc : Acc) (va : Word64) (len : Nat) : Except CmdStop (List (Part × Store)) :=
  let g := queueAgtCo n ctx
  if va.toNat % len ≠ 0 then .error (.bad 0x02)
  else if s.waitsPage g then .error (.hold s)
  else match s.reachAll g acc [⟨1, va, len⟩] with
    | .ok sts => .ok sts
    | .wait t => .error (.hold t)
    | .fatal _ _ _ => .error (.bad 0x02)

/-- The counter a COLL command names: the descriptor's DONE (R212). -/
def collCounter (s : State) (ctx : Nat) (c : Cmd) : Option Word64 :=
  match s.collPart c.q ctx .read c.a 64 with
  | .ok sts => match s.pull (queueAgtCo c.q ctx) (queueWork c.q) false sts with
    | .bytes b =>
      let v := fieldAt (b.map Prod.fst) 0x28 8
      if v = 0 then none else some (BitVec.ofNat 64 v)
    | _ => none
  | .error _ => none

/-- COLL, the command (R243): started when the collective is issued, complete when that is complete (R178, R212). -/
def execCollCommand (s : State) : Host.Outcome State Fault Refusal :=
  runCommand s .collCommand collCounter fun s ctx c => do
    let g := queueAgtCo c.q ctx
    must (plainCmd c false false) 0x01
    let sts ← s.collPart c.q ctx .read c.a 64
    let b ← match s.pull g (queueWork c.q) false sts with
      | .bytes b => .ok (b.map Prod.fst)
      | .wait t => .error (CmdStop.hold t)
      | .fatal _ _ => .error (CmdStop.bad 0x02)
    let res ← s.collPart c.q ctx .write (BitVec.ofNat 64 (fieldAt b 0x30 8)) 16
    let (id, s1) := ((s.partsRead g false sts).pxDrop (queueWork c.q)).newId
    match s1.issueColl ctx (queueDie c.q) none (some id) b (fun t bs => t.deposit g res (bs.map fun x => (x, none))) with
    | .made t => .ok (((t.begun c (.coll id)).consume c.q).clearFails g.who)
    | .again t => .error (.hold t)

end Sys2Proof.Machine
end

