-- ==== Sys2Proof/Machine/Blocks.lean ====
section
/-! DEFINITION. Blocks: placement (R180, R213-R217, R327), the end of a block (R59, R181), pre-emption, suspension, eviction and resumption (R187, R236-R239, R479). -/
namespace Sys2Proof.Machine
open Sys2Proof

/-! What a core has left (R216). -/

/-- The blocks of a core that stand in the state, with their numbers. -/
def State.coreBlocks (s : State) (c : Nat) : List (Nat × Block) := s.blocks.filter fun e => e.2.core == c

/-- Does a block hold its warp slots? -/
def Block.holdsSlots (b : Block) : Bool := (b.st == BlockSt.resident || b.st == BlockSt.draining) && b.saved.isNone

/-- The warp slots of a core that are in use. -/
def State.usedSlots (s : State) (c : Nat) : List Nat := (s.coreBlocks c).flatMap fun e => if e.2.holdsSlots then e.2.slots else []

/-- The free warp slots of a core. -/
def State.freeSlots (s : State) (c : Nat) : List Nat :=
  let used := s.usedSlots c
  (List.range 48).filter fun k => !used.contains k

/-- The quadrant with the most free slots, the lowest on a tie. -/
def bestQuadrant (free : List Nat) : Nat :=
  let n := fun (q : Nat) => (free.filter fun k => k / 12 == q).length
  [1, 2, 3].foldl (fun (b : Nat) q => if n b < n q then q else b) 0

/-- The slots of a block's warps in their order (R216). -/
def pickSlots : Nat → List Nat → List Nat
  | 0, _ => []
  | n + 1, free =>
    let q := bestQuadrant free
    match free.find? fun k => k / 12 == q with
    | some k => k :: pickSlots n (free.erase k)
    | none => []

/-- Is a tile FREE, or would eviction free it (R238)? -/
def Tile.open_ (t : Tile) (evict : Bool) : Bool := t.st == .free || (evict && (t.st == .suspended || t.st == .retained || t.kept))

/-- The tiles for a block's warps in the order they are granted: not in banks of sequencer tiles, banks not GATED first (R216), those to be evicted last. -/
def State.openTiles (s : State) (c own : Nat) (evict : Bool) : List Nat :=
  let held := (s.coreBlocks c).foldl (fun (n : Nat) e => if e.2.st = .ended ∨ (evict ∧ e.2.saved.isSome) then n else max n e.2.seqBanks) 0
  let fit := (List.range 128).filter fun t => (s.tile c t).open_ evict && decide (8 * held ≤ t) && decide (own ≤ t)
  let free := fun (t : Nat) => (s.tile c t).st == .free
  let gated := fun (t : Nat) => (s.bank c (t / 8)).st == BankState.gated
  fit.filter (fun t => free t && !gated t) ++ fit.filter (fun t => free t && gated t) ++ fit.filter fun t => !free t

/-- The first tag of a free run of a length (R63). -/
def State.tagRun_ (s : State) (c n : Nat) : Option Nat :=
  let runs := (s.coreBlocks c).filterMap fun e => if e.2.st = .ended ∨ e.2.tagCount = 0 then none else some (e.2.tagBase, e.2.tagCount)
  if n = 0 then some 0
  else (List.range (65 - n)).find? fun b => runs.all fun r => decide (b + n ≤ r.1) || decide (r.1 + r.2 ≤ b)

/-- Where shared bytes of a size go (R55, R59): the least place beside the sizes still allocated; none beyond 320 KiB in all. -/
def State.sharedRun (s : State) (c n : Nat) : Option Nat :=
  let runs := (s.coreBlocks c).filterMap fun e => if e.2.shSize = 0 then none else some (e.2.shBase, e.2.shSize)
  if 327680 < (runs.map Prod.snd).foldl (· + ·) n then none
  else if n = 0 then some 0
  else (sortBy (fun (a b : Nat) => decide (a ≤ b)) (0 :: runs.map fun r => r.1 + r.2)).find? fun b => runs.all fun r => decide (b + n ≤ r.1) || decide (r.1 + r.2 ≤ b)

/-- What a core would give a block: its slots, the tiles of its warps, its tags and shared bytes. -/
structure Fit where
  core : Nat
  slots : List Nat
  tiles : List Nat
  tagBase : Nat
  shBase : Nat
  deriving DecidableEq, Repr

/-- Blocks that stand on a core: resident, or draining in their slots (R176, R216). -/
def State.residents (s : State) (c : Nat) : Nat := ((s.coreBlocks c).filter fun e => e.2.holdsSlots).length

/-- Does a core fit a block of a launch (R216)? With `evict`, as it would after evictions (R238). -/
def State.fitOn (s : State) (l : Launch) (evict : Bool) (c : Nat) : Option Fit :=
  let h := l.header
  let w := hdrWarps h
  let need := w * hdrTiles h
  let free := s.freeSlots c
  let tiles := (s.openTiles c l.seqTiles evict).take need
  let seqOk := !hdrSeq h || ((s.seq c).isNone && (List.range l.seqTiles).all fun t => (s.tile c t).open_ evict)
  let resident := s.residents c
  if decide (w ≤ free.length) && tiles.length == need && seqOk && decide (resident < 16) then
    match s.tagRun_ c l.tags, s.sharedRun c (hdrShared h) with
    | some t, some b => some ⟨c, pickSlots w free, tiles, t, b⟩
    | _, _ => none
  else none

/-- The core that fits with the fewest resident warps, then the lowest number (R216). -/
def State.chooseFit (s : State) (l : Launch) (evict : Bool) (cs : List Nat) : Option Fit :=
  (cs.filterMap fun c => (s.fitOn l evict c).map fun f => ((s.usedSlots c).length, f)).foldl (fun (b : Option (Nat × Fit)) x => match b with
    | none => some x
    | some y => if x.1 < y.1 then some x else some y) none |>.map Prod.snd

/-! Granting (R52-R56, R63, R180, R327). -/

/-- The tiles a block of a launch is granted. -/
def Fit.all (f : Fit) (l : Launch) : List Nat := List.range l.seqTiles ++ f.tiles

/-- Banks whose grant waits: GATED ones (R53), and, for sequencer tiles, those not ON. -/
def State.grantWaits (s : State) (l : Launch) (f : Fit) : List Nat :=
  ((f.all l).map (· / 8)).eraseDups.filter fun b =>
    (s.bank f.core b).st == BankState.gated || (decide (8 * b < l.seqTiles) && (s.bank f.core b).st != BankState.on)

/-- Begin the return of a bank to ON (R53). -/
def State.wakeBank (s : State) (c b : Nat) : State :=
  let x := s.bank c b
  if x.backAt.isSome then s
  else match x.st with
    | .on => s
    | .retention => s.setBank c b { x with backAt := some (s.clock + 24) }
    | .gated => s.setBank c b { x with backAt := some (s.clock + 64) }

/-- Grant tiles to a holder (R52, R185); a bank in RETENTION begins its return (R53). -/
def State.grantTiles (s : State) (c ctx hold : Nat) (ts : List Nat) : State :=
  ts.foldl (fun (s : State) t => (s.setTile c t ((s.tile c t).grant ctx hold)).wakeBank c (t / 8)) s

/-- Shared storage for a block: zero where another context used it last (R56). -/
def State.grantShared (s : State) (c ctx base size : Nat) : State :=
  ((List.range (size / 65536)).map fun i => base / 65536 + i).foldl (fun (s : State) u =>
    let k := s.core c
    if k.sharedCtx.find u = some ctx then s
    else s.setCore c { k with
      sharedCtx := k.sharedCtx.put u ctx
      shared := k.shared.filter fun (e : Nat × Byte) => e.1 / 65536 != u
      shPoison := k.shPoison.filter fun (e : Nat × Nat) => e.1 / 1024 != u }) s

/-- The first three registers of a warp or sequencer (R327). -/
def startRegs (l : Launch) (n : Nat) : Assoc Word64 := [(0, l.param), (1, BitVec.ofNat 64 n), (2, l.lpb)]

/-- The address of the first bundle (R326). -/
def Launch.seqStart (l : Launch) : Word64 := BitVec.ofNat 64 (l.kobj + 64 * (l.header.extractLsb' 32 16).toNat)

/-- A warp as its block starts (R44, R327). -/
def startWarp (l : Launch) (bid n i clock : Nat) (ts : List Nat) : Warp :=
  { block := bid, idx := i, pc := BitVec.ofNat 64 (l.kobj + 8), sregs := startRegs l n, tmap := ts ++ List.replicate (8 - ts.length) 0xFF, readyAge := clock }

/-- Clear the ready bits of a run of tags (R63). -/
def State.clearTags (s : State) (c base n : Nat) : State :=
  (List.range n).foldl (fun (s : State) i => s.setTag c (base + i) {}) s

/-- The block record of a placed block. -/
def State.newBlock (s : State) (li : Nat) (l : Launch) (f : Fit) (n : Nat) : Block :=
  { core := f.core, ctx := l.ctx, launch := li, number := n, header := l.header, kobj := BitVec.ofNat 64 l.kobj, lpb := l.lpb, param := l.param, slots := f.slots,
    hasSeq := hdrSeq l.header, seqTiles := List.range l.seqTiles, shBase := f.shBase, shSize := hdrShared l.header, tagBase := f.tagBase, tagCount := l.tags,
    wdog := ((s.ctx l.ctx).map fun (x : Ctx) => x.wdogDef).getD 0 }

/-- Place block n of a launch where it fits (R180, R327); it begins with an acquire at PACKAGE scope (R120). -/
def State.placeBlock (s : State) (li : Nat) (l : Launch) (f : Fit) (n : Nat) : State :=
  let (bid, s0) := s.newId
  let c := f.core
  let t := hdrTiles l.header
  let s1 := ((s0.setBlock bid (s0.newBlock li l f n)).l1Trim c).grantShared c l.ctx f.shBase (hdrShared l.header)
  let s2 := ((s1.clearTags c f.tagBase l.tags).l1Drop c l.ctx).grantTiles c l.ctx 48 (List.range l.seqTiles)
  let s3 := f.slots.zipIdx.foldl (fun (s : State) x =>
    let ts := (f.tiles.drop (t * x.2)).take t
    (s.grantTiles c l.ctx x.1 ts).setWarp c x.1 (startWarp l bid n x.2 s.clock ts)) s2
  let s4 := if hdrSeq l.header then s3.setSeq c { block := bid, pc := l.seqStart, xs := startRegs l n } else s3
  match s4.launches.find li with
  | some x => s4.setLaunch li { x with placed := x.placed + 1, want := if x.kind = 1 then x.want.put c (x.want.getD c 0 - 1) else x.want }
  | none => s4

/-! Eviction (R238). -/

/-- The suspended blocks of a core that keep tiles there. -/
def State.keepers (s : State) (c : Nat) : List (Nat × Block) :=
  (s.coreBlocks c).filter fun e => match e.2.saved with | some v => !v.tiles.isEmpty | none => false

/-- Evict a tile of a suspended block: its contents and owner field go to the save area, its number is FREE (R185, R238). -/
def State.evictTile (s : State) (bid t : Nat) : State :=
  match s.block bid with
  | none => s
  | some b => match b.saved with
    | none => s
    | some v =>
      let x := s.tile b.core t
      let s1 := s.setBlock bid { b with saved := some { v with tiles := v.tiles.erase t, evicted := v.evicted ++ [(t, x)] } }
      (s1.setTile b.core t (x.freed b.ctx)).wakeBank b.core (t / 8)

/-- Evict a context's suspended tiles of a bank. -/
def State.evictBank (s : State) (c ctx bank : Nat) : State :=
  (s.keepers c).foldl (fun (s : State) e => match e.2.saved with
    | some v => if e.2.ctx = ctx then (v.tiles.filter fun t => t / 8 == bank).foldl (fun (s : State) t => s.evictTile e.1 t) s else s
    | none => s) s

/-- The context of a core's blocks that was suspended earliest, and the bank to evict: most SUSPENDED or RETAINED tiles of it, the lowest on a tie, banks with a GIVEN tile of a suspended context last. -/
def State.evictChoice (s : State) (c : Nat) : Option (Nat × Nat) :=
  let ks := s.keepers c
  match sortBy (fun (a b : Nat × Block) => decide (a.2.suspendedAt ≤ b.2.suspendedAt)) ks with
  | [] => none
  | e :: _ =>
    let ctx := e.2.ctx
    let mine := ks.flatMap fun x => if x.2.ctx = ctx then (match x.2.saved with | some v => v.tiles | none => []) else []
    let given := fun (b : Nat) => (List.range 8).any fun i => (s.tile c (8 * b + i)).kept
    let count := fun (b : Nat) => (mine.filter fun t => t / 8 == b && !(s.tile c t).kept).length
    let banks := (List.range 16).filter fun b => mine.any fun t => t / 8 == b
    let best := fun (bs : List Nat) => bs.foldl (fun (m : Option Nat) b => match m with
      | none => some b
      | some a => if count a < count b then some b else some a) none
    let first := banks.filter fun b => !given b
    (best (if first.isEmpty then banks else first)).map fun b => (ctx, b)

/-! Placement (R214-R217). -/

/-- The launch's rank among those that wait: DCLASS first, then priority, then a block ready to resume before one to place, then the earlier start (R217, R479). -/
structure Rank where
  dclass : Bool
  prio : Nat
  pending : Bool
  since : Nat
  id : Nat
  deriving DecidableEq, Repr

/-- One rank comes no later than another. -/
def Rank.le (a b : Rank) : Bool :=
  if a.dclass != b.dclass then a.dclass
  else if a.prio ≠ b.prio then decide (b.prio < a.prio)
  else if a.pending != b.pending then !a.pending
  else if a.since ≠ b.since then decide (a.since < b.since)
  else decide (a.id ≤ b.id)

/-- DCLASS of a launch: its own flag or its queue's (R217, R236). -/
def State.isDclass (s : State) (l : Launch) : Bool := l.dclass || (s.queue l.queue).cls / 8 % 2 == 1

/-- The rank of a launch with blocks to place. -/
def State.launchRank (s : State) (i : Nat) (l : Launch) : Rank := ⟨s.isDclass l, l.prio, true, l.startedAt, i⟩

/-- Has every processor that places for a launch stopped (R214)? -/
def Launch.allStopped (l : Launch) : Bool := l.stopped.contains 0 && (l.byDie0 || l.stopped.contains 1)

/-- Has a launch a processor that places for it, in a context that lives? With its last ticket claimed, a processor goes on until it has claimed one beyond (R214). -/
def State.placing (s : State) (l : Launch) : Bool :=
  !l.complete && !l.cancelled && s.ctxLives l.ctx && (if l.kind = 1 then !s.allPlaced l && (s.tkRead l.ctx l.sigrec 64).isSome else !l.allStopped)

/-- Has a launch blocks to place (R217, R237)? -/
def State.pending (s : State) (l : Launch) : Bool := s.placing l && !s.allPlaced l

/-- The cores from which a die's processor chooses for one block (R153, R214, R215). -/
def State.cores_ (s : State) (l : Launch) (die : Nat) : List Nat :=
  if l.stopped.contains die then []
  else if l.kind = 1 then ((s.wanting l).map Prod.fst).filter fun c => dieOf c == die
  else (s.placeCores l).filter fun c => l.kind == 3 || dieOf c == die

/-- A cluster's cores for a group: of the mask, holding no block of the launch, fitting, the least loaded first; then in ascending order (R14, R59, R214, R216). -/
def State.groupOn (s : State) (li : Nat) (l : Launch) (evict : Bool) (x : Nat) : Option (List Fit) :=
  let cs := (s.placeCores l).filter fun c => clusterOf c == x && !((s.coreBlocks c).any fun e => e.2.launch == li)
  let fits := cs.filterMap fun c => (s.fitOn l evict c).map fun f => ((s.usedSlots c).length, f)
  if l.csize ≤ fits.length then
    let least := (sortBy (fun (a b : Nat × Fit) => decide (a.1 < b.1) || (a.1 == b.1 && decide (a.2.core ≤ b.2.core))) fits).take l.csize
    some (sortBy (fun (a b : Fit) => decide (clusterCore a.core ≤ clusterCore b.core)) (least.map Prod.snd))
  else none

/-- The cluster group to place: on the lowest cluster in service that has room (R174, R214). -/
def State.groupFit (s : State) (li : Nat) (l : Launch) (evict : Bool) : Option (List Fit) :=
  if s.bridgeDown then none
  else ((List.range 12).filter fun x => !s.clret.getLsbD x).findSome? fun x => s.groupOn li l evict x

/-- Cores for every block of a ring block set, one after the other (R215). -/
def State.gangFit (s : State) (li : Nat) (l : Launch) (evict : Bool) (cs : List Nat) : Nat → List Fit → Option (List Fit)
  | 0, fs => some fs
  | n + 1, fs => match s.chooseFit l evict cs with
    | some f => State.gangFit (s.placeBlock li l f 0) li l evict cs n (fs ++ [f])
    | none => none

/-- The cores a die's processor reserves for its next placement of a launch: one block, a cluster group, or a gang; nothing is evicted once every block is placed. -/
def State.reserve_ (s : State) (li : Nat) (l : Launch) (die : Nat) (evictable : Bool) : Option (List Fit) :=
  let evict := evictable && !s.allPlaced l
  if !s.placing l || (l.byDie0 && l.kind != 1 && die != 0) then none
  else if l.kind = 3 then s.gangFit li l evict (s.cores_ l 0) (l.grid 0) []
  else if l.grouped then (if l.stopped.contains 0 then none else s.groupFit li l evict)
  else (s.chooseFit l evict (s.cores_ l die)).map fun f => [f]

/-- What claiming tickets comes to. -/
inductive Tickets where
  | got (s : State) (n : Nat)
  | wait (s : State)
  | dead (s : State)
  deriving DecidableEq, Repr

/-- Is what an atomic of a die's command processor reads poisoned, or beyond a bridge that is down (R153, R155)? -/
def State.lostTo (s : State) (ctx die : Nat) (st : Store) (n : Nat) : Bool := (s.loadBytes (tkAgt ctx die) false st n).2.isSome

/-- Claim tickets with one atomic add at the parameter block's home (R214); a replayable fault waits, a fatal one ends the context; a poisoned result is no ticket. -/
def State.claimTickets (s : State) (l : Launch) (die n : Nat) : Tickets :=
  match s.operand l.ctx .atomic (BitVec.ofNat 64 (l.lpb.toNat + 0x18)) 8 8 with
  | .ok st =>
    let t := s.fieldIn l.ctx st 0 8
    if s.lostTo l.ctx die st 8 then .wait s
    else .got (s.setFieldIn l.ctx st 0 8 (t + n)) t
  | .error (.hold t) => .wait t
  | .error (.bad _) => .dead (s.terminate l.ctx 7)

/-- A processor stops placing for a launch (R214). -/
def State.stopPlacing (s : State) (li die : Nat) : State :=
  match s.launches.find li with
  | some l => s.setLaunch li { l with stopped := l.stopped ++ [die] }
  | none => s

/-- Place what is reserved: its banks ON, its tickets claimed; tickets at or beyond the block count stop the processor (R53, R214, R215). -/
def State.placeReserved (s : State) (li : Nat) (l : Launch) (die : Nat) (fs : List Fit) : State :=
  let waits := fs.flatMap fun f => (s.grantWaits l f).map fun b => (f.core, b)
  if !waits.isEmpty then waits.foldl (fun (s : State) x => s.wakeBank x.1 x.2) s
  else match s.claimTickets l die fs.length with
    | .wait t => t
    | .dead t => t
    | .got t n =>
      if l.kind ≠ 1 ∧ l.blockCount < n + fs.length then t.stopPlacing li die
      else
        let t1 := fs.zipIdx.foldl (fun (s : State) x => s.placeBlock li l x.1 (n + x.2)) t
        if l.kind = 3 then t1.stopPlacing li die else t1

/-- A processor's placement for a launch: it reserves, or evicts one bank at a time until it can (R214, R238). -/
def State.placeFor (s : State) (li : Nat) (l : Launch) (die : Nat) : Nat → State
  | 0 => s
  | n + 1 => match s.reserve_ li l die false with
    | some fs => s.placeReserved li l die fs
    | none => match s.reserve_ li l die true with
      | none => s
      | some fs => match fs.find? fun f => (f.all l).any fun t => (s.tile f.core t).st != .free with
        | none => s
        | some f => match s.evictChoice f.core with
          | some x => State.placeFor (s.evictBank f.core x.1 x.2) li l die n
          | none => s

/-- Could some processor place for a launch now, perhaps after evictions? -/
def State.canPlace (s : State) (i : Nat) (l : Launch) : Bool := [0, 1].any fun d => (s.reserve_ i l d true).isSome

/-- Would a ticket be claimed at once (R36, R214)? -/
def State.ticketOpen (s : State) (l : Launch) (die : Nat) : Bool :=
  match s.operand l.ctx .atomic (BitVec.ofNat 64 (l.lpb.toNat + 0x18)) 8 8 with
  | .ok st => !s.lostTo l.ctx die st 8
  | .error _ => false

/-- Could a launch have a block placed on a die now? -/
def State.fitsDie (s : State) (i : Nat) (l : Launch) (die : Nat) : Bool :=
  [0, 1].any fun d => s.ticketOpen l d && match s.reserve_ i l d true with
    | some fs => fs.any fun f => dieOf f.core == die
    | none => false

/-! The end of a block (R181). -/

/-- The warps of a block that stand in its slots, those a regroup set aside among them. -/
def State.ownWarps (s : State) (bid : Nat) (b : Block) : List (Nat × Warp) :=
  b.slots.filterMap fun k => match s.home b.core k with
    | some w => if w.block = bid then some (k, w) else none
    | none => none

/-- The sequencer of a block, if it stands in its core. -/
def State.ownSeq (s : State) (bid : Nat) (b : Block) : Option Seq := (s.seq b.core).filter fun q => q.block == bid

/-- Is every warp of a block EXITED or HALTED and its sequencer halted or absent, with no fault to deliver (R181, R272)? -/
def State.blockOver (s : State) (bid : Nat) (b : Block) : Bool :=
  (s.ownWarps bid b).all (fun x => x.2.st == .exited || x.2.st == .halted) && b.regroups.isEmpty &&
  (match s.ownSeq bid b with | some q => (q.st == .shalted || q.st == .halted) && q.fault.isNone | none => true)

/-- Requests of a block's agents that are outstanding at peers. -/
def State.blockPeers (s : State) (b : Block) : Bool :=
  s.peerReqs.any fun r => r.core == b.core && (b.slots.contains r.slot || (b.hasSeq && r.slot == 48) || b.slots.any fun k => r.data == warpWork b.core k && decide (48 ≤ r.slot))

/-- Has everything a block issued completed: copies, stream records, results and transfers in flight (R178, R181)? -/
def State.blockQuiet (s : State) (bid : Nat) (b : Block) : Bool :=
  !((s.core b.core).copies.any fun x => x.block == bid) && !(s.engines.any fun e => e.2.any fun r => r.block == some bid) &&
  (b.saved.isSome ||
    ((s.ownWarps bid b).all (fun x => x.2.flights.isEmpty && (match x.2.task with | some t => t.phase == .held | none => true)) && !s.blockPeers b &&
     (match s.ownSeq bid b with
      | some q => q.pend.isEmpty && q.c0.isEmpty && q.c1.isEmpty && q.mloop.isNone && q.claims.isEmpty
      | none => true)))

/-- Stream records that target a handle of a block that is gone: the rest is discarded, their counters counted as cancelled (R275). -/
def State.dropTargets (s : State) (bid : Nat) : State :=
  let doomed := s.engines.flatMap fun e => e.2.filter fun r => r.owner == some bid
  let s1 := { s with engines := mapVals s.engines fun (_ : Nat) (l : List StreamRec) => l.filter fun r => r.owner != some bid }
  doomed.foldl (fun (s : State) r => if r.done = 0 then s else s.bumpCounter r.ctx r.done true) s1

/-- Forget the ended blocks that keep nothing: those of a cluster launch stay until the last on their cluster ends (R59). -/
def State.sweepBlocks (s : State) (li cluster : Nat) : State :=
  let cl := match s.launches.find li with | some l => l.isCluster | none => false
  let mine := fun (b : Block) => b.launch == li && (!cl || clusterOf b.core == cluster)
  if cl && s.blocks.any fun e => mine e.2 && e.2.st != BlockSt.ended then s
  else { s with blocks := s.blocks.filter fun (e : Nat × Block) => !(mine e.2 && e.2.st == BlockSt.ended) }

/-- The agents of a block leave their core. -/
def State.dropAgents (s : State) (bid : Nat) (b : Block) : State :=
  let s1 := s.forgetAgents b
  let s2 := { s1 with
    warps := s1.warps.filter fun (e : Nat × Warp) => e.2.block != bid
    xlfail := s1.xlfail }
  match s2.ownSeq bid b with
  | some _ => s2.setCore b.core { s2.core b.core with seq := none }
  | none => s2

/-- What a block's warps, sequencer and copies have written is performed for every agent of the package (R120). -/
def State.showBlock (s : State) (b : Block) : State :=
  let g : Agt := { path := .ls, who := .warp b.core 0, ctx := b.ctx, core := some b.core, die := dieOf b.core }
  (s.showAll g).showAll { g with path := .cp }

/-- A block ends: leaves a cancelled launch's block still holds are abandoned, its accesses are performed, its tiles, slots, tags, barriers and shared bytes are released (R59, R120, R179, R181, R185). -/
def State.endBlock (s : State) (bid : Nat) (b : Block) : State :=
  let s0 := if (s.launches.find b.launch).any (fun l => l.cancelled) then s.dropLeaves bid else s
  let s1 := (((s0.showBlock b).freeBlockTiles b).dropAgents bid b).dropTargets bid
  let s2 := { s1 with taskRun := s1.taskRun.filter fun (r : TaskRun) => r.block != bid }
  let s3 := s2.setBlock bid { b with st := .ended, saved := none, wdogStart := none, regroupTimers := [] }
  let s4 := match s3.launches.find b.launch with
    | some l => s3.setLaunch b.launch { l with ended := l.ended + 1 }
    | none => s3
  s4.sweepBlocks b.launch (clusterOf b.core)

/-- Does BLOCK_END concern a block now? -/
def State.endDue (s : State) (bid : Nat) (b : Block) : Bool :=
  match b.st with
  | .resident => s.blockOver bid b
  | .draining => s.blockQuiet bid b
  | _ => false

/-- BLOCK_END (R181): a block whose agents are done drains, and ends when what it issued has completed. -/
def execBlockEnd (s : State) : Host.Outcome State Fault Refusal :=
  asEvent s fun a => match s.block a.id with
    | none => s
    | some b =>
      if !s.endDue a.id b then s
      else
        let b1 := { b with st := BlockSt.draining }
        if s.blockQuiet a.id b1 then (s.setBlock a.id b1).endBlock a.id b1 else s.setBlock a.id b1

/-! Suspension (R237). -/

/-- Has a warp stopped with its results landed (R187, R237, R418)? -/
def Warp.settled (w : Warp) : Bool :=
  w.flights.isEmpty && w.wait != some .peer && (match w.wait with | some (.collx _ _ _ _) => false | _ => true) &&
  (match w.task with | some t => t.phase == .held | none => true)

/-- Has a sequencer stopped with its results landed; the writes of the scale latches are saved (R202, R237)? -/
def Seq.settled (q : Seq) : Bool :=
  q.c0.isEmpty && q.c1.isEmpty && q.claims.isEmpty && q.pend.all (fun p => p.writes.all fun w => match w with | .latch _ _ _ => true | _ => false) &&
  (match q.mloop with | some l => l.next % 8 == 0 | none => true)

/-- Has a block stopped, its tiles filled and its sequencer's fills done (R187, R237)? -/
def State.blockSettled (s : State) (bid : Nat) (b : Block) : Bool :=
  b.regroups.isEmpty && (s.ownWarps bid b).all (fun x => x.2.settled) && !s.blockPeers b &&
  (match s.ownSeq bid b with | some q => q.settled | none => true) &&
  !((s.core b.core).copies.any fun x => x.block == bid && (match x.work with | .load _ _ _ _ => true | _ => false)) &&
  !(s.engines.any fun e => e.2.any fun r => r.owner == some bid && r.toHandle && !r.claimed.isEmpty) &&
  (s.blockTiles b).all fun t => (s.tile b.core t).giving.isNone && (s.tile b.core t).st != .filling

/-- The state in which a suspended warp resumes: its instruction issues again (R41, R239, R418). -/
def Warp.resumeSt (w : Warp) : WarpSt := match w.st with | .trap => .trap | .exited => .exited | .halted => .halted | _ => .ready

/-- A sequencer as it is saved: a wait for a page or a tile is begun again. -/
def Seq.stopped (q : Seq) : Seq := { q with st := (match q.st with | .xlate _ => .running | x => x), taking := false }

/-- A tile of a suspended block (R185, R187). -/
def Tile.suspend (t : Tile) : Tile := match t.st with | .owned => { t with st := .suspended } | .given => { t with kept := true } | _ => t

/-- The block is suspended: its agents' state is saved, cached leaves are open again, its tiles are SUSPENDED, its slots and sequencer free (R187, R237). -/
def State.suspendBlock (s : State) (bid : Nat) (b : Block) : State :=
  let tiles := s.blockTiles b
  let v : Saved := { warps := (s.ownWarps bid b).map fun x => (x.1, x.2.resumeSt, { x.2 with st := WarpSt.suspended, wait := none }), seq := (s.ownSeq bid b).map Seq.stopped, tiles := tiles }
  let s1 := s.dropChunk bid
  let s2 := s1.dropAgents bid b
  let s3 := tiles.foldl (fun (s : State) t => s.setTile b.core t (s.tile b.core t).suspend) s2
  match s3.block bid with
  | some x => s3.setBlock bid { x with st := .suspended, stopping := false, saved := some v, suspendedAt := s.clock }
  | none => s3

/-- A block of a cancelled launch drains once it has stopped: its leaves are abandoned (R179). -/
def State.drainBlock (s : State) (bid : Nat) (b : Block) : State :=
  let s1 := (s.dropLeaves bid).dropAgents bid b
  match s1.block bid with
  | some x => s1.setBlock bid { x with st := .draining, stopping := false, wdogStart := none }
  | none => s1

/-- Does BLOCK_SUSPENSION concern a block now? -/
def State.suspendDue (s : State) (bid : Nat) (b : Block) : Bool :=
  b.st == BlockSt.resident && b.stopping && (!b.regroups.isEmpty || s.blockSettled bid b)

/-- BLOCK_SUSPENSION (R237): regroups dissolve (R197); once all has landed the block is suspended, or drains when its launch is cancelled. -/
def execBlockSuspension (s : State) : Host.Outcome State Fault Refusal :=
  asEvent s fun a => match s.block a.id with
    | none => s
    | some b =>
      if !s.suspendDue a.id b then s
      else if !b.regroups.isEmpty then s.dissolve a.id
      else if b.cancelled then s.drainBlock a.id b
      else s.suspendBlock a.id b

/-! Resumption (R54, R238, R239, R479). -/

/-- The blocks that resume together with a block: itself, or every block of its ring block set that has not ended (R215). -/
def State.resumeSet (s : State) (bid : Nat) (b : Block) : List (Nat × Block) :=
  match s.launches.find b.launch with
  | some l => if l.kind = 3 then s.blocks.filter fun e => e.2.launch == b.launch && (e.2.st == BlockSt.suspended || e.2.st == BlockSt.resident) else [(bid, b)]
  | none => [(bid, b)]

/-- Is a suspended block ready to resume (R479)? -/
def State.resumeReady (s : State) (b : Block) : Bool := b.st == BlockSt.suspended && !b.byHost && !b.cancelled && s.ctxLives b.ctx

/-- The rank of a block that is ready to resume. -/
def State.resumeRank (s : State) (bid : Nat) (b : Block) : Rank :=
  match s.launches.find b.launch with
  | some l => ⟨s.isDclass l, l.prio, false, b.suspendedAt, bid⟩
  | none => ⟨false, 0, false, b.suspendedAt, bid⟩

/-- Are the slots of a block free, the sequencer when it has one, its tile numbers but for evictions, and with `n` blocks of its set returning to the core no more than 16 blocks there (R176, R238, R479)? -/
def State.resumeRoom (s : State) (b : Block) (n : Nat) : Bool :=
  let free := s.freeSlots b.core
  b.slots.all free.contains && (!b.hasSeq || (s.seq b.core).isNone) && decide (s.residents b.core + n ≤ 16) &&
  (match b.saved with | some v => v.evicted.all fun e => (s.tile b.core e.1).open_ true | none => true)

/-- Is a block ready to resume, with every block of its set, and is there room for them (R215, R479)? -/
def State.resumable (s : State) (bid : Nat) (b : Block) : Bool :=
  let set_ := s.resumeSet bid b
  s.resumeReady b && set_.all fun e => s.resumeReady e.2 && s.resumeRoom e.2 (set_.filter fun x => x.2.core == e.2.core).length

/-- Does something of a higher rank have a place on a die: a launch with blocks to place, or a ready block outside a set (R217, R479)? -/
def State.outranked (s : State) (r : Rank) (die : Nat) (set_ : List Nat) : Bool :=
  s.launches.any (fun e => s.pending e.2 && !r.le (s.launchRank e.1 e.2) && s.fitsDie e.1 e.2 die) ||
  s.blocks.any fun e => !set_.contains e.1 && dieOf e.2.core == die && !r.le (s.resumeRank e.1 e.2) && s.resumable e.1 e.2

/-- Evict the suspended tiles of others that stand in the way of a block's tile numbers (R238). -/
def State.evictInWay (s : State) (bid c : Nat) (ts : List Nat) : State :=
  ts.foldl (fun (s : State) t => match (s.keepers c).find? fun e => e.1 != bid && (match e.2.saved with | some v => v.tiles.contains t | none => false) with
    | some e => s.evictBank c e.2.ctx (t / 8)
    | none => s) s

/-- Banks of a block's tiles that must return to ON first: GATED ones, and the sequencer's (R53, R54). -/
def State.resumeWaits (s : State) (b : Block) (v : Saved) : List Nat :=
  let back := (v.evicted.map fun e => e.1 / 8).filter fun k => (s.bank b.core k).st == BankState.gated
  let own := ((v.tiles.filter fun t => (s.tile b.core t).hold == 48) ++ (v.evicted.filter fun e => e.2.hold == 48).map Prod.fst).map (· / 8)
  (back ++ own.filter fun k => (s.bank b.core k).st != BankState.on).eraseDups

/-- A tile of a resumed block (R185). -/
def Tile.resume (t : Tile) : Tile := match t.st with | .suspended | .retained => { t with st := .owned } | _ => { t with kept := false }

/-- A saved sequencer goes on as many cycles later as it was stopped; its next bundle issues in the cycle after it resumes (R202, R237). -/
def Seq.shift (q : Seq) (d : Nat) : Seq :=
  { q with
    stoppedAt := none
    pend := q.pend.map fun p => { p with due := p.due + d }
    busyV0 := q.busyV0 + d
    busyV1 := q.busyV1 + d
    busySU0 := q.busySU0 + d
    busySU1 := q.busySU1 + d
    busyM := q.busyM + d
    ports := q.ports.map fun p => (p.1 + d, p.2)
    mloop := q.mloop.map fun l => { l with nextCycle := l.nextCycle + d } }

/-- The block goes on where it was suspended (R239, R479). -/
def State.resumeBlock (s : State) (bid : Nat) (b : Block) (v : Saved) : State :=
  let c := b.core
  let s1 := v.tiles.foldl (fun (s : State) t => s.setTile c t (s.tile c t).resume) s
  let s2 := v.evicted.foldl (fun (s : State) e => (s.setTile c e.1 e.2.resume).wakeBank c (e.1 / 8)) s1
  let s3 := v.warps.foldl (fun (s : State) x => s.setWarp c x.1 { x.2.2 with st := x.2.1, readyAge := s.clock, losses := 0 }) s2
  let s4 := match v.seq with
    | some q => s3.setSeq c (q.shift (s.clock + 1 - q.stoppedAt.getD b.suspendedAt))
    | none => s3
  s4.setBlock bid { b with st := .resident, saved := none }

/-- Prepare a block's resumption: evictions in its way, then its banks; and whether all is ready. -/
def State.prepResume (s : State) (bid : Nat) (b : Block) : Bool × State :=
  match b.saved with
  | none => (false, s)
  | some v =>
    let s1 := s.evictInWay bid b.core (v.evicted.map Prod.fst)
    let waits := s1.resumeWaits b v
    if !v.evicted.all fun e => (s1.tile b.core e.1).st == .free then (false, s1)
    else (waits.isEmpty, waits.foldl (fun (s : State) k => s.wakeBank b.core k) s1)

/-- A prepared block resumes. -/
def State.finishResume (s : State) (bid : Nat) : State :=
  match s.block bid with
  | some b => match b.saved with
    | some v => s.resumeBlock bid b v
    | none => s
  | none => s

/-- Does BLOCK_RESUME concern a block now? -/
def State.resumeDue (s : State) (bid : Nat) (b : Block) : Bool :=
  let set_ := s.resumeSet bid b
  s.resumable bid b && set_.all fun e => !s.outranked (s.resumeRank e.1 e.2) (dieOf e.2.core) (set_.map Prod.fst)

/-- BLOCK_RESUME (R479): a ready block, or its whole ring block set, resumes once it has its room, its tile numbers and its banks. -/
def execBlockResume (s : State) : Host.Outcome State Fault Refusal :=
  asEvent s fun a => match s.block a.id with
    | none => s
    | some b =>
      if !s.resumeDue a.id b then s
      else
        let set_ := s.resumeSet a.id b
        let r := set_.foldl (fun (r : Bool × State) e =>
          let x := r.2.prepResume e.1 e.2
          (r.1 && x.1, x.2)) (true, s)
        if r.1 then set_.foldl (fun (s : State) e => s.finishResume e.1) r.2 else r.2

/-- May a die's processor place for a launch now: it has a place, and nothing of a higher rank has (R214, R217)? -/
def State.placeDue (s : State) (i : Nat) (l : Launch) (die : Nat) : Bool :=
  (s.reserve_ i l die true).isSome && !s.outranked (s.launchRank i l) die []

/-- BLOCK_PLACEMENT (R214): launch `id` by the processor of a die. -/
def execBlockPlacement (s : State) : Host.Outcome State Fault Refusal :=
  asEvent s fun a => match s.launches.find a.id with
    | some l => if s.placeDue a.id l a.die then s.placeFor a.id l a.die 3072 else s
    | none => s

/-! Pre-emption by the distributor (R236, R237). -/

/-- May a launch pre-empt a block: a PREEMPTIBLE one of lower priority, or any for DCLASS; DCLASS only by DCLASS? -/
def State.mayPreempt (s : State) (l : Launch) (b : Block) : Bool :=
  b.st == BlockSt.resident && !b.stopping && match s.launches.find b.launch with
    | some v => v.preemptible && (s.isDclass l || (decide (v.prio < l.prio) && !s.isDclass v))
    | none => false

/-- The priority of a block's launch. -/
def State.blockPrio (s : State) (b : Block) : Nat := match s.launches.find b.launch with | some v => v.prio | none => 0

/-- The victims in their order: lowest priority first, then the most recently placed (R237). -/
def State.victims (s : State) (l : Launch) : List Nat :=
  let cs := s.placeCores l
  let all := s.blocks.filter fun e => cs.contains e.2.core && s.mayPreempt l e.2
  (sortBy (fun (a b : Nat × Block) => decide (s.blockPrio a.2 < s.blockPrio b.2) || (s.blockPrio a.2 == s.blockPrio b.2 && decide (b.1 ≤ a.1))) all).map Prod.fst

/-- The blocks suspended together with a victim: those of its ring block set (R215, R237). -/
def State.victimSet (s : State) (bid : Nat) : List Nat :=
  match s.block bid with
  | some b => match s.launches.find b.launch with
    | some v => if v.kind = 3 then (s.blocks.filter fun e => e.2.launch == b.launch && e.2.st == BlockSt.resident).map Prod.fst else [bid]
    | none => [bid]
  | none => []

/-- The state as it would stand with a block suspended. -/
def State.without (s : State) (bid : Nat) : State :=
  match s.block bid with
  | some b => if b.st = .resident then s.suspendBlock bid b else s
  | none => s

/-- The first victims that make room for the launch; none when even all of them would not. -/
def State.enough (s : State) (li : Nat) (l : Launch) : State → List Nat → List Nat → List Nat
  | t, vs, taken => if t.canPlace li l then taken else match vs with
    | [] => []
    | v :: rest =>
      let more := s.victimSet v
      State.enough s li l (more.foldl State.without t) rest (taken ++ more)

/-- Cycles a pending block waits before the distributor pre-empts (R237). -/
def preemptWait : Nat := 20000

/-- Has a launch's block not fit for the time of R237? -/
def State.preemptDue (s : State) (l : Launch) : Bool :=
  s.pending l && (match l.stuckSince with | some t => decide (t + preemptWait ≤ s.clock) | none => false)

/-- DISTRIBUTOR_PREEMPTION (R237): the distributor begins to suspend victims for launch `id`. -/
def execDistributorPreemption (s : State) : Host.Outcome State Fault Refusal :=
  asEvent s fun a => match s.launches.find a.id with
    | none => s
    | some l =>
      if !s.preemptDue l then s
      else
        let s1 := s.setLaunch a.id { l with stuckSince := some s.clock }
        (s.enough a.id l s (s.victims l) []).eraseDups.foldl (fun (s : State) bid => match s.block bid with
          | some b => s.setBlock bid { b with stopping := true }
          | none => s) s1

/-- As a cycle begins: since when each launch has had a block that does not fit (R237). -/
def State.noteStuck (s : State) : State :=
  { s with launches := mapVals s.launches fun (i : Nat) (l : Launch) =>
      if s.pending l && !s.canPlace i l then (if l.stuckSince.isNone then { l with stuckSince := some s.clock } else l) else { l with stuckSince := none } }

end Sys2Proof.Machine
end

