-- ==== Sys2Proof/Machine/Peers.lean ====
section
/-! DEFINITION. Requests of other packages and the answers of peers (R28, R159, R160, R165). -/
namespace Sys2Proof.Machine
open Sys2Proof

/-! Requests of other packages. -/

/-- Bytes a request concerns. -/
def peerOpLen : PeerOp → Nat
  | .read n => n
  | .write b _ => b.length
  | .atomic _ b _ => b.length

/-- May a request be performed: its key is bound to the context, which key 0 never needs, and its bytes lie in a range exported to it (R28)? -/
def State.peerAllowed (s : State) (r : PeerReq) : Bool :=
  let n := peerOpLen r.op
  (r.key == 0 || s.keys.find r.key == some r.ctx) &&
  (s.exports.any fun e => e.ctx == r.ctx && decide (e.base ≤ r.paddr) && decide (r.paddr + n ≤ e.base + e.len)) &&
  (s.inHbm r.paddr n || s.inCxl r.paddr n)

/-- Perform a request at the home of its bytes, with the answer (R28, R155, R159). -/
def State.servePeer (s : State) (r : PeerReq) : State × PeerAnswer :=
  let g := tkAgt r.ctx (homeDie r.paddr)
  let st : Store := .mem [⟨r.paddr, peerOpLen r.op, BitVec.ofNat 128 (r.key * 2 ^ 80)⟩]
  match r.op with
  | .read n => (s.loadFill g false st, answerOf (s.bytesWithPoison g false st n))
  | .write b ps =>
    let pairs := b.zipIdx.map fun (x : Byte × Nat) => (x.1, if ps.contains x.2 then some ((r.paddr + x.2) / 64 * 64) else none)
    (s.writeWithPoison g st pairs, .data [] [])
  | .atomic atop b cmp =>
    let old := s.atomically g st b.length (atomNew atop b.length (if cmp.isEmpty then none else some (leNat cmp)) (leNat b))
    (old.1, answerOf old.2)

/-- Do two requests meet in a line? -/
def peersMeet (r q : PeerReq) : Bool := (linesOf r.paddr (peerOpLen r.op)).any (linesOf q.paddr (peerOpLen q.op)).contains

/-- Must a request wait: for the exchange of a line or the switch of a frame, or behind an earlier one to the same line (R148, R158)? -/
def State.peerWaits (s : State) (r : PeerReq) : Bool :=
  s.lineBusy r.paddr (peerOpLen r.op) || (s.peerHeld.takeWhile fun q => q != r).any (peersMeet r)

/-- A request is answered. -/
def State.peerAnswered (s : State) (r : PeerReq) : State :=
  let out := if s.peerAllowed r then s.servePeer r else (s, .denied)
  { out.1 with stoxia := out.1.stoxia ++ [.peerAnswer r.src { id := r.id, answer := out.2 }] }

/-- PEER_REQUEST (R28): performed and answered, or PEER-DENIED; one whose line or frame is busy is held, and with `flag` taken up again (R148, R158). -/
def execPeerRequest (s : State) : Host.Outcome State Fault Refusal :=
  asEvent s fun a =>
    let r := a.preq
    let waits := s.peerAllowed r && s.peerWaits r
    if a.flag && !s.peerHeld.contains r then s
    else if waits then (if a.flag then s else { s with peerHeld := s.peerHeld ++ [r] })
    else ({ s with peerHeld := if a.flag then s.peerHeld.erase r else s.peerHeld } : State).peerAnswered r

/-! Answers. -/

/-- The agent a request left for. -/
def PeerOut.agt (r : PeerOut) : Agt :=
  { path := if r.slot < 48 then .ls else if r.slot = 48 then .sq else if r.slot = 49 then .cp else .tk
    who := if r.slot < 48 then .warp r.core r.slot else if r.slot = 48 then .seq r.core else .tk (dieOf r.core)
    ctx := r.ctx
    core := if r.slot ≤ 49 then some r.core else none
    die := dieOf r.core }

/-- A warp's answer: kept by lane and piece, and with the last one the instruction issues again (R28). -/
def State.warpAnswer (s : State) (r : PeerOut) (x : PeerAnswer) : State :=
  match s.warp r.core r.slot with
  | none => s
  | some w =>
    let w1 := { w with pxRes := w.pxRes ++ [(r.lane, x)] }
    let more := s.peerReqs.any fun q => !q.posted && q.core == r.core && q.slot == r.slot
    s.setWarp r.core r.slot (if more || w.wait != some .peer then w1 else w1.wake s.clock)

/-- A line that an answer brings enters a cache. -/
def podLineOf (ctx : Nat) (b : List Byte) (i : Nat) : L1Line := { ctx := ctx, bytes := (b.drop (128 * i)).take 128 }

/-- The lines an answer brings enter the die's L2 and the L1 of the core that asked, but for poisoned ones (R27, R57, R122). -/
def State.podFill (s : State) (r : PeerOut) (f : PodFill) (b : List Byte) (ps : List Nat) : State :=
  let ls := ((List.range (b.length / 128)).filter fun i => !ps.any fun o => o / 128 == i).map fun i => (podLine r.pkg f.base + i, podLineOf r.ctx b i)
  let s1 := s.setPod r.die (ls.foldl (fun (l : Assoc L1Line) x => l.put x.1 x.2) (s.pod r.die))
  match f.l1 with
  | some c => s1.setCore c { s1.core c with l1 := ls.foldl (fun (l : Assoc L1Line) x => l1Put (s.l1Lines c) l x.1 x.2) (s1.core c).l1 }
  | none => s1

/-- What an answer gives the request: the bytes asked for, of the lines it brought; a package outside the pod cannot be reached (R28). -/
def PeerOut.read (r : PeerOut) (x : PeerAnswer) : PeerAnswer :=
  if !Config.inPod r.pkg then .unreachable
  else match r.fill, x with
    | some f, .data b ps => .data ((b.drop f.off).take r.size) ((ps.filter fun o => decide (f.off ≤ o) && decide (o < f.off + r.size)).map (· - f.off))
    | _, _ => x

/-- The caches take the lines an answer brings. -/
def State.takeLines (s : State) (r : PeerOut) (x : PeerAnswer) : State :=
  match r.fill, x with
  | some f, .data b ps => if Config.inPod r.pkg then s.podFill r f b ps else s
  | _, _ => s

/-- An answer of an atomic drops the lines of its address from the L1 of the core that asked, and from its die's pod-cacheable lines (R57). -/
def State.answerDrops (s : State) (r : PeerOut) : State :=
  let gone := fun (l : Assoc L1Line) => r.drops.foldl Assoc.del l
  if r.drops.isEmpty then s
  else
    let s1 := s.setCore r.core { s.core r.core with l1 := gone (s.core r.core).l1 }
    s1.setPod r.die (gone (s1.pod r.die))

/-- An atomic that crossed the bridge is answered (R154, R155): a poisoned result is poisoned in every byte; a reduction has none. -/
def State.atmAnswered (s : State) (r : PeerOut) (opa : Nat) (poisoned : Bool) : State :=
  let s1 := ({ s with peerReqs := s.peerReqs.filter fun q => q.id != r.id } : State).answerDrops r
  if r.posted then s1 else s1.warpAnswer r (.data (leBytes r.size opa) (if poisoned then List.range r.size else []))

/-- The atomic of a die that a transaction id names. -/
def State.atmOut (s : State) (die : Nat) (txid : BitVec 16) : Option PeerOut :=
  s.peerReqs.find? fun r => r.pkg == otherDie && r.die == die && r.id % 65536 == txid.toNat

/-- PEER_RESPONSE (R28): an answer to a request of this package. A posted request that failed ends its context. -/
def execPeerResponse (s : State) : Host.Outcome State Fault Refusal :=
  asEvent s fun a =>
    match s.peerReqs.find? fun r => r.id == a.presp.id && r.pkg != otherDie with
    | none => s
    | some r =>
      let s1 := (({ s with peerReqs := s.peerReqs.filter fun q => q.id != r.id } : State).takeLines r a.presp.answer).answerDrops r
      let x := r.read a.presp.answer
      if r.posted then (match PeerAnswer.cause x with
        | some e => s1.postedFault r.agt e .write r.addr
        | none => s1)
      else if r.slot < 48 then s1.warpAnswer r x
      else { s1 with pxData := s1.pxData ++ [(r.data, r.lane, x)] }

end Sys2Proof.Machine
end

