-- ==== Sys2Proof/Machine/Coherence.lean ====
section
/-! DEFINITION. Coherence between the dies: the home's directory (R134-R137, R147, R148, R150), the remote L2 (R149), memory reads with their checks (R163, R164), atomics and non-cached accesses over the bridge (R143, R154, R155). -/
namespace Sys2Proof.Machine
open Sys2Proof

/-! Lines and messages. -/

/-- The line of a message. -/
def msgLine (m : BridgeMsg) : Nat := m.paddr.toNat / 128

/-- SPOIS of a line (R142, R165). -/
def State.spois (s : State) (n : Nat) : BitVec 8 :=
  BitVec.ofNat 8 ((if (s.poison.find (2 * n)).isSome then 1 else 0) + (if (s.poison.find (2 * n + 1)).isSome then 2 else 0))

/-- A line message (R142): the line's data, its poison and its status. -/
def State.dataMsg (s : State) (die n : Nat) (txid : BitVec 16) (dirty : Bool) : BridgeMsg :=
  let p := s.spois n
  { plainMsg die n txid with status := if p = 0 then 0 else 4, dirty := dirty, spois := p, data := s.physBytes (n * 128) 128 }

/-- The data of a line message becomes the line's, with its poison (R165). -/
def State.takeData (s : State) (n : Nat) (m : BridgeMsg) : State :=
  let s1 := s.setPhysBytes (n * 128) ((s.line n).arrived m)
  let mark := fun (p : Assoc Nat) (i : Nat) => if m.spois.getLsbD i then p.put (2 * n + i) ((2 * n + i) * 64) else p.del (2 * n + i)
  ({ s1 with poison := mark (mark s1.poison 0) 1 }).migNote (n * 128)

/-- A snoop carries an id of the home (R142). -/
def State.snoop (s : State) (n : Nat) (i : Instr) (st : HomeSt) (r : HomeReq) : State :=
  let (id, s1) := s.newId
  let s2 := s1.setLine n { s1.line n with home := st, serving := some r }
  s2.sendBridge i (plainMsg (1 - lineHome n) n (BitVec.ofNat 16 id))

/-! What the home performs. -/

/-- The home L2 holds the line's data. -/
def State.fillHome (s : State) (n : Nat) (dirty : Bool) : State :=
  let l := s.line n
  s.setLine n { l with homeCopy := some (s.physBytes (n * 128) 128), homeDirty := l.homeDirty || dirty }

/-- The home L2 holds no copy any more. -/
def State.dropHome (s : State) (n : Nat) (st : HomeSt) : State := s.setLine n { s.line n with home := st, homeCopy := none, homeDirty := false }

/-- The place of an atomic's bytes in memory; a message names no key, so that of the sector is taken (log entry 28). -/
def State.memPlace (s : State) (pa n : Nat) : Store := .mem [⟨pa, n, BitVec.ofNat 128 (((s.seals.find (pa / 64)).map (·.key)).getD 0 * 2 ^ 80)⟩]

/-- What an ATM writes over an old value (R154). -/
def atmOp (m : BridgeMsg) (old : Nat) : Option Nat :=
  let n := (m.opx.extractLsb' 8 8).toNat
  let d := m.opa.toNat % 2 ^ (8 * n)
  if m.opx.getLsbD 16 then (if old = m.opb.toNat % 2 ^ (8 * n) then some d else none)
  else some (atomOp (m.opx.extractLsb' 0 8).toNat n old d)

/-- An error in the result of an atomic that crosses the bridge, logged with the requester's context (R155, R169). -/
def State.appliedError (s : State) (die reqDie : Nat) (m : BridgeMsg) : State :=
  s.logApplied die m.paddr.toNat (((s.atmOut reqDie m.txid).map (·.ctx)).getD 0xFF)

/-- An ATM is performed once and answered, a reduction with no value (R154, R155); `m.status` of 6 says that an error is detected in the result. -/
def State.performAtm (s : State) (m : BridgeMsg) (st : Store) : State :=
  let n := (m.opx.extractLsb' 8 8).toNat
  let r := s.atomically (tkAgt 0 m.die) st n (atmOp m)
  let bad := r.2.any fun b => b.2.isSome
  let hit := !bad && m.status == 6
  let s1 := if hit then r.1.appliedError m.die (1 - m.die) m else r.1
  s1.sendBridge .atmr { plainMsg (1 - m.die) 0 m.txid with
    paddr := m.paddr, status := if bad then 4 else if hit then 6 else 0, opa := if m.opx.getLsbD 17 then 0 else BitVec.ofNat 128 (leNat (r.2.map Prod.fst)) }

/-- A local write is performed at the home, whose L2 then holds the line dirty (R147). -/
def State.homeWrite (s : State) (n off : Nat) (bytes : List Byte) : State := (s.writePhys (n * 128 + off) (bytes.take (128 - off))).fillHome n true

/-- The access a transient state was entered for is performed (R148). -/
def State.performLocal (s : State) (n : Nat) (r : HomeReq) : State :=
  match r with
  | .localRead => s.fillHome n false
  | .localWrite off b => s.homeWrite n off b
  | .recall => s
  | .remote _ m => (s.performAtm m (s.memPlace (s.migTarget m.paddr.toNat) (m.opx.extractLsb' 8 8).toNat)).fillHome n true

/-- A grant of E or M is noted by a migration (R159). -/
def State.grantTo (s : State) (i : Instr) (n : Nat) (m : BridgeMsg) : State := (s.sendBridge i m).migNote (n * 128)

/-- A request for a frame in REDIRECT is served at the new frame, not cached (R158). -/
def State.redirected (s : State) (n : Nat) (r : HomeReq) : State :=
  match r with
  | .localWrite off b => s.writePhys (n * 128 + off) (b.take (128 - off))
  | .remote .atm m => s.performAtm m (s.memPlace (s.migTarget m.paddr.toNat) (m.opx.extractLsb' 8 8).toNat)
  | .remote _ m =>
    let t := s.migTarget (n * 128) / 128
    s.sendBridge .ncrd { s.dataMsg (1 - lineHome n) t m.txid false with paddr := m.paddr }
  | _ => s

/-- A local access, a remote atomic or a recall in a stable state (R147, R158). -/
def State.serveLocal (s : State) (n : Nat) (r : HomeReq) : State :=
  match (s.line n).home, r with
  | .dO, .localRead => s
  | .de, .localRead => s.snoop n .fwds .hwFs r
  | _, .localRead => s.performLocal n r
  | .ds, _ | .dO, _ => s.snoop n .inv .hwInv r
  | .de, _ => s.snoop n .fwdi .hwFi r
  | _, _ => s.performLocal n r

/-- A slice with no free entry for a new remote copy first recalls one of its existing ones, as if for a local write; which one is free (R135). -/
def State.makeEntry (s : State) (n : Nat) : State :=
  let xs := s.tracked (lineHome n) (s.sliceOf n)
  let still := xs.filter fun x => !(s.line x).moving && x != n
  if xs.contains n ∨ xs.length < directorySize then s
  else match still[(Config.freeWord (s.free + n)).toNat % still.length]? with
    | some x => s.serveLocal x .recall
    | none => s

/-- A remote request in the states that serve it (R135, R147). -/
def State.serveRemote (s0 : State) (n : Nat) (i : Instr) (m : BridgeMsg) : State :=
  let s := s0.makeEntry n
  let l := s.line n
  let back := 1 - lineHome n
  let exclusive := (s.grantTo .datam n (s.dataMsg back n m.txid l.homeDirty)).dropHome n .de
  match l.home, i with
  | .di, .rds =>
    if l.homeCopy.isSome then (s.sendBridge .datas (s.dataMsg back n m.txid false)).setLine n { l with home := .ds }
    else s.setLine n { l with home := .hwMem, serving := some (.remote i m) }
  | .di, .rdx | .di, .upg => if l.homeCopy.isSome then exclusive else s.setLine n { l with home := .hwMem, serving := some (.remote i m) }
  | .ds, .rds => s.sendBridge .datas (s.dataMsg back n m.txid false)
  | .ds, .rdx => exclusive
  | .ds, .upg | .dO, .upg => (s.grantTo .gntx n (plainMsg back n m.txid)).dropHome n .de
  | _, _ => s

/-- Serve a request in a stable state (R147). -/
def State.serve (s : State) (n : Nat) (r : HomeReq) : State :=
  if s.lineMig n = some MigSt.redirect then s.redirected n r
  else match r with
    | .remote .atm _ => s.serveLocal n r
    | .remote i m => s.serveRemote n i m
    | _ => s.serveLocal n r

/-- Does a request wait: the line is in a transient state, or its frame is being switched and this is no recall (R148, R158)? -/
def State.homeWaits (s : State) (n : Nat) (r : HomeReq) : Bool := (s.line n).home.transient || (s.lineMig n == some MigSt.switch && r != .recall)

/-- A request arrives at the home (R147, R148); a recall goes before those that wait for the switch (R158). -/
def State.atHome (s : State) (n : Nat) (r : HomeReq) : State :=
  let w := (s.line n).waiting
  if s.homeWaits n r then s.setLine n { s.line n with waiting := if r = .recall then r :: w else w ++ [r] } else s.serve n r

/-- The waiting requests are served in arrival order, until one must wait again (R148). -/
def State.drain (s : State) (n : Nat) : Nat → State
  | 0 => s
  | k + 1 => match (s.line n).waiting with
    | [] => s
    | r :: rest => if s.homeWaits n r then s else State.drain ((s.setLine n { s.line n with waiting := rest }).serve n r) n k

/-- A transient state ends in a stable one: its local access is performed, then the waiting requests are served (R148). -/
def State.settle (s : State) (n : Nat) (st : HomeSt) : State :=
  let l := s.line n
  let s1 := s.setLine n { l with home := st, serving := none }
  let s2 := match l.serving with
    | some r => s1.performLocal n r
    | none => s1
  s2.drain n (s2.line n).waiting.length

/-- Data of WB or FWDDATA go into the home L2 as dirty. -/
def State.homeTakes (s : State) (n : Nat) (m : BridgeMsg) : State := (s.takeData n m).fillHome n true

/-- WB and EVC at the home, in stable and transient states (R147, R150). -/
def State.writeBack (s : State) (n : Nat) (m : BridgeMsg) (hasData : Bool) : State :=
  let reply := fun (t : State) => t.sendBridge .wback (plainMsg (1 - lineHome n) n m.txid)
  let got := if hasData then s.homeTakes n m else s
  match (s.line n).home with
  | .de | .dO => (reply got).setLine n { got.line n with home := .di }
  | .hwFs | .hwFi => reply got
  | .hwInv => reply s
  | _ => s

/-- An answer to a snoop at the home (R148, R150). -/
def State.snoopAnswer (s : State) (n : Nat) (i : Instr) (m : BridgeMsg) : State :=
  match (s.line n).home, i with
  | .hwInv, .invack => s.settle n .di
  | .hwFs, .fwddata => (s.homeTakes n m).settle n .dO
  | .hwFs, .fwdack => s.settle n (if m.stale then .di else .ds)
  | .hwFi, .fwddata => (s.homeTakes n m).settle n .di
  | .hwFi, .fwdack => s.settle n .di
  | _, _ => s

/-! The remote L2 (R149). -/

/-- The remote L2's writes that waited for M are performed. -/
def State.remPerform (s : State) (n : Nat) : State :=
  let l := s.line n
  l.remWrites.foldl (fun (s : State) x => s.writePhys (n * 128 + x.2.1) (x.2.2.take (128 - x.2.1))) (s.setLine n { l with remWrites := [] })

/-- The remote L2 sends a request for a line. -/
def State.remAsk (s : State) (n : Nat) (i : Instr) (st : RemSt) : State :=
  let (id, s1) := s.newId
  let s2 := s1.setLine n { s1.line n with rem := st, txid := BitVec.ofNat 16 id }
  s2.sendBridge i (plainMsg (lineHome n) n (BitVec.ofNat 16 id))

/-- Writes that wait at the remote L2 are taken up in a stable state. -/
def State.remGo (s : State) (n : Nat) : State :=
  let l := s.line n
  if l.remWrites.isEmpty then s
  else match l.rem with
    | .i => s.remAsk n .rdx .im
    | .s | .o => s.remAsk n .upg .sm
    | .e | .m => (s.setLine n { l with rem := .m }).remPerform n
    | _ => s

/-- The remote L2 has the line in a state, with the data of a message. -/
def State.remHas (s : State) (n : Nat) (st : RemSt) (m : BridgeMsg) : State :=
  (s.setLine n { s.line n with rem := st, remCopy := some ((s.line n).arrived m) }).remGo n

/-- The remote L2 leaves a line. -/
def State.remDrop (s : State) (n : Nat) (st : RemSt) : State := s.setLine n { s.line n with rem := st, remCopy := none }

/-- A snoop at the remote L2 (R149). -/
def State.atRemote (s : State) (n : Nat) (i : Instr) (m : BridgeMsg) : State :=
  let h := lineHome n
  let ack := fun (t : State) (j : Instr) (stale : Bool) => t.sendBridge j { plainMsg h n m.txid with stale := stale }
  let l := s.line n
  match i, l.rem with
  | .inv, .i | .inv, .is | .inv, .im => ack s .invack false
  | .inv, .s | .inv, .o => ack (s.remDrop n .i) .invack false
  | .inv, .sm => ack (s.remDrop n .im) .invack false
  | .inv, .wi | .inv, .ei => ack s .invack true
  | .fwds, .e => ack (s.setLine n { l with rem := .s }) .fwdack false
  | .fwds, .m => (s.setLine n { l with rem := .o }).sendBridge .fwddata (s.dataMsg h n m.txid true)
  | .fwdi, .e => ack (s.remDrop n .i) .fwdack false
  | .fwdi, .m => (s.remDrop n .i).sendBridge .fwddata (s.dataMsg h n m.txid true)
  | .fwds, .i | .fwds, .is | .fwds, .im | .fwds, .wi | .fwds, .ei => ack s .fwdack true
  | .fwdi, .i | .fwdi, .is | .fwdi, .im | .fwdi, .wi | .fwdi, .ei => ack s .fwdack true
  | _, _ => s

/-- The home's answers at the remote L2 (R149). -/
def State.remAnswer (s : State) (n : Nat) (i : Instr) (m : BridgeMsg) : State :=
  match i, (s.line n).rem with
  | .datas, .is => s.remHas n .s m
  | .datae, .is => s.remHas n .e m
  | .datam, .im | .datam, .sm => s.remHas n .m m
  | .gntx, .sm => (s.setLine n { s.line n with rem := .m }).remGo n
  | .wback, .wi | .wback, .ei => (s.remDrop n .i).remGo n
  | .ncrd, .is | .ncrd, .im | .ncrd, .sm => (s.remDrop n .i).remPerform n
  | _, _ => s

/-! The messages as steps. -/

/-- A message at the home of its line. -/
def homeMsg (s : State) (f : State → Nat → BridgeMsg → State) : Host.Outcome State Fault Refusal :=
  asEvent s fun a =>
    let n := msgLine a.msg
    if a.msg.die == lineHome n && s.lineExists n && !s.bridgeDown then f s n a.msg else s

/-- A message at the remote L2. -/
def remoteMsg (s : State) (f : State → Nat → BridgeMsg → State) : Host.Outcome State Fault Refusal :=
  asEvent s fun a =>
    let n := msgLine a.msg
    if a.msg.die != lineHome n && s.lineExists n && !s.bridgeDown then f s n a.msg else s

/-- RDS (R147). -/
def execRds (s : State) : Host.Outcome State Fault Refusal := homeMsg s fun s n m => s.atHome n (.remote .rds m)
/-- RDX (R147). -/
def execRdx (s : State) : Host.Outcome State Fault Refusal := homeMsg s fun s n m => s.atHome n (.remote .rdx m)
/-- UPG (R147, R150). -/
def execUpg (s : State) : Host.Outcome State Fault Refusal := homeMsg s fun s n m => s.atHome n (.remote .upg m)
/-- WB (R147, R150). -/
def execWb (s : State) : Host.Outcome State Fault Refusal := homeMsg s fun s n m => s.writeBack n m true
/-- EVC (R147, R150). -/
def execEvc (s : State) : Host.Outcome State Fault Refusal := homeMsg s fun s n m => s.writeBack n m false
/-- INVACK (R148). -/
def execInvack (s : State) : Host.Outcome State Fault Refusal := homeMsg s fun s n m => s.snoopAnswer n .invack m
/-- FWDACK (R148). -/
def execFwdack (s : State) : Host.Outcome State Fault Refusal := homeMsg s fun s n m => s.snoopAnswer n .fwdack m
/-- FWDDATA (R148). -/
def execFwddata (s : State) : Host.Outcome State Fault Refusal := homeMsg s fun s n m => s.snoopAnswer n .fwddata m
/-- INV (R149). -/
def execInv (s : State) : Host.Outcome State Fault Refusal := remoteMsg s fun s n m => s.atRemote n .inv m
/-- FWDS (R149). -/
def execFwds (s : State) : Host.Outcome State Fault Refusal := remoteMsg s fun s n m => s.atRemote n .fwds m
/-- FWDI (R149). -/
def execFwdi (s : State) : Host.Outcome State Fault Refusal := remoteMsg s fun s n m => s.atRemote n .fwdi m
/-- GNTX (R149). -/
def execGntx (s : State) : Host.Outcome State Fault Refusal := remoteMsg s fun s n m => s.remAnswer n .gntx m
/-- WBACK (R149). -/
def execWback (s : State) : Host.Outcome State Fault Refusal := remoteMsg s fun s n m => s.remAnswer n .wback m
/-- DATAS (R149). -/
def execDatas (s : State) : Host.Outcome State Fault Refusal := remoteMsg s fun s n m => s.remAnswer n .datas m
/-- DATAE (R149). -/
def execDatae (s : State) : Host.Outcome State Fault Refusal := remoteMsg s fun s n m => s.remAnswer n .datae m
/-- DATAM (R149). -/
def execDatam (s : State) : Host.Outcome State Fault Refusal := remoteMsg s fun s n m => s.remAnswer n .datam m

/-! Atomics and non-cached accesses (R143, R154). -/

/-- The 128-byte block a place lies in. -/
def blockPlace : Store → Store
  | .scratch d o => .scratch d (o / 128 * 128)
  | .shared c o => .shared c (o / 128 * 128)
  | x => x

/-- ATM (R154, R155): at a non-cached place, or served as a local write at the line's home (R147); `ecc0` reports an error in the result. -/
def execAtm (s : State) : Host.Outcome State Fault Refusal :=
  asEvent s fun a =>
    let m := { a.msg with status := if resultError a.ecc0 then 6 else 0 }
    let n := msgLine m
    if s.bridgeDown then s
    else match ncPlace m with
      | some st => s.performAtm m st
      | none => if m.die == lineHome n && s.lineExists n then s.atHome n (.remote .atm m) else s

/-- NCR (R143): answered with the block that holds the bytes. -/
def execNcr (s : State) : Host.Outcome State Fault Refusal :=
  asEvent s fun a =>
    let m := a.msg
    match ncPlace m with
    | none => s
    | some st =>
      let half := fun (i : Nat) => s.loadBytes (tkAgt 0 m.die) false ((blockPlace st).part (64 * i) 64) 64
      let bad := fun (i : Nat) => (half i).2.isSome
      let p : Nat := (if bad 0 then 1 else 0) + (if bad 1 then 2 else 0)
      s.sendBridge .ncrd { plainMsg (1 - m.die) 0 m.txid with paddr := m.paddr, status := if p = 0 then 0 else 4, spois := BitVec.ofNat 8 p, data := (half 0).1 ++ (half 1).1 }

/-- NCW (R143): up to 16 bytes of OPA; how many, the message does not say (log entry 1). -/
def execNcw (s : State) : Host.Outcome State Fault Refusal :=
  asEvent s fun a =>
    let m := a.msg
    match ncPlace m with
    | none => s
    | some st =>
      let n := 1 + (Config.freeWord s.free).toNat % 16
      ((s.storeBytes (tkAgt 0 m.die) st (leBytes n (m.opa.toNat % 2 ^ (8 * n)))).draw).sendBridge .ncwack { plainMsg (1 - m.die) 0 m.txid with paddr := m.paddr }

/-- An answer reaches its requester's die. -/
def State.reaches (s : State) (i : Instr) (m : BridgeMsg) : State := { s with arrived := s.arrived ++ [(i, m)] }

/-- ATMR (R154, R155): the answer of an atomic that this die sent; `ecc0` reports an error in the result, which this die then logs. -/
def execAtmr (s : State) : Host.Outcome State Fault Refusal :=
  asEvent s fun a =>
    if s.bridgeDown then s
    else match s.atmOut a.msg.die a.msg.txid with
      | none => s.reaches .atmr a.msg
      | some r =>
        let hit := a.msg.status == 0 && resultError a.ecc0
        (if hit then s.appliedError a.msg.die a.msg.die a.msg else s).atmAnswered r a.msg.opa.toNat (a.msg.status != 0 || hit)
/-- NCWACK (R143). -/
def execNcwack (s : State) : Host.Outcome State Fault Refusal := asEvent s fun a => if s.bridgeDown then s else s.reaches .ncwack a.msg
/-- NCRD (R143): a line's data from a frame in REDIRECT (R158), or a non-cached read's. -/
def execNcrd (s : State) : Host.Outcome State Fault Refusal :=
  asEvent s fun a =>
    let n := msgLine a.msg
    if s.bridgeDown then s
    else if (ncPlace a.msg).isNone && a.msg.die != lineHome n && s.lineExists n then (s.remAnswer n .ncrd a.msg).reaches .ncrd a.msg
    else s.reaches .ncrd a.msg

/-! Accesses of the two dies to a line. -/

/-- HOME_LOCAL_READ (R147): an access of the home die to the line of `addr`. -/
def execHomeLocalRead (s : State) : Host.Outcome State Fault Refusal :=
  asEvent s fun a => if s.lineExists (a.addr / 128) then s.atHome (a.addr / 128) .localRead else s

/-- HOME_LOCAL_WRITE (R147): bytes written by the home die at `addr`, within its line. -/
def execHomeLocalWrite (s : State) : Host.Outcome State Fault Refusal :=
  asEvent s fun a => if s.lineExists (a.addr / 128) then s.atHome (a.addr / 128) (.localWrite (a.addr % 128) a.bytes) else s

/-- REMOTE_L2_ACCESS (R136, R149): the other die reads the line of `addr`, or with `flag` writes bytes there; while the bridge is down a write ends its context (R153). -/
def execRemoteL2Access (s : State) : Host.Outcome State Fault Refusal :=
  asEvent s fun a =>
    let n := a.addr / 128
    let l := s.line n
    if !s.lineExists n then s
    else if s.bridgeDown then (if a.flag then s.terminate a.ctx 6 else s)
    else if a.flag then
      (let t := s.setLine n { l with remWrites := l.remWrites ++ [(a.ctx, a.addr % 128, a.bytes)] }
       t.remGo n)
    else if l.rem = .i then s.remAsk n .rds .is
    else s

/-- REMOTE_L2_EVICTION (R136): S silently, E with EVC, M and O with WB and the data. -/
def execRemoteL2Eviction (s : State) : Host.Outcome State Fault Refusal :=
  asEvent s fun a =>
    let n := a.addr / 128
    let l := s.line n
    let out := fun (i : Instr) (m : BridgeMsg) (st : RemSt) =>
      let (id, s1) := s.newId
      let t := s1.setLine n { l with rem := st, remCopy := none, txid := BitVec.ofNat 16 id }
      t.sendBridge i { m with txid := BitVec.ofNat 16 id }
    if s.bridgeDown then s
    else match l.rem with
      | .s => s.remDrop n .i
      | .e => out .evc (plainMsg (lineHome n) n 0) .ei
      | .m | .o => out .wb (s.dataMsg (lineHome n) n 0 true) .wi
      | _ => s

/-! Memory reads (R161-R164). -/

/-- A sector is known to be wrong (R165). -/
def State.markSector (s : State) (sec : Nat) : State := { s with poison := s.poison.put sec (sec * 64) }

/-- Does a sector lie behind a CXL port, and which? -/
def portOf (x : Nat) : Option Nat := if 2 ^ 44 ≤ x * 64 then some ((x * 64 - 2 ^ 44) / 2 ^ 40) else none

/-- The status of a sector that a controller reads with a key, whose tag fails or not (R161, R163): one wrong symbol is corrected; more are uncorrectable, a third beyond what the spec promises to detect too (log entry 28). -/
def SectorReport.status (r : SectorReport) (cxl : Bool) (tagFails : Bool) : Nat :=
  let n := r.symbols.eraseDups.length
  if cxl && r.cxl then 8 else if 2 ≤ n then 2 else if tagFails then 3 else n

/-- The drip counter that a corrected error of a sector fills: of its CXL port or of its HBM bank (R163, R170, R173). -/
def SectorReport.unit (r : SectorReport) (x : Nat) : Nat × Nat :=
  match portOf x with
  | some p => (6, p)
  | none => (5, homeDie (x * 64) * 6144 + r.bank % 6144)

/-- The stack reports what its on-die ECC has corrected (R161). -/
def State.onDie (s : State) (x : Nat) (r : SectorReport) : State :=
  if (portOf x).isSome then s else r.onDie.foldl (fun (s : State) b => s.correctedError 5 (homeDie (x * 64) * 6144 + b % 6144)) s

/-- A sealed sector's tag in memory is no longer the one made with it. -/
def State.breakSeal (s : State) (x : Nat) : State :=
  match s.seals.find x with
  | some k => { s with seals := s.seals.put x { k with ok := false } }
  | none => s

/-- What the read of one sector with a key leads to, and its status (R161, R163, R164, R167); `rmw` says that a write's read-modify-write made it. A poisoned sector reports POISONED and fills no counter. -/
def State.sectorRead (s : State) (x key : Nat) (rmw : Bool) (r : SectorReport) : State × Nat :=
  if (s.poison.find x).isSome then (s, 4)
  else
    let s0 := s.onDie x r
    let s1 := if r.tagBad then s0.breakSeal x else s0
    let st := SectorReport.status r (portOf x).isSome (key != 0 && (r.tagBad || !s1.sealedBy key x))
    let flags := (if key = 0 then 0 else 1) + (if rmw then 2 else 0)
    (match st with
      | 0 => s1
      | 1 => s1.correctedError (SectorReport.unit r x).1 (SectorReport.unit r x).2
      | 3 => s1.integrityFails { sector := x, key := key, rmw := rmw }
      | st => ((s1.markSector x).writeMel (homeDie (x * 64)) { pa := x * 64, status := st, flags := flags, key := key }).interrupt (.reliability (x * 64)), st)

/-- The status of a line message from those of its sectors: a poisoned sector's first (R142, R168). -/
def lineStatus (a b : Nat) : Nat := if 2 ≤ a then a else if 2 ≤ b then b else max a b

/-- A line message with what the read of its sectors gave: status, tag not verified, poisoned sectors (R142, R163). -/
def BridgeMsg.withRead (m : BridgeMsg) (key a b : Nat) : BridgeMsg :=
  let bad := fun (x : Nat) => decide (2 ≤ x)
  { m with
    status := BitVec.ofNat 8 (lineStatus a b)
    tagUnv := key != 0 && (lineStatus a b == 2 || lineStatus a b == 8)
    spois := BitVec.ofNat 8 ((if bad a then 1 else 0) + (if bad b then 2 else 0)) }

/-- DESIGN CHOICE (log entry 10): an RDS served from HW-MEM is answered DATAE and the home L2 keeps no copy of the data.
MEMORY_READ_COMPLETE (R148, R163): the line of `addr` has been read with key `id`, with `flag` for a write's read-modify-write; a request that waited for it in HW-MEM is served from it, else it fills the home L2 (log entry 10). -/
def execMemoryReadComplete (s : State) : Host.Outcome State Fault Refusal :=
  asEvent s fun a =>
    let n := a.addr / 128
    if !s.lineExists n then s
    else
      let r0 := s.sectorRead (2 * n) a.id a.flag a.ecc0
      let r1 := r0.1.sectorRead (2 * n + 1) a.id a.flag a.ecc1
      let s1 := r1.1
      let l := s1.line n
      match l.home, l.serving with
      | .hwMem, some (.remote i m) =>
        let s2 := s1.setLine n { l with home := .de, serving := none }
        let s3 := s2.grantTo (if i = .rds then .datae else .datam) n (BridgeMsg.withRead (s2.dataMsg (1 - lineHome n) n m.txid false) a.id r0.2 r1.2)
        s3.drain n l.waiting.length
      | .di, _ => if l.homeCopy.isNone ∧ s1.lineMig n ≠ some MigSt.redirect then s1.fillHome n false else s1
      | _, _ => s1

end Sys2Proof.Machine
end

