-- ==== Sys2Proof/Machine/Alu.lean ====
section
/-! DEFINITION. Integer arithmetic at a width of 32 or 64 bits (R298, R340-R343), shared by the warps and the S slot (R344). Operands arrive zero-extended to 64 bits; a result is read modulo the width. -/
namespace Sys2Proof.Machine
open Sys2Proof

/-- An integer operation: width, signedness, up to three operands. -/
abbrev IntOp := Nat → Bool → Word64 → Word64 → Word64 → Word64

/-- The low n bits. -/
def truncTo (n : Nat) (v : Word64) : Word64 := if n = 64 then v else (v.extractLsb' 0 32).setWidth 64
/-- The signed value at a width. -/
def signedAt (n : Nat) (v : Word64) : Int := if n = 64 then v.toInt else (v.extractLsb' 0 32).toInt
/-- The value at a width, signed for I types. -/
def valueAt (n : Nat) (sg : Bool) (v : Word64) : Int := if sg then signedAt n v else (truncTo n v).toNat
/-- Bit i. -/
def bitAt (v : Word64) (i : Nat) : Bool := v.getLsbD i
/-- A shift count (R298). -/
def countAt (n : Nat) (v : Word64) : Nat := v.toNat % n

/-- IADD. -/
def opAdd : IntOp := fun _ _ a b _ => a + b
/-- ISUB. -/
def opSub : IntOp := fun _ _ a b _ => a - b
/-- IMUL. -/
def opMul : IntOp := fun _ _ a b _ => a * b
/-- IMULH: the high n bits of the exact product. -/
def opMulh : IntOp := fun n sg a b _ => BitVec.ofInt 64 (valueAt n sg a * valueAt n sg b / 2 ^ n)
/-- IMAD. -/
def opMad : IntOp := fun _ _ a b c => a * b + c
/-- IMIN. -/
def opMin : IntOp := fun n sg a b _ => if valueAt n sg a ≤ valueAt n sg b then a else b
/-- IMAX. -/
def opMax : IntOp := fun n sg a b _ => if valueAt n sg a ≤ valueAt n sg b then b else a
/-- IABS: the most negative value returns itself. -/
def opAbs : IntOp := fun n _ a _ _ => if signedAt n a < 0 then 0 - a else a
/-- AND. -/
def opAnd : IntOp := fun _ _ a b _ => a &&& b
/-- OR. -/
def opOr : IntOp := fun _ _ a b _ => a ||| b
/-- XOR. -/
def opXor : IntOp := fun _ _ a b _ => a ^^^ b
/-- NOT. -/
def opNot : IntOp := fun _ _ a _ _ => ~~~ a
/-- SHL. -/
def opShl : IntOp := fun n _ a b _ => a <<< countAt n b
/-- SHR. -/
def opShr : IntOp := fun n _ a b _ => truncTo n a >>> countAt n b
/-- SHA. -/
def opSha : IntOp := fun n _ a b _ => BitVec.ofInt 64 (signedAt n a / 2 ^ countAt n b)
/-- ROT: left by b mod n. -/
def opRot : IntOp := fun n _ a b _ =>
  let k := countAt n b
  (truncTo n a <<< k) ||| (truncTo n a >>> (n - k))
/-- POPC. -/
def opPopc : IntOp := fun n _ a _ _ => BitVec.ofNat 64 ((List.range n).filter (bitAt a ·)).length
/-- CLZ: n when a = 0. -/
def opClz : IntOp := fun n _ a _ _ => BitVec.ofNat 64 (((List.range n).find? fun i => bitAt a (n - 1 - i)).getD n)
/-- CTZ: n when a = 0. -/
def opCtz : IntOp := fun n _ a _ _ => BitVec.ofNat 64 (((List.range n).find? fun i => bitAt a i).getD n)
/-- BREV. -/
def opBrev : IntOp := fun n _ a _ _ =>
  (List.range n).foldl (fun (r : Word64) i => if bitAt a (n - 1 - i) then r ||| (1#64 <<< i) else r) 0
/-- BFE (R341). -/
def opBfe : IntOp := fun n sg a b _ =>
  let pos := (b.extractLsb' 0 8).toNat
  let len := min (b.extractLsb' 8 8).toNat n
  let field := valueAt n sg a / 2 ^ pos % 2 ^ len
  if len = 0 then 0
  else if sg ∧ 2 ^ (len - 1) ≤ field then BitVec.ofInt 64 (field - 2 ^ len)
  else BitVec.ofInt 64 field
/-- BFI (R341). -/
def opBfi : IntOp := fun n _ a b c =>
  let pos := (b.extractLsb' 0 8).toNat
  let len := min (b.extractLsb' 8 8).toNat n
  let mask := BitVec.ofNat 64 ((2 ^ len - 1) * 2 ^ pos % 2 ^ n)
  (c &&& ~~~ mask) ||| ((a <<< pos) &&& mask)
/-- LEA. -/
def opLea : IntOp := fun n _ a b c => a + (b <<< countAt n c)

/-- A comparison of R316: codes 0 to 5 by signedness, 8 to 11 unsigned. -/
def intCmp (n : Nat) (sg : Bool) (cc : Nat) (a b : Word64) : Bool :=
  let x := valueAt n (sg && decide (cc < 8)) a
  let y := valueAt n (sg && decide (cc < 8)) b
  match cc with
  | 0 => decide (x = y)
  | 1 => decide (x ≠ y)
  | 2 | 8 => decide (x < y)
  | 3 | 9 => decide (x ≤ y)
  | 4 | 10 => decide (x > y)
  | 5 | 11 => decide (x ≥ y)
  | _ => false

/-- The width of an integer type. -/
def tyWidth (t : BitVec 5) : Nat := if ty64 t then 64 else 32
/-- An I type is signed. -/
def tySigned (t : BitVec 5) : Bool := t == 0 || t == 2

/-- An integer RR operation of n sources, for a warp or in the S slot (R335, R340, R344). -/
def State.intOp (s : State) (f : RR) (n : Nat) (op : IntOp) : Host.Outcome State Fault Refusal :=
  let wide := ty64 f.ty
  let wd := tyWidth f.ty
  match s.cur with
  | .slot _ _ => asSlot s f.g fun c _ q =>
    let a := truncTo wd (s.xlReg q f.sa)
    let b := truncTo wd (s.xlReg q f.sb)
    let d := truncTo wd (s.xlReg q f.sc)
    .ok (s.later c 1 1 (xlWrite f.dst (extendS f.ty wide (truncTo wd (op wd (tySigned f.ty) a b d)))))
  | _ => asWarp s fun c k w =>
    s.laneRun c k w f.g (RR.srcs f n wide) { code := f.dst.toNat, isS := f.ud, wide := wide, ty := f.ty } fun l =>
      { v := truncTo wd (op wd (tySigned f.ty) (s.rrVal c k w f wide l 0) (s.rrVal c k w f wide l 1) (s.rrVal c k w f wide l 2)) }

/-- The 64-bit sign extension of an immediate (R317). -/
def RI.simm (f : RI) : Word64 := f.imm.signExtend 64
/-- US[1]: DST is an s register (R314). -/
def RI.dS (f : RI) : Bool := f.us.getLsbD 1
/-- US[0]: SA is an s register (R314). -/
def RI.aS (f : RI) : Bool := f.us.getLsbD 0

/-- An integer RI operation: 64 bits to an s or x register, 32 bits to a v register (R317, R343, R344). -/
def State.immOp (s : State) (f : RI) (op : IntOp) : Host.Outcome State Fault Refusal :=
  match s.cur with
  | .slot _ _ => asSlot s f.g fun c _ q => .ok (s.later c 1 1 (xlWrite f.dst (op 64 true (s.xlReg q f.sa) (RI.simm f) 0)))
  | _ => asWarp s fun c k w =>
    let wide := RI.dS f
    let src : Src := ⟨f.sa.toNat, RI.aS f, wide⟩
    s.laneRun c k w f.g [src] { code := f.dst.toNat, isS := wide, wide := wide, ty := if wide then 2 else 0 } fun l =>
      { v := truncTo (if wide then 64 else 32) (op (if wide then 64 else 32) true (s.readSrc c k w l src).1 (RI.simm f) 0) }

end Sys2Proof.Machine
end

