-- ==== Sys2Proof/Machine/Numbers.lean ====
section
/-! DEFINITION. Element types by their codes (R315), comparisons and classes of floating-point elements (R316, R346), packed positions (R47, R349), and the runs of float instructions over lanes (R345). -/
namespace Sys2Proof.Machine
open Sys2Proof

/-- The floating-point format of a type code (R315). -/
def fmtOf (ty : BitVec 5) : Fmt :=
  match ty.toNat with
  | 0x09 => .f16
  | 0x0A => .b16
  | 0x0B => .e5m2
  | 0x0C => .e4m3
  | 0x0D => .e3m2
  | 0x0E => .e2m3
  | 0x0F => .e2m1
  | _ => .f32

/-- The number type of a type code (R315). -/
def numTyOf (ty : BitVec 5) : NumTy :=
  match ty.toNat with
  | 0 => .int true 32
  | 1 => .int false 32
  | 2 => .int true 64
  | 3 => .int false 64
  | 4 => .int true 8
  | 5 => .int false 8
  | _ => .flt (fmtOf ty)

/-- Bits of an element of a number type. -/
def NumTy.bits : NumTy → Nat
  | .flt f => f.bits
  | .int _ n => n

/-- Bits a position of the packed view of a type takes (R47). -/
def containerBits (ty : BitVec 5) : Nat := 32 / positions ty

/-- The element in position i of a packed word (R47): the 6-bit views ignore the two top bits of their container. -/
def packedAt (ty : BitVec 5) (w : Nat) (i : Nat) : Nat := w / 2 ^ (containerBits ty * i) % 2 ^ (numTyOf ty).bits

/-- An element placed in position i. -/
def packAt (ty : BitVec 5) (i x : Nat) : Nat := x * 2 ^ (containerBits ty * i)

/-- Replace position i of a packed word; the spare bits of its container become zero (R47). -/
def setPacked (ty : BitVec 5) (w i x : Nat) : Nat :=
  let cb := containerBits ty
  w - (w / 2 ^ (cb * i) % 2 ^ cb) * 2 ^ (cb * i) + packAt ty i x

/-- A comparison of two elements (R316): with a NaN only NE and NAN hold. -/
def fCmp (f : Fmt) (cc a b : Nat) : Bool :=
  match f.val a, f.val b with
  | .nan _, _ | _, .nan _ => cc == 1 || cc == 7
  | x, y =>
    match cc with
    | 0 => eqVals x y
    | 1 => !eqVals x y
    | 2 => ltNum x y
    | 3 => ltNum x y || eqVals x y
    | 4 => ltNum y x
    | 5 => ltNum y x || eqVals x y
    | 6 => true
    | _ => false

/-- The class mask of an element (R346). -/
def fClass (f : Fmt) (x : Nat) : Nat :=
  let mag := x % f.signBit
  let neg := decide (f.signBit ≤ x)
  let sub := decide (mag < 2 ^ f.man)
  let bit := match f.val x with
    | .nan _ => if x / f.quiet % 2 = 1 then 1 else 0
    | .inf _ => if neg then 2 else 9
    | .fin _ _ _ =>
      if mag = 0 then (if neg then 5 else 6)
      else if sub then (if neg then 4 else 7)
      else (if neg then 3 else 8)
  2 ^ bit

/-- A 32-bit result of an element operation. -/
def LaneOut.of (r : FRes) : LaneOut := { v := BitVec.ofNat 64 r.bits, evs := [(0, r.ev)] }

/-- The low bits of an operand that hold an element of a format (R335). -/
def elemBits (f : Fmt) (v : Word64) : Nat := v.toNat % 2 ^ f.bits

/-- The element index that RSN uses for position i of a destination in a lane (R289). -/
def Dest.elem (d : Dest) (l i : Nat) : Nat := if d.isS then i else vElemIndex d.code l i

/-- A float RR instruction of n sources: an operation on the low element of each, rounded by RM (R345). XU results are in flight under their scoreboard (R371). -/
def State.floatOp (s : State) (f : RR) (n : Nat) (xu : Bool) (op : Fmt → Rnd → Nat → Nat → Nat → FRes) : Host.Outcome State Fault Refusal :=
  asWarp s fun c k w =>
    let d : Dest := { code := f.dst.toNat, isS := f.ud, wide := false, ty := f.ty, sbd := if xu then some f.sbd.toNat else none }
    let fm := fmtOf f.ty
    s.laneRun c k w f.g (RR.srcs f n false) d fun l =>
      LaneOut.of (op fm (s.rndFor c k w l f.rm (d.elem l 0))
        (elemBits fm (s.rrVal c k w f false l 0)) (elemBits fm (s.rrVal c k w f false l 1)) (elemBits fm (s.rrVal c k w f false l 2)))

/-- A packed-half instruction: the operation on each half (R347). -/
def State.halfOp (s : State) (f : RR) (n : Nat) (op : Fmt → Rnd → Nat → Nat → Nat → FRes) : Host.Outcome State Fault Refusal :=
  asWarp s fun c k w =>
    let d : Dest := { code := f.dst.toNat, isS := f.ud, wide := false, ty := f.ty }
    let fm := fmtOf f.ty
    s.laneRun c k w f.g (RR.srcs f n false) d fun l =>
      let half := fun (i : Nat) =>
        let v := fun (j : Nat) => (s.rrVal c k w f false l j).toNat / 2 ^ (16 * i) % 2 ^ 16
        op fm (s.rndFor c k w l f.rm (d.elem l i)) (v 0) (v 1) (v 2)
      let r0 := half 0
      let r1 := half 1
      { v := BitVec.ofNat 64 (r0.bits + r1.bits * 2 ^ 16), evs := [(0, r0.ev), (1, r1.ev)] }

end Sys2Proof.Machine
end

