-- ==== Sys2Proof/Machine/Convert.lean ====
section
/-! DEFINITION. The conversions of the warps (R348-R351). -/
namespace Sys2Proof.Machine
open Sys2Proof

/-- CVT: one element, the source type in SC[22:18] (R348). -/
def execCvt (f : RR) (s : State) : Host.Outcome State Fault Refusal :=
  asWarp s fun c k w =>
    let st := f.sc.extractLsb' 0 5
    let d : Dest := { code := f.dst.toNat, isS := f.ud, wide := ty64 f.ty, ty := f.ty }
    s.laneRun c k w f.g (RR.srcs f 1 (ty64 st)) d fun l =>
      LaneOut.of (cvtElem (numTyOf f.ty) (numTyOf st) (s.rndFor c k w l f.rm (d.elem l 0)) f.nsat
        ((s.rrVal c k w f (ty64 st) l 0).toNat % 2 ^ (numTyOf st).bits))

/-- CVTPK: two F32 sources into positions 0 and 1, the other positions from c (R349). -/
def execCvtpk (f : RR) (s : State) : Host.Outcome State Fault Refusal :=
  asWarp s fun c k w =>
    let d : Dest := { code := f.dst.toNat, isS := f.ud, wide := false, ty := f.ty }
    let n := positions f.ty
    s.laneRun c k w f.g (RR.srcs f (if n = 2 then 2 else 3) false) d fun l =>
      let one := fun (i : Nat) => cvtElem (numTyOf f.ty) (.flt .f32) (s.rndFor c k w l f.rm (d.elem l i)) f.nsat (s.rrVal c k w f false l i).toNat
      let r0 := one 0
      let r1 := one 1
      let cv := (s.rrVal c k w f false l 2).toNat
      let rest := (List.range (n - 2)).foldl (fun (v : Nat) i => v + packAt f.ty (i + 2) (packedAt f.ty cv i)) 0
      { v := BitVec.ofNat 64 (packAt f.ty 0 r0.bits + packAt f.ty 1 r1.bits + rest), evs := [(0, r0.ev), (1, r1.ev)] }

/-- CVTQ: a scaled by 2^−(e − 127) with e := b[7:0] into position 0, the other positions from c (R350). -/
def execCvtq (f : RR) (s : State) : Host.Outcome State Fault Refusal :=
  asWarp s fun c k w =>
    let d : Dest := { code := f.dst.toNat, isS := f.ud, wide := false, ty := f.ty }
    let n := positions f.ty
    s.laneRun c k w f.g (RR.srcs f 3 false) d fun l =>
      let e := (s.rrVal c k w f false l 1).toNat % 256
      let r := cvtScaled (numTyOf f.ty) (s.rndFor c k w l f.rm (d.elem l 0)) f.nsat e (s.rrVal c k w f false l 0).toNat
      let cv := (s.rrVal c k w f false l 2).toNat
      let rest := (List.range (n - 1)).foldl (fun (v : Nat) i => v + packAt f.ty (i + 1) (packedAt f.ty cv i)) 0
      { v := BitVec.ofNat 64 (packAt f.ty 0 r.bits + rest), evs := [(0, r.ev)] }

/-- FRND: to an integral F32 value (R351). -/
def execFrnd (f : RR) (s : State) : Host.Outcome State Fault Refusal := s.floatOp f 1 false fun _ r a _ _ => fRnd r a

end Sys2Proof.Machine
end

