-- ==== Sys2Proof/Machine/Float.lean ====
section
/-! DEFINITION. The floating-point instructions of the warps (R345-R347). -/
namespace Sys2Proof.Machine
open Sys2Proof

/-- FADD (R345). -/
def execFadd (f : RR) (s : State) : Host.Outcome State Fault Refusal := s.floatOp f 2 false fun fm r a b _ => fAdd fm r a b
/-- FSUB (R345). -/
def execFsub (f : RR) (s : State) : Host.Outcome State Fault Refusal := s.floatOp f 2 false fun fm r a b _ => fSub fm r a b
/-- FMUL (R345). -/
def execFmul (f : RR) (s : State) : Host.Outcome State Fault Refusal := s.floatOp f 2 false fun fm r a b _ => fMul fm r a b
/-- NA, MD[7] (R316). -/
def RR.na (f : RR) : Bool := f.md.getLsbD 1
/-- NC, MD[6] (R316). -/
def RR.nc (f : RR) : Bool := f.md.getLsbD 0
/-- FFMA (R345). -/
def execFfma (f : RR) (s : State) : Host.Outcome State Fault Refusal := s.floatOp f 3 false fun fm r a b c => fFma fm r (RR.na f) (RR.nc f) a b c
/-- FMIN (R345). -/
def execFmin (f : RR) (s : State) : Host.Outcome State Fault Refusal := s.floatOp f 2 false fun fm _ a b _ => fMin fm a b
/-- FMAX (R345). -/
def execFmax (f : RR) (s : State) : Host.Outcome State Fault Refusal := s.floatOp f 2 false fun fm _ a b _ => fMax fm a b
/-- FCMP (R316, R345). -/
def execFcmp (f : RR) (s : State) : Host.Outcome State Fault Refusal :=
  asWarp s fun c k w =>
    let fm := fmtOf f.ty
    s.predRun c k w f.g (RR.srcs f 2 false) f.dst.toNat fun l =>
      fCmp fm f.cc (elemBits fm (s.rrVal c k w f false l 0)) (elemBits fm (s.rrVal c k w f false l 1))
/-- FCLASS (R346). -/
def execFclass (f : RR) (s : State) : Host.Outcome State Fault Refusal := s.floatOp f 1 false fun fm _ a _ _ => ⟨fClass fm a, 0⟩
/-- FRCP (R299, R345). -/
def execFrcp (f : RR) (s : State) : Host.Outcome State Fault Refusal := s.floatOp f 1 true fun fm r a _ _ => fRcp fm r a
/-- FRSQ (R299, R345). -/
def execFrsq (f : RR) (s : State) : Host.Outcome State Fault Refusal := s.floatOp f 1 true fun fm r a _ _ => fRsq fm r a
/-- FSQRT (R299, R345). -/
def execFsqrt (f : RR) (s : State) : Host.Outcome State Fault Refusal := s.floatOp f 1 true fun fm r a _ _ => fSqrt fm r a
/-- FEXP2 (R299, R345). -/
def execFexp2 (f : RR) (s : State) : Host.Outcome State Fault Refusal := s.floatOp f 1 true fun fm r a _ _ => fExp2 fm r a
/-- FLOG2 (R299, R345). -/
def execFlog2 (f : RR) (s : State) : Host.Outcome State Fault Refusal := s.floatOp f 1 true fun fm r a _ _ => fLog2 fm r a
/-- FTANH (R299, R345). -/
def execFtanh (f : RR) (s : State) : Host.Outcome State Fault Refusal := s.floatOp f 1 true fun fm r a _ _ => fTanh fm r a
/-- FDIV (R299, R345). -/
def execFdiv (f : RR) (s : State) : Host.Outcome State Fault Refusal := s.floatOp f 2 true fun fm r a b _ => fDiv fm r a b
/-- FSCALE, b read as I32 (R345). -/
def execFscale (f : RR) (s : State) : Host.Outcome State Fault Refusal :=
  s.floatOp f 2 false fun fm r a b _ => fScale fm r a (BitVec.ofNat 32 b).toInt
/-- HADD2 (R347). -/
def execHadd2 (f : RR) (s : State) : Host.Outcome State Fault Refusal := s.halfOp f 2 fun fm r a b _ => fAdd fm r a b
/-- HMUL2 (R347). -/
def execHmul2 (f : RR) (s : State) : Host.Outcome State Fault Refusal := s.halfOp f 2 fun fm r a b _ => fMul fm r a b
/-- HFMA2 (R347). -/
def execHfma2 (f : RR) (s : State) : Host.Outcome State Fault Refusal := s.halfOp f 3 fun fm r a b c => fFma fm r (RR.na f) (RR.nc f) a b c

end Sys2Proof.Machine
end

