-- ==== Sys2Proof/Machine/Integer.lean ====
section
/-! DEFINITION. The integer instructions (R340-R344) and NOP (R310). -/
namespace Sys2Proof.Machine
open Sys2Proof

/-- NOP has no effect in a warp clause or in any slot (R310). -/
def execNop (_f : NopF) (s : State) : Host.Outcome State Fault Refusal :=
  match s.cur with
  | .slot _ _ => .next s
  | _ => asWarp s fun _ _ _ => .done s

/-- IADD (R340). -/
def execIadd (f : RR) (s : State) : Host.Outcome State Fault Refusal := s.intOp f 2 opAdd
/-- ISUB (R340). -/
def execIsub (f : RR) (s : State) : Host.Outcome State Fault Refusal := s.intOp f 2 opSub
/-- IMUL (R340). -/
def execImul (f : RR) (s : State) : Host.Outcome State Fault Refusal := s.intOp f 2 opMul
/-- IMULH (R340). -/
def execImulh (f : RR) (s : State) : Host.Outcome State Fault Refusal := s.intOp f 2 opMulh
/-- IMAD (R340). -/
def execImad (f : RR) (s : State) : Host.Outcome State Fault Refusal := s.intOp f 3 opMad
/-- IMIN (R340). -/
def execImin (f : RR) (s : State) : Host.Outcome State Fault Refusal := s.intOp f 2 opMin
/-- IMAX (R340). -/
def execImax (f : RR) (s : State) : Host.Outcome State Fault Refusal := s.intOp f 2 opMax
/-- IABS (R340). -/
def execIabs (f : RR) (s : State) : Host.Outcome State Fault Refusal := s.intOp f 1 opAbs
/-- AND (R340). -/
def execAnd (f : RR) (s : State) : Host.Outcome State Fault Refusal := s.intOp f 2 opAnd
/-- OR (R340). -/
def execOr (f : RR) (s : State) : Host.Outcome State Fault Refusal := s.intOp f 2 opOr
/-- XOR (R340). -/
def execXor (f : RR) (s : State) : Host.Outcome State Fault Refusal := s.intOp f 2 opXor
/-- NOT (R340). -/
def execNot (f : RR) (s : State) : Host.Outcome State Fault Refusal := s.intOp f 1 opNot
/-- SHL (R340). -/
def execShl (f : RR) (s : State) : Host.Outcome State Fault Refusal := s.intOp f 2 opShl
/-- SHR (R340). -/
def execShr (f : RR) (s : State) : Host.Outcome State Fault Refusal := s.intOp f 2 opShr
/-- SHA (R340). -/
def execSha (f : RR) (s : State) : Host.Outcome State Fault Refusal := s.intOp f 2 opSha
/-- ROT (R340). -/
def execRot (f : RR) (s : State) : Host.Outcome State Fault Refusal := s.intOp f 2 opRot
/-- POPC (R340). -/
def execPopc (f : RR) (s : State) : Host.Outcome State Fault Refusal := s.intOp f 1 opPopc
/-- CLZ (R340). -/
def execClz (f : RR) (s : State) : Host.Outcome State Fault Refusal := s.intOp f 1 opClz
/-- CTZ (R340). -/
def execCtz (f : RR) (s : State) : Host.Outcome State Fault Refusal := s.intOp f 1 opCtz
/-- BREV (R340). -/
def execBrev (f : RR) (s : State) : Host.Outcome State Fault Refusal := s.intOp f 1 opBrev
/-- BFE (R341). -/
def execBfe (f : RR) (s : State) : Host.Outcome State Fault Refusal := s.intOp f 2 opBfe
/-- BFI (R341). -/
def execBfi (f : RR) (s : State) : Host.Outcome State Fault Refusal := s.intOp f 3 opBfi
/-- LEA (R340). -/
def execLea (f : RR) (s : State) : Host.Outcome State Fault Refusal := s.intOp f 3 opLea

/-- SEL (R336, R340, R344): with an s destination the predicate must agree in the lanes that take part. -/
def execSel (f : RR) (s : State) : Host.Outcome State Fault Refusal :=
  let wide := ty64 f.ty
  let wd := tyWidth f.ty
  match s.cur with
  | .slot _ _ => asSlot s f.g fun c _ q =>
    let v := if s.qReg q (f.sc.toNat - 0x40) then s.xlReg q f.sa else s.xlReg q f.sb
    .ok (s.later c 1 1 (xlWrite f.dst (extendS f.ty wide (truncTo wd v))))
  | _ => asWarp s fun c k w =>
    let p := fun l => s.predBit c k w l f.sc.toNat
    let d : Dest := { code := f.dst.toNat, isS := f.ud, wide := wide, ty := f.ty }
    let run := s.laneRun c k w f.g (RR.srcs f 2 wide) d fun l =>
      { v := if p l then s.rrVal c k w f wide l 0 else s.rrVal c k w f wide l 1 }
    if f.ud then
      match s.prep c k w { g := f.g, srcs := RR.srcs f 2 wide, sdst := true } with
      | .error r => r
      | .ok lanes =>
        let ls := lanesOf lanes
        if ls.all p || ls.all (fun l => !p l) then run else wholeTrap w .nonuniform
    else run

/-- ICMP (R342, R344). -/
def execIcmp (f : RR) (s : State) : Host.Outcome State Fault Refusal :=
  let wide := ty64 f.ty
  let wd := tyWidth f.ty
  match s.cur with
  | .slot _ _ => asSlot s f.g fun c _ q =>
    .ok (s.later c 1 1 (qWrite (f.dst.toNat - 0x40)
      (intCmp wd (tySigned f.ty) f.cc (truncTo wd (s.xlReg q f.sa)) (truncTo wd (s.xlReg q f.sb)))))
  | _ => asWarp s fun c k w =>
    s.predRun c k w f.g (RR.srcs f 2 wide) f.dst.toNat fun l =>
      intCmp wd (tySigned f.ty) f.cc (s.rrVal c k w f wide l 0) (s.rrVal c k w f wide l 1)

/-- IADDI (R343). -/
def execIaddi (f : RI) (s : State) : Host.Outcome State Fault Refusal := s.immOp f opAdd
/-- IMULI (R343). -/
def execImuli (f : RI) (s : State) : Host.Outcome State Fault Refusal := s.immOp f opMul
/-- ANDI (R343). -/
def execAndi (f : RI) (s : State) : Host.Outcome State Fault Refusal := s.immOp f opAnd
/-- ORI (R343). -/
def execOri (f : RI) (s : State) : Host.Outcome State Fault Refusal := s.immOp f opOr
/-- XORI (R343). -/
def execXori (f : RI) (s : State) : Host.Outcome State Fault Refusal := s.immOp f opXor

/-- The comparison code of ICMPI, DST[49:46] (R317). -/
def RI.cc (f : RI) : Nat := (f.dst.extractLsb' 4 4).toNat
/-- The predicate of ICMPI, DST[44:42] (R317). -/
def RI.pred (f : RI) : Nat := (f.dst.extractLsb' 0 3).toNat

/-- ICMPI (R317, R343, R344): 32 bits in a warp, 64 bits in the S slot. -/
def execIcmpi (f : RI) (s : State) : Host.Outcome State Fault Refusal :=
  match s.cur with
  | .slot _ _ => asSlot s f.g fun c _ q =>
    .ok (s.later c 1 1 (qWrite (RI.pred f) (intCmp 64 true (RI.cc f) (s.xlReg q f.sa) (RI.simm f))))
  | _ => asWarp s fun c k w =>
    let src : Src := ⟨f.sa.toNat, RI.aS f, false⟩
    s.predRun c k w f.g [src] (RI.pred f) fun l =>
      intCmp 32 true (RI.cc f) (s.readSrc c k w l src).1 (truncTo 32 (RI.simm f))

end Sys2Proof.Machine
end

