-- ==== Sys2Proof/Machine/Link.lean ====
section
/-! DEFINITION. The bridge's link layer: flits and messages as bytes (R139-R143), replay and flow control (R144-R146), and what happens when a module goes down (R151-R153). -/
namespace Sys2Proof.Machine
open Sys2Proof

/-! Message types (R143). -/

/-- Flow-control classes, numbered from the low bit of the hold bits HOLDW, HOLDS, HOLDQ (R140, R145); RSP is never held. -/
inductive MsgClass where
  | wbk
  | snp
  | req
  | rsp
  deriving DecidableEq, Repr

/-- One row of the table of message types: TYPE, message, class, whether it is a line message (R143). -/
structure MsgType where
  code : Nat
  step : Instr
  cls : MsgClass
  line : Bool
  deriving DecidableEq, Repr

/-- The table of message types (R143). -/
def msgTypes : List MsgType :=
  [⟨0x01, .rds, .req, false⟩, ⟨0x02, .rdx, .req, false⟩, ⟨0x03, .upg, .req, false⟩, ⟨0x04, .wb, .wbk, true⟩, ⟨0x05, .evc, .wbk, false⟩,
   ⟨0x06, .atm, .req, false⟩, ⟨0x07, .ncr, .req, false⟩, ⟨0x08, .ncw, .req, false⟩] ++
  [⟨0x10, .inv, .snp, false⟩, ⟨0x11, .fwds, .snp, false⟩, ⟨0x12, .fwdi, .snp, false⟩,
   ⟨0x20, .gntx, .rsp, false⟩, ⟨0x21, .wback, .rsp, false⟩, ⟨0x22, .invack, .rsp, false⟩, ⟨0x23, .fwdack, .rsp, false⟩,
   ⟨0x24, .atmr, .rsp, false⟩, ⟨0x25, .ncwack, .rsp, false⟩] ++
  [⟨0x30, .datas, .rsp, true⟩, ⟨0x31, .datae, .rsp, true⟩, ⟨0x32, .datam, .rsp, true⟩, ⟨0x33, .fwddata, .rsp, true⟩, ⟨0x34, .ncrd, .rsp, true⟩]

/-- The row of a message. -/
def msgTypeOf (i : Instr) : Option MsgType := msgTypes.find? fun t => decide (t.step = i)
/-- The row of a TYPE value; every other value is reserved (R143). -/
def msgTypeAt (code : Nat) : Option MsgType := msgTypes.find? fun t => t.code == code
/-- The class of a message. -/
def msgClass (i : Instr) : MsgClass := ((msgTypeOf i).map MsgType.cls).getD .rsp
/-- Does a message take three slots (R141)? -/
def isLineMsg (i : Instr) : Bool := ((msgTypeOf i).map MsgType.line).getD false
/-- The bit of a class among the hold bits, from HOLDW up (R140). -/
def MsgClass.bit : MsgClass → Nat
  | .wbk => 1
  | .snp => 2
  | .req => 4
  | .rsp => 0

/-! Messages as bytes (R141, R142). -/

/-- Bytes padded with zeros to a length. -/
def padTo (n : Nat) (b : List Byte) : List Byte := b.take n ++ List.replicate (n - b.length) 0

/-- The first 16 bytes of a message (R142). -/
def msgHead (t : MsgType) (m : BridgeMsg) : List Byte :=
  let flags := (if m.dirty then 1 else 0) + (if m.stale then 2 else 0) + (if m.tagUnv then 4 else 0)
  leBytes 1 t.code ++ leBytes 1 m.status.toNat ++ leBytes 2 m.txid.toNat ++ leBytes 1 flags ++
  leBytes 1 (if t.line then m.spois.toNat % 4 else 0) ++ leBytes 2 0 ++ leBytes 8 m.paddr.toNat

/-- A message as the bytes of its slots: 60 for a short message, 180 for a line message (R141, R142). -/
def msgBytes (t : MsgType) (m : BridgeMsg) : List Byte :=
  if t.line then padTo 180 (msgHead t m ++ List.replicate 16 0 ++ padTo 128 m.data)
  else msgHead t m ++ leBytes 16 m.opa.toNat ++ leBytes 16 m.opb.toNat ++ leBytes 12 m.opx.toNat

/-- Bytes of a list from an offset, as a number. -/
def fieldIn (b : List Byte) (off n : Nat) : Nat := leNat ((b.drop off).take n)

/-- A message read from its slots at the receiving die; none for a reserved TYPE, a shape that is not the TYPE's, or a nonzero reserved field (R141-R143). -/
def readMsg (die : Nat) (line : Bool) (b : List Byte) : Option (Instr × BridgeMsg) :=
  match msgTypeAt (fieldIn b 0 1) with
  | none => none
  | some t =>
    let flags := fieldIn b 4 1
    let operands := match t.step with
      | .atm => 44
      | .atmr | .ncw => 16
      | _ => 0
    let bad := (t.line != line) || decide (8 ≤ flags) || (fieldIn b 6 2 != 0) || (!line && (fieldIn b 5 1 != 0 || fieldIn b (16 + operands) (44 - operands) != 0)) ||
      (line && (decide (4 ≤ fieldIn b 5 1) || fieldIn b 16 16 != 0 || fieldIn b 160 20 != 0))
    if bad then none
    else some (t.step,
      { die := die
        status := BitVec.ofNat 8 (fieldIn b 1 1)
        txid := BitVec.ofNat 16 (fieldIn b 2 2)
        dirty := flags % 2 == 1
        stale := flags / 2 % 2 == 1
        tagUnv := flags / 4 % 2 == 1
        spois := BitVec.ofNat 8 (fieldIn b 5 1)
        paddr := BitVec.ofNat 64 (fieldIn b 8 8)
        opa := if line then 0 else BitVec.ofNat 128 (fieldIn b 16 16)
        opb := if line then 0 else BitVec.ofNat 128 (fieldIn b 32 16)
        opx := if line then 0 else BitVec.ofNat 96 (fieldIn b 48 12)
        data := if line then (b.drop 32).take 128 else [] })

/-! Flits (R139, R140). -/

/-- One bit of CRC-64 with the ECMA-182 polynomial. -/
def crcBit (c : Nat) : Nat := if 2 ^ 63 ≤ c then Nat.xor (2 * c % 2 ^ 64) 0x42F0E1EBA9EA3693 else 2 * c
/-- Eight bits. -/
def crcByte (c : Nat) (b : Byte) : Nat := Nat.repeat crcBit 8 (Nat.xor c (b.toNat * 2 ^ 56))
/-- CRC-64 with the ECMA-182 polynomial: all ones to start with, inverted at the end (R139); each byte from its most significant bit (log entry 10). -/
def crc64 (b : List Byte) : Nat := Nat.xor (b.foldl crcByte (2 ^ 64 - 1)) (2 ^ 64 - 1)

/-- The slots of messages, each with its kind (R141). -/
def slotsOf (ms : List (Instr × BridgeMsg)) : List (Nat × List Byte) :=
  ms.flatMap fun m => match msgTypeOf m.1 with
    | none => []
    | some t =>
      let b := msgBytes t m.2
      if t.line then [(2, b.take 60), (3, (b.drop 60).take 60), (3, b.drop 120)] else [(1, b)]

/-- What a flit's header says beside its slots (R140). -/
structure FlitHead where
  fseq : Nat
  fack : Nat
  nak : Bool
  held : Nat
  deriving DecidableEq, Repr

/-- The 256 bytes of a flit (R139, R140). -/
def flitBytes (h : FlitHead) (ms : List (Instr × BridgeMsg)) : List Byte :=
  let sl := (slotsOf ms).take 4 ++ List.replicate (4 - (slotsOf ms).length) (0, List.replicate 60 0)
  let kinds := sl.foldl (fun k x => k * 8 + x.1) 0
  let w := h.fseq * 2 ^ 52 + h.fack * 2 ^ 40 + (if h.nak then 2 ^ 39 else 0) +
    (if h.held / 4 % 2 = 1 then 2 ^ 38 else 0) + (if h.held / 2 % 2 = 1 then 2 ^ 37 else 0) + (if h.held % 2 = 1 then 2 ^ 36 else 0) + kinds * 2 ^ 24
  let body := leBytes 8 w ++ sl.flatMap Prod.snd
  body ++ leBytes 8 (crc64 body)

/-- The header of a flit's bytes. -/
def flitHead (b : List Byte) : FlitHead :=
  let w := fieldIn b 0 8
  { fseq := w / 2 ^ 52, fack := w / 2 ^ 40 % 4096, nak := w / 2 ^ 39 % 2 == 1, held := w / 2 ^ 38 % 2 * 4 + w / 2 ^ 37 % 2 * 2 + w / 2 ^ 36 % 2 }

/-- The four slots of a flit's bytes with their kinds. -/
def flitSlots (b : List Byte) : List (Nat × List Byte) :=
  (List.range 4).map fun i => (fieldIn b 0 8 / 2 ^ (33 - 3 * i) % 8, (b.drop (8 + 60 * i)).take 60)

/-- The messages of slots, after the part of a line message that came before, with the part now left over; none where the slots make their flit fail (R141). -/
def readSlots (die : Nat) (carry : List Byte) : List (Nat × List Byte) → Option (List (Instr × BridgeMsg) × List Byte)
  | [] => some ([], carry)
  | (kind, b) :: rest =>
    let more := fun (m : Option (Instr × BridgeMsg)) => match m, readSlots die [] rest with
      | some x, some r => some (x :: r.1, r.2)
      | _, _ => none
    match kind with
    | 0 => if b.all (· == 0) then readSlots die [] rest else none
    | 1 => more (readMsg die false b)
    | 2 => readSlots die b rest
    | 3 => if carry.isEmpty then none else if carry.length = 120 then more (readMsg die true (carry ++ b)) else readSlots die (carry ++ b) rest
    | _ => none

/-- Does a flit arrive CRC-clean, and with what (R139, R141)? -/
def readFlit (die : Nat) (carry : List Byte) (b : List Byte) : Option (List (Instr × BridgeMsg) × List Byte) :=
  if b.length = 256 ∧ fieldIn b 248 8 = crc64 (b.take 248) ∧ fieldIn b 0 3 = 0 then readSlots die carry (flitSlots b) else none

/-! The modules of a die. -/

/-- The state of a module at a die. -/
def State.link (s : State) (die module : Nat) : BLink := s.links.getD (die * 16 + module) {}
/-- Replace the state of a module at a die. -/
def State.setLink (s : State) (die module : Nat) (l : BLink) : State := { s with links := s.links.put (die * 16 + module) l }

/-- The modules in service (R175). -/
def State.modules (s : State) : List Nat := (List.range 16).filter fun m => match s.boot with
  | some b => !b.brret.getLsbD m
  | none => true

/-- The module of a line or of a target address (R138, R175). -/
def State.moduleOf (s : State) (n : Nat) : Nat := s.modules.getD (Config.lineHash n % s.modules.length) 0

/-- Requests of the other die that wait at the homes of a die on one module (R148). -/
def State.waitingRemote (s : State) (die module : Nat) : Nat :=
  ((s.lines.filter fun e => lineHome e.1 == die && s.moduleOf e.1 == module).map fun e => (e.2.waiting.filter fun r => match r with
    | .remote _ _ => true
    | _ => false).length).foldl (· + ·) 0

/-- Is a turn a message of a class that a die has received on a module? -/
def State.isBuffered (s : State) (die module : Nat) (k : MsgClass) (t : Turn) : Bool :=
  match t with
  | .ev i a => (msgTypeOf i).isSome && decide (msgClass i = k) && a.msg.die == die && s.moduleOf (msgLine a.msg) == module
  | _ => false

/-- The entries taken in the buffer of a class at a die's module: messages received and not yet acted on, requests that wait at a line among them (R145). -/
def State.buffered (s : State) (die module : Nat) (k : MsgClass) : Nat :=
  (s.agenda.filter (s.isBuffered die module k)).length + (if k = .req then s.waitingRemote die module else 0)

/-- Is a class held at a die's module: its buffer has fewer than 64 of 192 entries free, or has had and 96 are not free yet (R145)? -/
def State.holds (s : State) (die module : Nat) (k : MsgClass) : Bool :=
  let n := s.buffered die module k
  decide (128 < n) || ((s.link die module).holdOut / k.bit % 2 == 1 && decide (96 < n))

/-- The header of the flit that a die's module builds next. -/
def State.headOf (s : State) (die module : Nat) : FlitHead :=
  let l := s.link die module
  { fseq := l.fseq, fack := (l.expect + 4095) % 4096, nak := l.nak
    held := ([MsgClass.req, .snp, .wbk].map fun k => if s.holds die module k then k.bit else 0).foldl (· + ·) 0 }

/-! Sending (R144-R146). -/

/-- Choose the messages of one flit, in order: those already held back with the lines they block, the slots still free, those chosen; a message behind a held one about the same line waits with it (R145, R146), and one that does not fit ends the flit. -/
def chooseMsgs (held : Nat) : List (Instr × BridgeMsg) → List Nat → Nat → List (Instr × BridgeMsg) × List (Instr × BridgeMsg)
  | [], _, _ => ([], [])
  | m :: rest, blocked, free =>
    let n := msgLine m.2
    let need := if isLineMsg m.1 then 3 else 1
    if blocked.contains n || ((msgClass m.1).bit != 0 && held / (msgClass m.1).bit % 2 == 1) then
      let r := chooseMsgs held rest (n :: blocked) free
      (r.1, m :: r.2)
    else if free < need then ([], m :: rest)
    else
      let r := chooseMsgs held rest blocked (free - need)
      (m :: r.1, r.2)

/-- Cycles between the empty flits of a module with nothing to send: a flit takes 3.3 (R138, R144; log entry 4). -/
def emptyFlitEvery : Nat := 4

/-- A die's module builds at most one flit: with messages, or empty where something is to be acknowledged or a flit's time has passed (R144). It stays as it is until FACK passes it. -/
def State.transmitOn (s : State) (die module : Nat) : State :=
  let l := s.link die module
  let mine := fun (m : Instr × BridgeMsg) => m.2.die != die && s.moduleOf (msgLine m.2) == module
  let c := chooseMsgs l.held (s.wire.filter mine) [] 4
  let h := s.headOf die module
  if l.unacked.length ≥ 128 || (c.1.isEmpty && !l.owes && s.clock % emptyFlitEvery != 0) then s
  else
    let s1 := s.setLink die module { l with
      fseq := (l.fseq + 1) % 4096
      unacked := l.unacked ++ [(l.fseq, flitBytes h c.1)]
      fly := l.fly ++ [l.fseq]
      advanced := if l.unacked.isEmpty then s.clock else l.advanced
      owes := false
      nak := false
      holdOut := h.held }
    { s1 with wire := (s.wire.filter fun m => !mine m) ++ c.2 }

/-- Every module of both dies sends (R138), once the boot has trained them (R458). -/
def State.transmit (s : State) : State :=
  if s.bridgeDown || (s.boot.isNone && s.wire.isEmpty && s.links.all fun e => !e.2.owes) then s
  else s.modules.foldl (fun (s : State) m => (s.transmitOn 0 m).transmitOn 1 m) s

/-- The flit that is next to arrive at a die's module, as its bytes. -/
def State.arriving (s : State) (die module : Nat) : Option (List Byte) :=
  match (s.link (1 - die) module).fly with
  | [] => none
  | q :: _ => ((s.link (1 - die) module).unacked.find? fun x => x.1 == q).map Prod.snd

/-! When the bridge fails (R151-R153). -/

/-- A line's entry once the bridge is down, and whether the line is poisoned (R152, R153): no remote copy, no remote request. -/
def DirLine.cut (l : DirLine) : DirLine × Bool :=
  let isLocal := fun (r : HomeReq) => match r with
    | .remote _ _ => false
    | _ => true
  let kept := l.waiting.filter isLocal
  let first := match l.serving with
    | some r => if isLocal r then [r] else []
    | none => []
  let l1 : DirLine := { l with home := .di, rem := .i, remCopy := none, remWrites := [], serving := none, waiting := first ++ kept }
  match l.home with
  | .de | .hwInv | .hwFs | .hwFi => (l1, true)
  | _ => (l1, false)

/-- One line when the bridge goes down: converted, then the requests that waited are served in DI; writes from the other die are discarded and end their contexts (R152, R153). -/
def State.cutLine (s : State) (n : Nat) : State :=
  let l := s.line n
  let c := l.cut
  let s1 := s.setLine n c.1
  let s2 := if c.2 then ((({ s1 with poison := (s1.poison.put (2 * n) (n * 128)).put (2 * n + 1) (n * 128 + 64) } : State).fillHome n false).writeMel (lineHome n) { pa := n * 128, status := 5 }) else s1
  let s3 := s2.drain n c.1.waiting.length
  l.remWrites.foldl (fun (s : State) x => s.terminate x.1 6) s3

/-- Copies of the other die's lines in the L1s and instruction buffers are dropped (R153). -/
def Core.cutLines (k : Core) (die : Nat) : Core :=
  { k with l1 := k.l1.filter fun e => lineHome e.1 == die, ibuf := k.ibuf.filter fun e => lineHome e.1 == die }

/-- The bridge goes down because of one module: both dies log it and raise it, every module stops, the lines are converted, atomics on their way complete poisoned (R151-R155). -/
def State.bridgeFails (s : State) (module : Nat) : State :=
  if s.bridgeDown then s
  else
    let quiet := mapVals s.links fun (_ : Nat) (l : BLink) => { l with fly := [], owes := false, nak := false }
    let trim := mapVals s.cores fun (c : Nat) (k : Core) => k.cutLines (dieOf c)
    let s1 := { s with bridgeDown := true, wire := [], links := quiet, cores := trim }
    let rec1 : MemErr := { status := 7, uclass := 7, uindex := module }
    let s2 := ((s1.writeMel 0 rec1).writeMel 1 rec1).interrupt (.bridge module)
    let s3 := if s.frzCtl.onbridge then s2.raiseFreeze else s2
    let s4 := s.lines.foldl (fun (s : State) e => s.cutLine e.1) s3
    (s4.peerReqs.filter fun r => r.pkg == otherDie).foldl (fun (s : State) r => s.atmAnswered r 0 true) s4

/-! Receiving (R144). -/

/-- FACK frees the flits it acknowledges (R144). -/
def BLink.acked (l : BLink) (fack clock : Nat) : BLink :=
  if l.unacked.any fun x => x.1 == fack then
    { l with unacked := (l.unacked.dropWhile fun x => x.1 != fack).drop 1, advanced := clock, timeouts := 0 }
  else l

/-- All unacknowledged flits are sent again in their order (R144). -/
def BLink.replay (l : BLink) : BLink := { l with fly := l.unacked.map Prod.fst }

/-- What a clean flit says about the other direction: FACK, NAK and the hold bits (R144, R145). -/
def BLink.heard (l : BLink) (h : FlitHead) (clock : Nat) : BLink :=
  let l1 := { l.acked h.fack clock with held := h.held }
  if h.nak then l1.replay else l1

/-- The flit leaves the wire. -/
def BLink.sent (l : BLink) : BLink := { l with fly := l.fly.drop 1 }

/-- A failed or skipped flit is discarded and NAK set (R144); `lost` says that it was the one expected. -/
def State.discardFlit (s : State) (die module : Nat) (lost : Bool) : State :=
  let l := s.link die module
  let n := if lost then l.failures + 1 else l.failures
  let s1 := s.setLink die module { l with nak := true, owes := true, failures := n }
  if 8 ≤ n then s1.bridgeFails module else s1

/-- FLIT_RECEIVE (R144): a module of a die receives 256 bytes. A flit that fails its CRC is an error of the module that the replay corrects (R175; log entry 10); was it the one expected, the failure counts (R151). -/
def execFlitReceive (s : State) : Host.Outcome State Fault Refusal :=
  asEvent s fun a =>
    if s.bridgeDown || !(s.modules.contains a.id) then s
    else
      let h := flitHead a.bytes
      let there := s.link (1 - a.die) a.id
      let s1 := s.setLink (1 - a.die) a.id there.sent
      let l := s1.link a.die a.id
      match readFlit a.die l.carry a.bytes with
      | none => (s1.correctedError 7 a.id).discardFlit a.die a.id (there.fly.headD l.expect == l.expect)
      | some r =>
        if h.fseq = l.expect then
          let l1 := { l.heard h s.clock with expect := (l.expect + 1) % 4096, failures := 0, carry := r.2, owes := l.owes || !r.1.isEmpty || !r.2.isEmpty }
          let turns := r.1.map fun m => Turn.ev m.1 { msg := m.2 }
          let s2 := s1.setLink a.die a.id l1
          { s2 with agenda := turns ++ s2.agenda }
        else if (l.expect + 4096 - h.fseq) % 4096 ≤ 128 then s1.setLink a.die a.id { l.acked h.fack s.clock with owes := true }
        else s1.discardFlit a.die a.id false

/-- Has FACK not advanced for 4,096 cycles (R144)? -/
def State.replayDue (s : State) (die module : Nat) : Bool :=
  let l := s.link die module
  !s.bridgeDown && !l.unacked.isEmpty && decide (l.advanced + 4096 ≤ s.clock)

/-- FLIT_REPLAY_TIMEOUT (R144): the unacknowledged flits are sent again; the eighth time for one flit the module is down (R151). -/
def execFlitReplayTimeout (s : State) : Host.Outcome State Fault Refusal :=
  asEvent s fun a =>
    if !s.replayDue a.die a.id then s
    else
      let l := s.link a.die a.id
      if 8 ≤ l.timeouts + 1 then s.bridgeFails a.id
      else s.setLink a.die a.id { l.replay with advanced := s.clock, timeouts := l.timeouts + 1 }

end Sys2Proof.Machine
end

