-- ==== Sys2Proof/Machine/Vec.lean ====
section
/-! DEFINITION. The shared operations of the V slots (R392-R398): selection by a mask, element operations over tiles, reductions, conversions, and what a V word writes. -/
namespace Sys2Proof.Machine
open Sys2Proof

/-- One 32-bit element of a result, with the events of its positions (R289, R308). -/
structure VOut where
  bits : Nat
  evs : List (Nat × BitVec 32) := []
  deriving DecidableEq, Repr

/-- A result with its events at position 0. -/
def VOut.of (r : FRes) : VOut := ⟨r.bits % 2 ^ 32, [(0, r.ev)]⟩

/-- An element operation: the element's number and up to three source elements. -/
abbrev VEl := Nat → Nat → Nat → Nat → VOut

/-- Apply an operation to the selected elements of three lists. -/
def vMap (sel : Nat → Bool) (el : VEl) : Nat → List Elem → List Elem → List Elem → List (Nat × VOut)
  | i, a :: as, b :: bs, c :: cs =>
    if sel i then (i, el i a.bits.toNat b.bits.toNat c.bits.toNat) :: vMap sel el (i + 1) as bs cs else vMap sel el (i + 1) as bs cs
  | _, _, _, _ => []

/-- The selected elements of a list. -/
def selected (sel : Nat → Bool) : Nat → List Elem → List Elem
  | _, [] => []
  | i, x :: t => if sel i then x :: selected sel (i + 1) t else selected sel (i + 1) t

/-- What a result leaves: the written elements and their events. -/
def vResult (t : Nat) (rs : List (Nat × VOut)) : List SeqWrite :=
  .elems t (rs.map fun r => (r.1, { bits := BitVec.ofNat 32 r.2.bits })) ::
  (rs.flatMap fun r => r.2.evs.filterMap fun e => if e.2 = 0 then none else some (.note (16 * r.1 + e.1) e.2))

/-- The elements a V word selects: those of m(MSEL) with MEN, else all (R392). -/
def State.vSel (s : State) (q : Seq) (f : TILE) : Nat → Bool :=
  if f.md.getLsbD 0 then
    let m := s.mReg q (f.md.extractLsb' 1 3).toNat
    fun i => m.getLsbD i
  else fun _ => true

/-- Which pipeline a slot is. -/
def pipeOf (sl : Slot) : Nat := if sl = .v1 then 1 else 0

/-- ILLEGAL while the slot's pipeline is occupied (R392). -/
def vFree (s : State) (q : Seq) (sl : Slot) : Except SErr Unit :=
  if s.clock < (if pipeOf sl = 0 then q.busyV0 else q.busyV1) then .error (.fault .illegal 0) else .ok ()

/-- Occupy the slot's pipeline for 4 cycles (R373). -/
def State.vOccupy (s : State) (c : Nat) (sl : Slot) : State :=
  match s.seq c with
  | some q => s.setSeq c (if pipeOf sl = 0 then { q with busyV0 := s.clock + 4 } else { q with busyV1 := s.clock + 4 })
  | none => s

/-- The tiles of a list of source operands at the word's depth (R71). -/
def State.vSrcs (s : State) (c : Nat) (q : Seq) (d : Nat) : List (BitVec 8) → Except SErr (List Nat)
  | [] => .ok []
  | x :: t => do
    let a ← s.srcTile c q x d
    let r ← s.vSrcs c q d t
    .ok (a :: r)

/-- The rounding of element E by the sequencer's registers (R289, R290). -/
def Seq.rnd (q : Seq) (code elem : Nat) : Rnd := ⟨rmOf code q.rm, rsnU q.seed elem⟩

/-- Finish a V word with a tile destination: the poison of what it reads, the ports, its pipeline, its result (R373, R375). -/
def State.vFinish (s : State) (c : Nat) (sl : Slot) (lat : Nat) (srcs : List Nat) (d : Nat) (read : List Elem) (ws : List SeqWrite) : Except SErr State := do
  let s1 ← s.reserve c (readsAt s.clock srcs) [(s.clock + lat - 1, d)]
  noPoison read
  .ok ((s1.vOccupy c sl).later c (Slot.code sl) lat ws)

/-- A word over elements: n tile sources, an operation given the sequencer and the selection of elements (R392, R393). -/
def State.vOp (s : State) (f : TILE) (n lat : Nat) (el : Seq → VEl) : Host.Outcome State Fault Refusal :=
  asSlot s f.g fun c sl q => do
    vFree s q sl
    let hd := f.hd.toNat
    let ts ← s.vSrcs c q hd ([f.ta, f.tb, f.tc].take n)
    let d ← s.dstTile c q f.dt hd
    let sel := s.vSel q f
    let es := ts.map (s.seqTile c q ·)
    let src := fun (i : Nat) => es.getD i (List.replicate 1024 {})
    s.vFinish c sl lat ts d (es.flatMap (selected sel 0)) (vResult d (vMap sel (el q) 0 (src 0) (src 1) (src 2)))

/-- A float operation on an element of a type: on both halves of a 16-bit type (R392). -/
def fltEl (f : TILE) (op : Fmt → Rnd → Nat → Nat → Nat → FRes) (q : Seq) : VEl := fun i a b c =>
  let fm := fmtOf f.ty
  if f.ty = 8 then VOut.of (op fm (q.rnd f.rm (16 * i)) a b c)
  else
    let half := fun (h : Nat) =>
      let v := fun (x : Nat) => x / 2 ^ (16 * h) % 2 ^ 16
      op fm (q.rnd f.rm (16 * i + h)) (v a) (v b) (v c)
    let r0 := half 0
    let r1 := half 1
    ⟨r0.bits + r1.bits * 2 ^ 16, [(0, r0.ev), (1, r1.ev)]⟩

/-- An integer operation on an element, signed for I32. -/
def intEl (f : TILE) (op : Bool → Int → Int → Int) (_q : Seq) : VEl := fun _ a b _ =>
  let sg := f.ty == 0
  ⟨(op sg (intVal sg 32 a) (intVal sg 32 b) % (2 ^ 32 : Nat)).toNat, []⟩

/-- Of two operations, the float one for a float type. -/
def byType (f : TILE) (flt : Fmt → Rnd → Nat → Nat → Nat → FRes) (int : Bool → Int → Int → Int) : Seq → VEl :=
  if tyFlt f.ty then fltEl f flt else intEl f int

/-- A bitwise operation on elements. -/
def bitEl (op : Nat → Nat → Nat) (_q : Seq) : VEl := fun _ a b _ => ⟨op a b % 2 ^ 32, []⟩

/-- The magnitude of a float element: every bit but the sign (R393). -/
def fAbsBits (fm : Fmt) (a : Nat) : FRes := ⟨a % fm.signBit, 0⟩

/-- VRELU of a float element (R393). -/
def fRelu (fm : Fmt) (a : Nat) : FRes :=
  match fm.val a with
  | .nan b => ⟨fm.quieted b, 0⟩
  | v => if v.isZero || v.neg then ⟨0, 0⟩ else ⟨a, 0⟩

/-! Rotates and broadcasts (R393, R396). -/

/-- A word that moves elements: the source element of each destination element. -/
def State.vMove (s : State) (f : TILE) (lat : Nat) (from_ : Nat → Nat) : Host.Outcome State Fault Refusal :=
  asSlot s f.g fun c sl q => do
    vFree s q sl
    let hd := f.hd.toNat
    let a ← s.srcTile c q f.ta hd
    let d ← s.dstTile c q f.dt hd
    let arr := (s.seqTile c q a).toArray
    let sel := s.vSel q f
    let is_ := (List.range 1024).filter sel
    let at_ := fun (i : Nat) => arr.getD (from_ i) {}
    s.vFinish c sl lat [a] d (is_.map at_) [.elems d (is_.map fun i => (i, { bits := (at_ i).bits }))]

/-! Reductions (R395). -/

/-- The exact sum of F32 elements, rounded once with RNE (R395, R478). -/
def sumF32 (xs : List Nat) : FRes :=
  match firstNan .f32 xs with
  | some n => ⟨n, 0⟩
  | none =>
    let vs := xs.map Fmt.f32.val
    let pos := vs.contains (.inf false)
    let neg := vs.contains (.inf true)
    if pos && neg then invalidRes .f32 3
    else if pos then ⟨Fmt.f32.infBits, 0⟩
    else if neg then ⟨Fmt.f32.signed true Fmt.f32.infBits, 0⟩
    else
      let d := vs.foldl (fun (d : Dy) v => match v with
        | .fin s m e => d.add (Dy.ofFin s m e)
        | _ => d) ⟨0, 0⟩
      roundDy .f32 .rne d (vs.all fun v => v.isZero && v.neg)

/-- A reduction of elements (R395). -/
def reduceEls (ty : BitVec 5) (sub : Nat) (xs : List Nat) : FRes :=
  if ty = 8 then
    match sub, xs with
    | 0, _ => sumF32 xs
    | 1, x :: t => t.foldl (fun (r : FRes) y => fMin .f32 r.bits y) ⟨x, 0⟩
    | _, x :: t => t.foldl (fun (r : FRes) y => fMax .f32 r.bits y) ⟨x, 0⟩
    | _, [] => ⟨0, 0⟩
  else
    let sg := ty == 0
    let v := fun (x : Nat) => intVal sg 32 x
    match sub, xs with
    | 0, _ => ⟨xs.foldl (· + ·) 0 % 2 ^ 32, 0⟩
    | 1, x :: t => ⟨t.foldl (fun (r : Nat) y => if v y < v r then y else r) x, 0⟩
    | _, x :: t => ⟨t.foldl (fun (r : Nat) y => if v r < v y then y else r) x, 0⟩
    | _, [] => ⟨0, 0⟩

/-- A reduction along lines of elements: each line's result goes to the line's selected elements; a line with none is not read. -/
def State.vReduce (s : State) (f : TILE) (lat : Nat) (lines : List (List Nat)) : Host.Outcome State Fault Refusal :=
  asSlot s f.g fun c sl q => do
    vFree s q sl
    let hd := f.hd.toNat
    let a ← s.srcTile c q f.ta hd
    let d ← s.dstTile c q f.dt hd
    let arr := (s.seqTile c q a).toArray
    let sel := s.vSel q f
    let used := lines.filter fun ln => ln.any sel
    let at_ := fun (i : Nat) => arr.getD i {}
    let rs := used.flatMap fun ln =>
      let r := reduceEls f.ty f.sub (ln.map fun i => (at_ i).bits.toNat)
      (ln.filter sel).map fun i => (i, VOut.of r)
    s.vFinish c sl lat [a] d (used.flatMap fun ln => ln.map at_) (vResult d (sortBy (fun (x y : Nat × VOut) => decide (x.1 ≤ y.1)) rs))

/-- The rows of a tile, element by element. -/
def tileRows16 : List (List Nat) := (List.range 16).map fun r => (List.range 64).map fun c => r * 64 + c
/-- The columns of a tile. -/
def tileCols64 : List (List Nat) := (List.range 64).map fun c => (List.range 16).map fun r => r * 64 + c

/-! Conversions (R397). -/

/-- A conversion between the 32-bit side and a view part: `conv` gives the result of a source element for its 32-bit side element and destination element index. A narrowing one also reads DT. -/
def State.vConvert (s : State) (f : TILE) (narrow : BitVec 5) (widening : Bool) (conv : Seq → Nat → Nat → Nat → FRes) : Host.Outcome State Fault Refusal :=
  asSlot s f.g fun c sl q => do
    vFree s q sl
    let hd := f.hd.toNat
    let a ← s.srcTile c q f.ta hd
    let d ← s.dstTile c q f.dt hd
    let p := positions narrow
    let part := (f.tb.extractLsb' 5 3).toNat
    let arr := (s.seqTile c q a).toArray
    let sel := s.vSel q f
    let is_ := (List.range 1024).filter sel
    -- the 32-bit element and position of view element (r, 64 part + c)
    let viewOf := fun (i : Nat) => (i / 64 * 64 + (64 * part + i % 64) / p, (64 * part + i % 64) % p)
    let at_ := fun (i : Nat) => arr.getD i {}
    if widening then
      let rs := is_.map fun i =>
        let v := viewOf i
        (i, VOut.of (conv q i (16 * i) (packedAt narrow (at_ v.1).bits.toNat v.2)))
      s.vFinish c sl 4 [a] d (is_.map fun i => at_ (viewOf i).1) (vResult d rs)
    else
      let old := (s.seqTile c q d).toArray
      let rs := is_.map fun i =>
        let v := viewOf i
        (v, conv q i (16 * v.1 + v.2) (at_ i).bits.toNat)
      let written := (rs.map fun r => r.1.1).eraseDups
      let out := written.map fun e =>
        let mine := rs.filter fun r => r.1.1 == e
        (e, (⟨mine.foldl (fun (w : Nat) r => setPacked narrow w r.1.2 r.2.bits) (old.getD e {}).bits.toNat, mine.map fun r => (r.1.2, r.2.ev)⟩ : VOut))
      let s1 ← s.vFinish c sl 4 [a, d] d (is_.map at_ ++ (if p = 1 then [] else written.map fun e => old.getD e {})) (vResult d (sortBy (fun (x y : Nat × VOut) => decide (x.1 ≤ y.1)) out))
      .ok s1

end Sys2Proof.Machine
end

