-- ==== Sys2Proof/Machine/Mat.lean ====
section
/-! DEFINITION. The shared operations of the matrix engine: K-steps over tiles (R300-R303, R399-R401), the accumulator chain (R374), and the loops of steps (R402). -/
namespace Sys2Proof.Machine
open Sys2Proof

/-- The layout of a K-step (R399, R401): steps in an A tile, columns of A it reads, elements of A and B in a 32-bit element. -/
structure KShape where
  quarters : Nat
  cols : Nat
  perA : Nat
  perB : Nat
  deriving DecidableEq, Repr

/-- The shape of a type's K-step: 32, 64 or 128 terms from a quarter of A; a ternary step reads half of A. -/
def kShape (ternary : Bool) (ty : BitVec 5) : KShape :=
  if ternary then ⟨2, 32, 4, 16⟩ else ⟨4, 16, positions ty, positions ty⟩

/-- Rows of B a K-step reads. -/
def KShape.rowsB (k : KShape) : Nat := k.cols * k.perA / k.perB

/-- An element of a tile held as an array. -/
def elAt (m : Array Elem) (r c : Nat) : Elem := m.getD (r * 64 + c) {}

/-- The elements of A a K-step reads (R399). -/
def stepA (k : KShape) (m : Array Elem) (q : Nat) : List Elem :=
  (List.range 16).flatMap fun r => (List.range k.cols).map fun c => elAt m r (k.cols * q + c)
/-- The elements of B a K-step reads (R399, R401). -/
def stepB (k : KShape) (m : Array Elem) : List Elem :=
  (List.range k.rowsB).flatMap fun r => (List.range 64).map fun c => elAt m r c
/-- The elements of a scale tile a K-step reads (R400). -/
def stepS (m : Array Elem) (q : Nat) : List Elem :=
  ((List.range 16).map fun i => elAt m i q) ++ (List.range 4).flatMap fun b => (List.range 16).map fun c => elAt m (4 * q + b) (16 + c)

/-- The packed fields of a row of A (R399). -/
def rowFields (ty : BitVec 5) (k : KShape) (m : Array Elem) (q i : Nat) : List Nat :=
  (List.range k.cols).flatMap fun c => (List.range k.perA).map fun p => packedAt ty (elAt m i (k.cols * q + c)).bits.toNat p
/-- The packed fields of a column of B (R399). -/
def colFields (ty : BitVec 5) (k : KShape) (m : Array Elem) (j : Nat) : List Nat :=
  (List.range k.rowsB).flatMap fun r => (List.range k.perB).map fun p => packedAt ty (elAt m r j).bits.toNat p
/-- The 2-bit fields of a column of B (R401). -/
def colTri (k : KShape) (m : Array Elem) (j : Nat) : List Nat :=
  (List.range k.rowsB).flatMap fun r => (List.range 16).map fun p => (elAt m r j).bits.toNat / 4 ^ p % 4

/-- A byte of an element of a scale tile, by its 8-bit view column (R400). -/
def scaleAt (m : Array Elem) (r x : Nat) : Nat := (elAt m r (x / 4)).bits.toNat / 256 ^ (x % 4) % 256

/-- One accumulator element after a K-step on a row and a column (R300-R303). -/
def kElem (ternary : Bool) (ty : BitVec 5) (acc : Nat) (row : List Nat) (col : List Nat) (sa sb : List Nat) : FRes :=
  if ternary then
    kstepI acc ((row.zip col).foldl (fun (n : Int) x => n + intVal true 8 x.1 * triVal x.2) 0) (col.contains 2)
  else if ty = 4 then
    kstepI acc ((row.zip col).foldl (fun (n : Int) x => n + intVal true 8 x.1 * intVal true 8 x.2) 0) false
  else
    let fm := fmtOf ty
    kstepF acc ((row.zip col).zipIdx.map fun x => ⟨fm.val x.1.1, fm.val x.1.2, sa.getD (x.2 / 32) 127, sb.getD (x.2 / 32) 127⟩)

/-- The accumulator after one K-step, element by element with its events (R300, R399-R401). `sc` is the scale tile of an E2M1 step. -/
def kStep (ternary : Bool) (ty : BitVec 5) (q : Nat) (acc : List Elem) (a b : Array Elem) (sc : Option (Array Elem)) : List (Nat × VOut) :=
  let k := kShape ternary ty
  let accA := acc.toArray
  let cols := (List.range 64).map fun j => if ternary then colTri k b j else colFields ty k b j
  (List.range 16).flatMap fun i =>
    let row := rowFields ty k a q i
    let sa := match sc with
      | some m => (List.range 4).map fun n => scaleAt m i (4 * q + n)
      | none => []
    cols.zipIdx.map fun cj =>
      let sb := match sc with
        | some m => (List.range 4).map fun n => scaleAt m (4 * q + n) (64 + cj.2)
        | none => []
      (i * 64 + cj.2, VOut.of (kElem ternary ty (elAt accA i cj.2).bits.toNat row cj.1 sa sb))

/-- ILLEGAL while the engine is occupied (R374). -/
def mFree (s : State) (q : Seq) : Except SErr Unit :=
  if s.clock < q.busyM || q.mloop.isSome then .error (.fault .illegal 0) else .ok ()

/-- Occupy the engine for some cycles. -/
def State.mOccupy (s : State) (c n : Nat) : State :=
  match s.seq c with
  | some q => s.setSeq c { q with busyM := s.clock + n }
  | none => s

/-- MMA and MTRN (R399, R401): operands at issue, the accumulator written in cycle issue + 7. -/
def State.mStepOp (s : State) (f : TILE) (ternary : Bool) : Host.Outcome State Fault Refusal :=
  asSlot s f.g fun c sl q => do
    mFree s q
    let hd := f.hd.toNat
    let scaled := !ternary && f.ty == 15
    let ts ← s.vSrcs c q hd (if scaled then [f.ta, f.tb, f.tc] else [f.ta, f.tb])
    let d ← s.needOwn c q f.dt.toNat
    let es := ts.map fun t => (s.mTile c q t).toArray
    let acc := s.mTile c q d
    let a := es.getD 0 #[]
    let b := es.getD 1 #[]
    let sc := if scaled then es[2]? else none
    let k := kShape ternary f.ty
    let s1 ← s.reserve c (readsAt s.clock ts) [(s.clock + 7, d)]
    noPoison (stepA k a f.kq ++ stepB k b ++ (match sc with | some m => stepS m f.kq | none => []) ++ acc)
    .ok ((s1.mOccupy c 4).later c (Slot.code sl) 8 (vResult d (kStep ternary f.ty f.kq acc a b sc)))

/-! Loops of K-steps (R402). -/

/-- The quarter and the handle depth of A in step n. -/
def loopAt (kq quarters ia n : Nat) : Nat × Nat := ((kq + n) % quarters, ia * ((kq + n) / quarters))

/-- The tile a loop's operand names in a step. -/
def State.loopTile (s : State) (c : Nat) (q : Seq) (code : BitVec 8) (d : Nat) : Except SErr Nat := s.srcTile c q code d

/-- The tiles of an operand over the steps of a loop. -/
def State.loopTiles (s : State) (c : Nat) (q : Seq) (code : BitVec 8) : List Nat → Except SErr (List Nat)
  | [] => .ok []
  | d :: t => do
    let a ← s.loopTile c q code d
    let r ← s.loopTiles c q code t
    .ok (a :: r)

/-- The handles a loop's operands name. -/
def loopHandles (codes : List (BitVec 8)) : List Nat := codes.filterMap fun x => if 0x80 ≤ x.toNat ∧ x.toNat < 0x88 then some (x.toNat - 0x80) else none

/-- A tile as a step of a running loop reads it: where DP has passed its slot since the loop's issue, what it held then or what it holds now, each element by itself (R402). -/
def State.loopRead (s : State) (c : Nat) (q : Seq) (l : MLoop) (t : Nat) : Array Elem :=
  let now := s.seqTile c { q with pend := q.pend.filter fun p => p.slot != 4 } t
  match l.released.find? (·.1 == t) with
  | some x => ((now.zip (expand x.2)).zipIdx.map fun e => if Config.freeNew s.free e.2 then e.1.1 else e.1.2).toArray
  | none => now.toArray

/-- Number of K-steps of a loop word (R402). -/
def TILE.steps (f : TILE) : Nat := (f.md.extractLsb' 0 6).toNat + 1

/-- The accumulator after the steps from `n` on, with the operands as they stand. -/
def State.loopFrom (s : State) (c : Nat) (q : Seq) (l : MLoop) : Nat → Nat → Assoc Elem → Assoc Elem
  | 0, _, acc => acc
  | m + 1, n, acc =>
    let f := l.word
    let k := kShape l.ternary f.ty
    let sc := if !l.ternary && f.ty == 15 then some (s.loopRead c q l (l.cTiles.getD n 0)) else none
    let rs := kStep l.ternary f.ty ((f.kq + n) % k.quarters) (expand acc) (s.loopRead c q l (l.aTiles.getD n 0)) (s.loopRead c q l (l.bTiles.getD n 0)) sc
    State.loopFrom s c q l m (n + 1) (rs.map fun r => (r.1, { bits := BitVec.ofNat 32 r.2.bits }))

/-- A loop after a step: the next one, its accumulator, and what it comes to. -/
def State.loopNext (s : State) (c : Nat) (q : Seq) (l : MLoop) (acc : Assoc Elem) : MLoop :=
  { l with next := l.next + 1, nextCycle := l.nextCycle + 4, acc := acc, final := s.loopFrom c q l (TILE.steps l.word - (l.next + 1)) (l.next + 1) acc }

/-- Perform the next step of a running loop in its cycle (R402): poison stops the loop, and the last step leaves the accumulator to be written in cycle issue + 4n + 3. -/
def State.loopStep (s : State) (c : Nat) : State :=
  match s.seq c with
  | none => s
  | some q => match q.mloop with
    | none => s
    | some l =>
      let f := l.word
      let k := kShape l.ternary f.ty
      let quarter := (f.kq + l.next) % k.quarters
      let a := s.loopRead c q l (l.aTiles.getD l.next 0)
      let b := s.loopRead c q l (l.bTiles.getD l.next 0)
      let scaled := !l.ternary && f.ty == 15
      let sc := if scaled then some (s.loopRead c q l (l.cTiles.getD l.next 0)) else none
      let acc := expand l.acc
      match Sys2Proof.Machine.poisonIn (stepA k a quarter ++ stepB k b ++ (match sc with | some m => stepS m quarter | none => []) ++ acc) with
      | some x => s.setSeq c { q with mloop := none, mpoison := some x }
      | none =>
        let rs := kStep l.ternary f.ty quarter acc a b sc
        let evs := rs.flatMap fun r => r.2.evs.filterMap fun e => if e.2 = 0 then none else some (16 * r.1 + e.1, e.2)
        let q1 := evs.foldl (fun (q : Seq) e => q.note l.pc l.bundle 4 e.1 e.2) q
        let acc1 : Assoc Elem := rs.map fun r => (r.1, { bits := BitVec.ofNat 32 r.2.bits })
        if l.next + 1 < (TILE.steps f) then
          s.setSeq c { q1 with mloop := some (s.loopNext c q1 l acc1) }
        else
          let (id, s1) := s.newId
          s1.setSeq c { q1 with mloop := none, pend := q1.pend ++ [⟨id, l.bundle, l.pc, s.clock + 8, 4, [.elems l.accTile acc1]⟩] }

/-- MLOOP and MLOOPT: every depth is checked and every tile chosen at issue; step 0 reads its operands there (R402). -/
def State.mLoopOp (s : State) (f : TILE) (ternary : Bool) : Host.Outcome State Fault Refusal :=
  asSlot s f.g fun c _ q => do
    mFree s q
    let n := (TILE.steps f)
    let ia := (f.hd.extractLsb' 2 2).toNat
    let ib := (f.hd.extractLsb' 0 2).toNat
    let k := kShape ternary f.ty
    let scaled := !ternary && f.ty == 15
    let depthsA := (List.range n).map fun i => (loopAt f.kq k.quarters ia i).2
    let aT ← s.loopTiles c q f.ta depthsA
    let bT ← s.loopTiles c q f.tb ((List.range n).map fun i => ib * i)
    let cT ← if scaled then s.loopTiles c q f.tc depthsA else .ok []
    let d ← s.needOwn c q f.dt.toNat
    let reads := (List.range n).flatMap fun i =>
      readsAt (s.clock + 4 * i) ([aT.getD i 0, bT.getD i 0] ++ (if scaled then [cT.getD i 0] else []))
    let s1 ← s.reserve c reads [(s.clock + 4 * n + 3, d)]
    let acc := s.mTile c q d
    let l : MLoop := { pc := q.pc, bundle := q.bundles, word := f, ternary := ternary, next := 0, nextCycle := s.clock, accTile := d, aTiles := aT, bTiles := bT, cTiles := cT, handles := loopHandles [f.ta, f.tb, f.tc], acc := compressFrom 0 acc, final := [] }
    -- step 0 reads its operands in the bundle's own cycle
    let a := (s.mTile c q (aT.getD 0 0)).toArray
    let b := (s.mTile c q (bT.getD 0 0)).toArray
    let sc := if scaled then some (s.mTile c q (cT.getD 0 0)).toArray else none
    let quarter := f.kq % k.quarters
    noPoison (stepA k a quarter ++ stepB k b ++ (match sc with | some m => stepS m quarter | none => []) ++ acc)
    let rs := kStep ternary f.ty quarter acc a b sc
    let acc1 : Assoc Elem := rs.map fun r => (r.1, { bits := BitVec.ofNat 32 r.2.bits })
    let notes := (vResult d rs).drop 1
    let s2 := (s1.mOccupy c (4 * n)).later c 4 4 notes
    match s2.seq c with
    | none => .ok s2
    | some x =>
      if n = 1 then .ok (s2.later c 4 8 [.elems d acc1])
      else .ok (s2.setSeq c { x with mloop := some (s.loopNext c q l acc1) })

end Sys2Proof.Machine
end

