-- ==== Sys2Proof/Machine/Vector.lean ====
section
/-! DEFINITION. The instructions of the V slots (R392-R398). -/
namespace Sys2Proof.Machine
open Sys2Proof

/-- VADD (R393). -/
def execVadd (f : TILE) (s : State) : Host.Outcome State Fault Refusal := s.vOp f 2 4 (fltEl f fun fm r a b _ => fAdd fm r a b)
/-- VSUB (R393). -/
def execVsub (f : TILE) (s : State) : Host.Outcome State Fault Refusal := s.vOp f 2 4 (fltEl f fun fm r a b _ => fSub fm r a b)
/-- VMUL (R393). -/
def execVmul (f : TILE) (s : State) : Host.Outcome State Fault Refusal := s.vOp f 2 4 (fltEl f fun fm r a b _ => fMul fm r a b)
/-- VFMA (R393). -/
def execVfma (f : TILE) (s : State) : Host.Outcome State Fault Refusal := s.vOp f 3 4 (fltEl f fun fm r a b c => fFma fm r false false a b c)
/-- VMIN (R393). -/
def execVmin (f : TILE) (s : State) : Host.Outcome State Fault Refusal :=
  s.vOp f 2 4 (byType f (fun fm _ a b _ => fMin fm a b) fun _ a b => min a b)
/-- VMAX (R393). -/
def execVmax (f : TILE) (s : State) : Host.Outcome State Fault Refusal :=
  s.vOp f 2 4 (byType f (fun fm _ a b _ => fMax fm a b) fun _ a b => max a b)
/-- VABS (R393). -/
def execVabs (f : TILE) (s : State) : Host.Outcome State Fault Refusal :=
  s.vOp f 1 4 (byType f (fun fm _ a _ _ => fAbsBits fm a) fun _ a _ => (a.natAbs : Int))
/-- VEXP2 (R299, R393). -/
def execVexp2 (f : TILE) (s : State) : Host.Outcome State Fault Refusal := s.vOp f 1 12 (fltEl f fun fm r a _ _ => fExp2 fm r a)
/-- VTANH (R299, R393). -/
def execVtanh (f : TILE) (s : State) : Host.Outcome State Fault Refusal := s.vOp f 1 12 (fltEl f fun fm r a _ _ => fTanh fm r a)
/-- VRCP (R299, R393). -/
def execVrcp (f : TILE) (s : State) : Host.Outcome State Fault Refusal := s.vOp f 1 12 (fltEl f fun fm r a _ _ => fRcp fm r a)
/-- VRSQ (R299, R393). -/
def execVrsq (f : TILE) (s : State) : Host.Outcome State Fault Refusal := s.vOp f 1 12 (fltEl f fun fm r a _ _ => fRsq fm r a)

/-- The number of an m register in a TILE field (R314). -/
def tileM (code : BitVec 8) : Nat := code.toNat - 0x88

/-- A mask of 1,024 bits from numbered bits. -/
def maskBits (l : List (Nat × Bool)) : BitVec 1024 := BitVec.ofNat 1024 (l.foldr (fun (x : Nat × Bool) n => if x.2 then n + 2 ^ x.1 else n) 0)

/-- VCMP: a bit of the m register for each selected element (R392, R393). -/
def execVcmp (f : TILE) (s : State) : Host.Outcome State Fault Refusal :=
  asSlot s f.g fun c sl q => do
    vFree s q sl
    let ts ← s.vSrcs c q f.hd.toNat [f.ta, f.tb]
    let sel := s.vSel q f
    let es := ts.map (s.seqTile c q ·)
    let cmp : VEl := fun _ a b _ =>
      let hit := if f.ty = 8 then fCmp .f32 f.sub a b else intCmp 32 (f.ty == 0) f.sub (BitVec.ofNat 64 a) (BitVec.ofNat 64 b)
      ⟨hit.toNat, []⟩
    let rs := vMap sel cmp 0 (es.getD 0 []) (es.getD 1 []) (List.replicate 1024 {})
    let mask := maskBits (rs.map fun r => (r.1, true))
    let bits := maskBits (rs.map fun r => (r.1, r.2.bits == 1))
    let s1 ← s.reserve c (readsAt s.clock ts) []
    noPoison (es.flatMap (selected sel 0))
    .ok ((s1.vOccupy c sl).later c (Slot.code sl) 4 [.m (tileM f.dt) mask bits])

/-- VSEL: a where the bit of m(TC) is 1, else b (R393). -/
def execVsel (f : TILE) (s : State) : Host.Outcome State Fault Refusal :=
  s.vOp f 2 4 fun q =>
    let m := s.mReg q (tileM f.tc)
    fun i a b _ => ⟨if m.getLsbD i then a else b, []⟩

/-- VCVT: the source type in TB[4:0], the part in TB[7:5] (R397). -/
def execVcvt (f : TILE) (s : State) : Host.Outcome State Fault Refusal :=
  let st := f.tb.extractLsb' 0 5
  let widening := ty32 f.ty
  s.vConvert f (if widening then st else f.ty) widening fun q _ e x => cvtElem (numTyOf f.ty) (numTyOf st) (q.rnd f.rm e) f.nsat x

/-- VCVTQ: scaled by the entry of the element's row and half in its own slot's latch (R305, R397). -/
def execVcvtq (f : TILE) (s : State) : Host.Outcome State Fault Refusal :=
  let pipe := match s.cur with
    | .slot _ sl => pipeOf sl
    | _ => 0
  s.vConvert f f.ty false fun q i e x => cvtScaled (numTyOf f.ty) (q.rnd f.rm e) f.nsat (q.latch pipe (2 * (i / 64) + i % 64 / 32)) x

/-- EMAX of a target format of VMAXE (R304). -/
def emaxOf (ty : BitVec 5) : Int := if ty = 4 then 6 else (fmtOf ty).emax

/-- VMAXE: the 32 entries of its own slot's latch, due at issue + 3 (R304, R398). -/
def execVmaxe (f : TILE) (s : State) : Host.Outcome State Fault Refusal :=
  asSlot s f.g fun c sl q => do
    let pipe := pipeOf sl
    if s.clock < (if pipe = 0 then q.busySU0 else q.busySU1) then .error (.fault .illegal 0) else .ok ()
    let a ← s.srcTile c q f.ta f.hd.toNat
    let es := s.seqTile c q a
    let s1 ← s.reserve c (readsAt s.clock [a]) []
    noPoison es
    let s2 := match s1.seq c with
      | some x => s1.setSeq c (if pipe = 0 then { x with busySU0 := s.clock + 1 } else { x with busySU1 := s.clock + 1 })
      | none => s1
    .ok (s2.later c (Slot.code sl) 3 ((List.range 32).map fun n =>
      .latch pipe n (maxeEntry (emaxOf f.ty) (((es.drop (32 * n)).take 32).map fun e => e.bits.toNat))))

/-- VROTR (R393). -/
def execVrotr (f : TILE) (s : State) : Host.Outcome State Fault Refusal := s.vMove f 4 fun i => i / 64 * 64 + (i % 64 + f.tb.toNat) % 64
/-- VROTC (R393). -/
def execVrotc (f : TILE) (s : State) : Host.Outcome State Fault Refusal := s.vMove f 8 fun i => (i / 64 + f.tb.toNat) % 16 * 64 + i % 64
/-- VBCR (R393). -/
def execVbcr (f : TILE) (s : State) : Host.Outcome State Fault Refusal := s.vMove f 4 fun i => i / 64 * 64 + f.tb.toNat
/-- VBCC (R393). -/
def execVbcc (f : TILE) (s : State) : Host.Outcome State Fault Refusal := s.vMove f 8 fun i => f.tb.toNat * 64 + i % 64
/-- VREDR (R395). -/
def execVredr (f : TILE) (s : State) : Host.Outcome State Fault Refusal := s.vReduce f 6 tileRows16
/-- VREDC (R395). -/
def execVredc (f : TILE) (s : State) : Host.Outcome State Fault Refusal := s.vReduce f 10 tileCols64
/-- VMOV (R393). -/
def execVmov (f : TILE) (s : State) : Host.Outcome State Fault Refusal := s.vOp f 1 4 (bitEl fun a _ => a)
/-- VAND (R393). -/
def execVand (f : TILE) (s : State) : Host.Outcome State Fault Refusal := s.vOp f 2 4 (bitEl (· &&& ·))
/-- VOR (R393). -/
def execVor (f : TILE) (s : State) : Host.Outcome State Fault Refusal := s.vOp f 2 4 (bitEl (· ||| ·))
/-- VXOR (R393). -/
def execVxor (f : TILE) (s : State) : Host.Outcome State Fault Refusal := s.vOp f 2 4 (bitEl (· ^^^ ·))
/-- VSHL (R393). -/
def execVshl (f : TILE) (s : State) : Host.Outcome State Fault Refusal := s.vOp f 2 4 (bitEl fun a b => a * 2 ^ (b % 32))
/-- VSHR: filled with bit 31 for I32 and with zero for N32 (R393). -/
def execVshr (f : TILE) (s : State) : Host.Outcome State Fault Refusal := s.vOp f 2 4 (intEl f fun _ a b => a / 2 ^ ((b % 32).toNat))
/-- VIOTA: each element's column, or its row with AX (R393). -/
def execViota (f : TILE) (s : State) : Host.Outcome State Fault Refusal :=
  s.vOp f 0 4 fun _ i _ _ _ => ⟨if f.ax = 1 then i / 64 else i % 64, []⟩
/-- VIADD (R393). -/
def execViadd (f : TILE) (s : State) : Host.Outcome State Fault Refusal := s.vOp f 2 4 (intEl f fun _ a b => a + b)
/-- VIMUL (R393). -/
def execVimul (f : TILE) (s : State) : Host.Outcome State Fault Refusal := s.vOp f 2 4 (intEl f fun _ a b => a * b)
/-- VRELU (R393). -/
def execVrelu (f : TILE) (s : State) : Host.Outcome State Fault Refusal :=
  s.vOp f 1 4 (byType f (fun fm _ a _ _ => fRelu fm a) fun _ a _ => max a 0)
/-- VSCALE, with b an I32 tile (R345, R393). -/
def execVscale (f : TILE) (s : State) : Host.Outcome State Fault Refusal :=
  s.vOp f 2 4 (fltEl f fun fm r a b _ => fScale fm r a (BitVec.ofNat 32 b).toInt)

end Sys2Proof.Machine
end

