-- ==== Sys2Proof/Machine/Matrix.lean ====
section
/-! DEFINITION. The instructions of the M slot (R399-R403), and the later steps of a loop. -/
namespace Sys2Proof.Machine
open Sys2Proof

/-- MMA (R399, R400). -/
def execMma (f : TILE) (s : State) : Host.Outcome State Fault Refusal := s.mStepOp f false
/-- MTRN (R401). -/
def execMtrn (f : TILE) (s : State) : Host.Outcome State Fault Refusal := s.mStepOp f true
/-- MLOOP (R402). -/
def execMloop (f : TILE) (s : State) : Host.Outcome State Fault Refusal := s.mLoopOp f false
/-- MLOOPT (R402). -/
def execMloopt (f : TILE) (s : State) : Host.Outcome State Fault Refusal := s.mLoopOp f true

/-- MZERO: +0 into every element (R403). -/
def execMzero (f : TILE) (s : State) : Host.Outcome State Fault Refusal :=
  asSlot s f.g fun c sl q => do
    mFree s q
    let d ← s.dstTile c q f.dt f.hd.toNat
    let s1 ← s.reserve c [] [(s.clock + 3, d)]
    .ok ((s1.mOccupy c 1).later c (Slot.code sl) 4 [.elems d ((List.range 1024).map fun i => (i, {}))])

/-- MSTAT: a bit for each F32 element that is a NaN or an infinity (R403). -/
def execMstat (f : TILE) (s : State) : Host.Outcome State Fault Refusal :=
  asSlot s f.g fun c sl q => do
    mFree s q
    let a ← s.srcTile c q f.ta f.hd.toNat
    let es := s.mTile c q a
    let s1 ← s.reserve c (readsAt s.clock [a]) []
    noPoison es
    let bits := maskBits (es.zipIdx.map fun e => (e.2, e.1.bits.toNat / 2 ^ 23 % 256 == 255))
    .ok ((s1.mOccupy c 1).later c (Slot.code sl) 4 [.m (tileM f.dt) (BitVec.allOnes 1024) bits])

/-- Does a loop stand at a boundary between K-steps that is a multiple of 8, its block stopping (R237)? -/
def State.loopHeld (s : State) (q : Seq) (l : MLoop) : Bool :=
  l.next % 8 == 0 && (match s.block q.block with | some b => b.stopping | none => false)

/-- MLOOP_STEP: the next step of the loop of a core's sequencer, when its cycle has come (R402). -/
def execMloopStep (s : State) : Host.Outcome State Fault Refusal :=
  asEvent s fun a => match s.seq a.core with
    | some q => match q.mloop with
      | some l => if l.nextCycle ≤ s.clock ∧ !s.loopHeld q l then (s.loopStep a.core).draw else s
      | none => s
    | none => s

end Sys2Proof.Machine
end

