-- ==== Sys2Proof/Machine/Migration.lean ====
section
/-! DEFINITION. Migration of pages (R157-R160). -/
namespace Sys2Proof.Machine
open Sys2Proof

/-! Requests. -/

/-- Do two ranges of physical memory overlap? -/
def overlaps (a n b m : Nat) : Bool := decide (a < b + m) && decide (b < a + n)

/-- Does a frame exist whole in TIER 0 or TIER 1 (R157)? -/
def State.frameExists (s : State) (base n : Nat) : Bool := s.inHbm base n || s.inCxl base n

/-- Is a range part of a migration that is open or waits for an entry? -/
def State.inMigration (s : State) (base n : Nat) : Bool :=
  (s.mig.map Mig.req ++ s.migWait).any fun r => overlaps base n r.old (migBytes r.size) || overlaps base n r.new (migBytes r.size)

/-- The checks of MIG (R157). -/
def State.migOk (s : State) (r : MigReq) : Bool :=
  let n := migBytes r.size
  decide (r.size ≤ 1) && decide (r.reserved = 0) && decide (r.old % n = 0) && decide (r.new % n = 0) &&
  s.frameExists r.old n && s.frameExists r.new n && !overlaps r.old n r.new n && !s.inMigration r.old n && !s.inMigration r.new n

/-- The open entries of a die (R157). -/
def State.migCount (s : State) (die : Nat) : Nat := (s.mig.filter fun (g : Mig) => g.die == die).length

/-- An entry opens in COPY with every dirty bit set (R158). -/
def State.openMig (s : State) (r : MigReq) : State :=
  let g : Mig := { die := homeDie r.old, req := r, todo := List.range (migBytes r.size / 128) }
  { s with mig := s.mig ++ [g] }

/-- MIG (R157): a request beyond a die's 16 entries waits. -/
def execMig (s : State) : Host.Outcome State Fault Refusal :=
  asEvent s fun a =>
    if !s.migOk a.mig then { s with hostReply := .rejected 0 }
    else if s.migCount (homeDie a.mig.old) < 16 then ({ s with hostReply := .ok } : State).openMig a.mig
    else { s with hostReply := .ok, migWait := s.migWait ++ [a.mig] }

/-! Copying. -/

/-- Replace an entry. -/
def State.setMig (s : State) (g : Mig) : State := { s with mig := s.mig.map fun h => if h.req.old = g.req.old then g else h }

/-- The line of an old frame. -/
def Mig.line (g : Mig) (i : Nat) : Nat := g.req.old / 128 + i

/-- A sector's poison goes with its data (R158, R165). -/
def movePoison (p : Assoc Nat) (src dst : Nat) : Assoc Nat := match p.find src with
  | some v => p.put dst v
  | none => p.del dst

/-- A sealed sector of the old frame is sealed in the new one (R158, R162). -/
def moveSeal (p : Assoc Seal) (src dst : Nat) : Assoc Seal := match p.find src with
  | some k => p.put dst k
  | none => p.del dst

/-- The engine reads a line coherently at the home and writes it to the new frame with its poison (R158). -/
def State.copyLine (s : State) (g : Mig) (i : Nat) : State :=
  let src := g.line i
  let dst := g.req.new / 128 + i
  let s1 := if (s.line src).home = .de then s.atHome src .localRead else s
  let s2 := s1.setPhysBytes (dst * 128) (s1.physBytes (src * 128) 128)
  { s2 with
    poison := movePoison (movePoison s2.poison (2 * src) (2 * dst)) (2 * src + 1) (2 * dst + 1)
    seals := moveSeal (moveSeal s2.seals (2 * src) (2 * dst)) (2 * src + 1) (2 * dst + 1) }

/-- The lines of an old frame that have an entry in the directory or a copy. -/
def State.frameLines (s : State) (g : Mig) : List Nat :=
  (s.lines.map Prod.fst).filter fun n => decide (g.req.old ≤ n * 128) && decide (n * 128 < g.req.old + migBytes g.req.size)

/-- The home recalls the remote copies of the frame (R158). -/
def State.recallFrame (s : State) (g : Mig) : State :=
  (s.frameLines g).foldl (fun (s : State) n => if (s.line n).home = .di then s else s.atHome n .recall) s

/-- The entry whose old frame begins at an address. -/
def State.migAt (s : State) (old : Nat) : Option Mig := s.mig.find? fun (g : Mig) => g.req.old == old

/-- MIGRATION_PASS_COMPLETE (R158): the lines of the pass of the entry at `addr` have been copied; the next pass begins, or the switch. -/
def execMigrationPassComplete (s : State) : Host.Outcome State Fault Refusal :=
  asEvent s fun a =>
    match s.migAt a.addr with
    | none => s
    | some g =>
      if g.state ≠ MigSt.copy then s
      else
        let s1 := g.todo.foldl (fun (s : State) i => s.copyLine g i) (s.setMig { g with todo := [] })
        match s1.migAt a.addr with
        | none => s1
        | some h =>
          if h.dirty.length ≤ 64 ∨ 4 ≤ h.pass then (s1.setMig { h with state := MigSt.switch }).recallFrame h
          else s1.setMig { h with pass := h.pass + 1, todo := h.dirty, dirty := [] }

/-! The switch. -/

/-- Has every remote copy of the frame come home (R158)? -/
def State.switchReady (s : State) (g : Mig) : Bool :=
  g.state == MigSt.switch && (s.frameLines g).all fun n => (s.line n).home == HomeSt.di && !((s.line n).waiting.contains .recall)

/-- What is left of a line once its frame's copies are dropped: a request of the remote L2 still on its way (R158). -/
def DirLine.dropped (l : DirLine) : DirLine :=
  match l.rem with
  | .is | .im | .sm | .wi | .ei => { rem := l.rem, txid := l.txid, remWrites := l.remWrites }
  | _ => {}

/-- MIGRATION_SWITCH_COMPLETE (R158, R160): the dirty lines are copied, every L2 copy of the frame at `addr` is dropped, held requests go to REDIRECT, MIG.DONE is written and raised. -/
def execMigrationSwitchComplete (s : State) : Host.Outcome State Fault Refusal :=
  asEvent s fun a =>
    match s.migAt a.addr with
    | none => s
    | some g =>
      if !s.switchReady g then s
      else
        let s1 := g.dirty.foldl (fun (s : State) i => s.copyLine g i) s
        let held := (s1.frameLines g).flatMap fun n => (s1.line n).waiting.map fun r => (n, r)
        let s2 := (s1.frameLines g).foldl (fun (s : State) n => s.setLine n (s.line n).dropped) s1
        let s3 := s2.setMig { g with state := MigSt.redirect, todo := [], dirty := [] }
        let s4 := held.foldl (fun (s : State) x => s.atHome x.1 x.2) s3
        let done := if g.die = 0 then (g.req.seq, s4.migDone.2) else (s4.migDone.1, g.req.seq)
        ({ s4 with migDone := done }).interrupt .migDone

/-- A request of a die that waits for an entry gets one (R157). -/
def State.openWaiting (s : State) (die : Nat) : State :=
  match s.migWait.find? fun r => homeDie r.old == die with
  | none => s
  | some r => ({ s with migWait := s.migWait.erase r } : State).openMig r

/-- MIGCLOSE (R158, R160): the entry at `addr` closes; a request that waits takes its place. -/
def execMigclose (s : State) : Host.Outcome State Fault Refusal :=
  asEvent s fun a =>
    match s.migAt a.addr with
    | none => { s with hostReply := .rejected 0 }
    | some g =>
      if g.state ≠ MigSt.redirect then { s with hostReply := .rejected 0 }
      else ({ s with mig := s.mig.filter fun h => h.req.old != g.req.old, hostReply := .ok } : State).openWaiting g.die

end Sys2Proof.Machine
end

