-- ==== Sys2Proof/Machine/Moves.lean ====
section
/-! DEFINITION. Moves and exchanges between lanes (R198, R200, R352-R359). -/
namespace Sys2Proof.Machine
open Sys2Proof

/-- MOV (R352). -/
def execMov (f : RR) (s : State) : Host.Outcome State Fault Refusal :=
  asWarp s fun c k w =>
    let wide := ty64 f.ty
    s.laneRun c k w f.g (RR.srcs f 1 wide) { code := f.dst.toNat, isS := f.ud, wide := wide, ty := f.ty } fun l =>
      { v := s.rrVal c k w f wide l 0 }

/-- MOVI (R352): 32 bits to a v register, 64 bits to an s register. -/
def execMovi (f : RI) (s : State) : Host.Outcome State Fault Refusal :=
  asWarp s fun c k w =>
    s.laneRun c k w f.g [] { code := f.dst.toNat, isS := RI.dS f, wide := RI.dS f, ty := 2 } fun _ => { v := RI.simm f }

/-- MOVS: the value of the lowest lane that takes part, zero-extended from 32 bits (R352). -/
def execMovs (f : RR) (s : State) : Host.Outcome State Fault Refusal :=
  asWarp s fun c k w =>
    let wide := ty64 f.ty
    let d : Dest := { code := f.dst.toNat, isS := true, wide := wide, ty := 1 }
    s.laneRun c k w f.g (RR.srcs f 1 wide) d fun l => { v := s.rrVal c k w f wide l 0 }

/-- A byte with its bit order reversed (R352). -/
def revByte (x : Nat) : Nat := (List.range 8).foldl (fun r i => r + (x / 2 ^ i % 2) * 2 ^ (7 - i)) 0

/-- One destination byte of BSEL (R352). -/
def bselByte (pool ctl : Nat) : Nat :=
  let x := pool / 2 ^ (8 * (ctl % 8)) % 256
  match ctl / 8 % 4 with
  | 0 => x
  | 1 => revByte x
  | 2 => if x = 0 then 0 else 0xFF
  | _ => 0

/-- BSEL (R352). -/
def execBsel (f : RR) (s : State) : Host.Outcome State Fault Refusal :=
  asWarp s fun c k w =>
    let d : Dest := { code := f.dst.toNat, isS := f.ud, wide := false, ty := 1 }
    s.laneRun c k w f.g (RR.srcs f 3 false) d fun l =>
      let v := fun (i : Nat) => (s.rrVal c k w f false l i).toNat
      let pool := v 0 + v 1 * 2 ^ 32
      { v := BitVec.ofNat 64 ((List.range 4).foldl (fun r i => r + bselByte pool (v 2 / 2 ^ (8 * i) % 256) * 2 ^ (8 * i)) 0) }

/-- The tile map as a 64-bit value (R44). -/
def Warp.tmapWord (w : Warp) : Word64 := BitVec.ofNat 64 (leNat ((List.range 8).map fun i => BitVec.ofNat 8 (w.tmap.getD i 0xFF)))

/-- The value of a special register in a lane (R328, R352). -/
def State.special (s : State) (c k : Nat) (w : Warp) (l code : Nat) : Word64 :=
  let h := (if w.isRegrouped then s.home c (w.homeOf k l) else some w).getD w
  let b := s.block w.block
  match code with
  | 0 => BitVec.ofNat 64 l
  | 1 => BitVec.ofNat 64 h.idx
  | 2 => BitVec.ofNat 64 ((b.map (·.number)).getD 0)
  | 3 => BitVec.ofNat 64 c
  | 4 => BitVec.ofNat 64 (clusterOf c)
  | 5 => BitVec.ofNat 64 (dieOf c)
  | 6 => BitVec.ofNat 64 s.pkgid
  | 7 => BitVec.ofNat 64 s.clock
  | 8 => BitVec.ofNat 64 (s.ctxOf w)
  | _ => h.tmapWord

/-- GETSP (R328, R352). -/
def execGetsp (f : RR) (s : State) : Host.Outcome State Fault Refusal :=
  asWarp s fun c k w =>
    let wide := f.sa == 7 || f.sa == 9
    s.laneRun c k w f.g [] { code := f.dst.toNat, isS := f.ud, wide := wide, ty := 1 } fun l =>
      { v := s.special c k w l f.sa.toNat }

/-! Member masks (R198, R200, R353). -/

/-- Does the warp's kernel run in compatibility mode (R200)? -/
def State.cm16 (s : State) (w : Warp) : Bool :=
  match s.block w.block with
  | some b => b.header.getLsbD 0
  | none => false

/-- The members a lane names: bits [31:0] of its mask, or in CM16 bits [15:0] for the lanes of its half (R198, R200). -/
def State.members (s : State) (c k : Nat) (w : Warp) (l code : Nat) : Word32 :=
  let m := (s.readS c k w l code).extractLsb' 0 32
  if s.cm16 w then (if l < 16 then m &&& 0xFFFF else m <<< 16) else m

/-- The MEMBER-MASK check (R198): the lane it is reported at. -/
def memberTrap (w : Warp) (lanes : Word32) (mask : Nat → Word32) : Option Nat :=
  let ls := lanesOf lanes
  if ls.any fun l => (mask l &&& w.live &&& ~~~ lanes) != 0 then some (lowLane w.active)
  else ls.find? fun l => !laneBit (mask l) l

/-- Does some mask name an exited lane (R198)? -/
def namesExited (w : Warp) (lanes : Word32) (mask : Nat → Word32) : Bool :=
  (lanesOf lanes).any fun l => (mask l &&& w.exited) != 0

/-- Run an exchange: the checks, then one value per lane or one for the warp, and EXITED-MEMBER once (R198, R353). -/
def State.exchange (s : State) (f : RR) (srcs : List Src) (wide : Bool) (val : Nat → Nat → Warp → Word32 → Nat → Word64) : Host.Outcome State Fault Refusal :=
  asWarp s fun c k w =>
    let d : Dest := { code := f.dst.toNat, isS := f.ud, wide := wide, ty := f.ty }
    if f.ud && s.cm16 w then wholeTrap w .illegal
    else match s.prep c k w { g := f.g, srcs := srcs, dsts := d.vregs, sdst := d.isS } with
    | .error r => r
    | .ok lanes =>
      let mask := fun l => s.members c k w l f.sc.toNat
      if lanes = 0 then .done s
      else match memberTrap w lanes mask with
        | some l => .trap { cause := .memberMask, lane := l }
        | none =>
          let s1 := if namesExited w lanes mask then s.recordOne c k w 0x10 (lowLane lanes) else s
          if f.ud then .done (s1.putWrites c k d [.sreg d.code (extendS d.ty wide (val c k w lanes (lowLane lanes)))])
          else .done (s1.putWrites c k d ((lanesOf lanes).flatMap fun l => s.vWrites c k w l d.code wide (val c k w lanes l) none))

/-- The source lane of SHFL (R354): none outside the warp or the lane's half. -/
def shflLane (cm : Bool) (sub l b : Nat) : Option Nat :=
  let j : Int := match sub with
    | 0 => if cm then 16 * (l / 16) + b % 16 else b
    | 1 => (l : Int) - b
    | 2 => l + b
    | _ => ((BitVec.ofNat 32 l) ^^^ (BitVec.ofNat 32 b)).toNat
  let inside := decide (0 ≤ j) && decide (j < 32) && (!cm || decide (j.toNat / 16 = l / 16))
  if inside then some j.toNat else none

/-- SHFL (R354). -/
def execShfl (f : RR) (s : State) : Host.Outcome State Fault Refusal :=
  let wide := ty64 f.ty
  let srcs : List Src := [⟨f.sa.toNat, f.aS, wide⟩, ⟨f.sb.toNat, f.bS, false⟩]
  s.exchange f srcs wide fun c k w _ l =>
    let own := s.rrVal c k w f wide l 0
    match shflLane (s.cm16 w) f.sub2 l (s.rrVal c k w f false l 1).toNat with
    | none => own
    | some j =>
      if !laneBit (s.members c k w l f.sc.toNat) j then own
      else if laneBit w.exited j then 0
      else s.rrVal c k w f wide j 0

/-- The live members whose values combine with a lane's. -/
def State.group (s : State) (c k : Nat) (w : Warp) (f : RR) (l : Nat) : List Nat :=
  lanesOf (s.members c k w l f.sc.toNat &&& w.live)

/-- VOTE (R355): in CM16 a BALLOT stands in bits [15:0] (R200). -/
def execVote (f : RR) (s : State) : Host.Outcome State Fault Refusal :=
  s.exchange f (RR.srcs f 1 false) false fun c k w _ l =>
    let g := s.group c k w f l
    let cond := fun (j : Nat) => (s.rrVal c k w f false j 0) != 0
    match f.sub2 with
    | 0 => if g.all cond then 1 else 0
    | 1 => if g.any cond then 1 else 0
    | _ =>
      let m := maskOf fun j => g.contains j && cond j
      (if s.cm16 w && decide (16 ≤ l) then m >>> 16 else m).setWidth 64

/-- MATCH (R356). -/
def execMatchLanes (f : RR) (s : State) : Host.Outcome State Fault Refusal :=
  let wide := ty64 f.ty
  s.exchange f (RR.srcs f 1 wide) false fun c k w _ l =>
    let g := s.group c k w f l
    let own := s.rrVal c k w f wide l 0
    let same := fun (j : Nat) => s.rrVal c k w f wide j 0 == own
    if f.sub2 = 0 then (maskOf fun j => g.contains j && same j).setWidth 64
    else if g.all same then (maskOf fun j => g.contains j).setWidth 64 else 0

/-- One combination of REDUX (R357). -/
def reduxOp (sub : Nat) : IntOp :=
  match sub with
  | 0 => opAdd
  | 1 => opMin
  | 2 => opMax
  | 3 => opAnd
  | 4 => opOr
  | _ => opXor

/-- REDUX (R357): exited members contribute the identity. -/
def execRedux (f : RR) (s : State) : Host.Outcome State Fault Refusal :=
  let wide := ty64 f.ty
  let n := tyWidth f.ty
  s.exchange f (RR.srcs f 1 wide) wide fun c k w _ l =>
    match (s.group c k w f l).map (fun j => s.rrVal c k w f wide j 0) with
    | [] => 0
    | x :: xs => xs.foldl (fun a b => truncTo n (reduxOp f.sub3 n (tySigned f.ty) a b 0)) x

/-- BCAST (R358). -/
def execBcast (f : RR) (s : State) : Host.Outcome State Fault Refusal :=
  let wide := ty64 f.ty
  s.exchange f (RR.srcs f 1 wide) wide fun c k w _ l =>
    let b := (s.rrVal c k w f false l 1).toNat
    let j := if s.cm16 w then 16 * (l / 16) + b % 16 else b
    if j < 32 ∧ laneBit (s.members c k w l f.sc.toNat) j then
      (if laneBit w.exited j then 0 else s.rrVal c k w f wide j 0)
    else s.rrVal c k w f wide l 0

/-- WARPSYNC (R108, R359): the members are converged; it is a release and an acquire at CORE scope. The mask stands in SA. -/
def execWarpsync (f : RR) (s : State) : Host.Outcome State Fault Refusal :=
  asWarp s fun c k w =>
    match s.prep c k w { g := f.g } with
    | .error r => r
    | .ok lanes =>
      let mask := fun (l : Nat) => (s.readS c k w l f.sa.toNat).extractLsb' 0 32
      if lanes = 0 then .done s
      else match memberTrap w lanes mask with
        | some l => .trap { cause := .memberMask, lane := l }
        | none => s.coreRelease c k w fun t => .done (if namesExited w lanes mask then t.recordOne c k w 0x10 (lowLane lanes) else t)

end Sys2Proof.Machine
end

