-- ==== Sys2Proof/Machine/Queues.lean ====
section
/-! DEFINITION. The C slots and the copy queues (R405-R412), the order in which their entries are performed (R111-R114), and the completion of load claims (R407). -/
namespace Sys2Proof.Machine
open Sys2Proof

/-! Issue. -/

/-- Which queue a slot enters. -/
def queueOf (sl : Slot) : Nat := if sl = .c1 then 1 else 0

/-- The base address of a tile copy (R406). -/
def State.copyBase (s : State) (q : Seq) (f : MEM) : Word64 := s.xReg q f.base.toNat + f.off.signExtend 64
/-- Its stride, in the next x register (R406). -/
def State.copyStride (s : State) (q : Seq) (f : MEM) : Word64 := s.xReg q (f.base.toNat + 1)

/-- The rows' addresses (R67). -/
def rowAddrs (base stride : Word64) (rows : Nat) : List Word64 := (List.range rows).map fun r => base + stride * BitVec.ofNat 64 r

/-- A row in its space, or the fault of a row that lies elsewhere (R12, R19, R21). -/
def State.rowsIn (s : State) (g : Agt) (sp len : Nat) : List Word64 → Except SErr (List Loc)
  | [] => .ok []
  | a :: t => match s.resolve g sp a len with
    | .error c => .error (.fault c (genericOf sp a))
    | .ok l => do
      let r ← s.rowsIn g sp len t
      .ok (l :: r)

/-- The addresses of a tile copy, checked at issue in R22's order (R68, R405). -/
def State.copyRows (s : State) (c : Nat) (q : Seq) (f : MEM) : Except SErr (List Word64 × List Loc) := do
  let base := s.copyBase q f
  let stride := s.copyStride q f
  let sp := f.sp.toNat
  let (rows, len) := tileRowsOf f.sz.toNat
  let as := rowAddrs base stride rows
  if sp = 4 then .error (.fault .addrHole (genericOf 4 base))
  else match (if sp ≤ 1 then as.find? (fun a => decide (2 ^ 56 ≤ a.toNat)) else none) with
    | some a => .error (.fault .addrRange a.toNat)
    | none =>
      if base.toNat % 16 ≠ 0 ∨ stride.toNat % 16 ≠ 0 ∨ stride.toNat < len then .error (.fault .misaligned (genericOf sp base))
      else do
        let ls ← s.rowsIn (s.seqAgt c q) sp len as
        .ok (as, ls)

/-- The destination of a TLD or TLDX: its tile, and the writes that commit with the bundle (R407). -/
def State.loadDest (s : State) (c : Nat) (q : Seq) (code : BitVec 8) (id : Nat) : Except SErr (Nat × Bool × List SeqWrite) := do
  if code.toNat < 0x80 then
    let t ← s.needOwn c q code.toNat
    .ok (t, false, [.fill t])
  else
    let n := code.toNat - 0x80
    let h ← q.handle n
    if h.prodEng then .error (.fault .handleRole 0)
    else
      let inFlight := ((s.seq c).map fun x => x.claimsOn n).getD 0
      if h.free ≤ inFlight then .error (.fault .handleOverrun 0)
      else
        let t ← s.needOwn c q (h.tileAt (h.fp + inFlight))
        .ok (t, true, [.claim id n t])

/-- Enter a tile load (R407). -/
def State.enterLoad (s : State) (c : Nat) (sl : Slot) (q : Seq) (f : MEM) (rows : List Word64) (xp : Nat) : Except SErr State := do
  let (t, claim, ws) ← s.loadDest c q f.data s.ids
  let s1 ← s.enqueue c (queueOf sl) fun _ => .load xp f.sp.toNat t claim rows
  .ok (s1.later c (Slot.code sl) 1 ws)

/-- TLD (R406, R407). -/
def execTld (f : MEM) (s : State) : Host.Outcome State Fault Refusal :=
  asSlot s f.g fun c sl q => do
    let (rows, _) ← s.copyRows c q f
    s.enterLoad c sl q f rows f.sz.toNat

/-- TST: the source is read at issue and moves with its poison (R165, R408). -/
def execTst (f : MEM) (s : State) : Host.Outcome State Fault Refusal :=
  asSlot s f.g fun c sl q => do
    let (rows, _) ← s.copyRows c q f
    let t ← s.srcTile c q f.data 0
    let s1 ← s.reserve c [(s.clock, t)] []
    s1.enqueue c (queueOf sl) fun _ => .store (compressFrom 0 (s.seqTile c q t)) f.sp.toNat rows

/-- The offsets of rows that lie in the core's shared storage. -/
def sharedOffs (ls : List Loc) : List Nat := ls.map fun l => match l with | .shared _ o => o | _ => 0

/-- TSLD: fixed time from SHARED (R409). -/
def execTsld (f : MEM) (s : State) : Host.Outcome State Fault Refusal :=
  asSlot s f.g fun c sl q => do
    let (_, ls) ← s.copyRows c q f
    let d ← s.dstTile c q f.data 0
    let s1 ← s.reserve c [] [(s.clock + 7, d)]
    .ok (s1.later c (Slot.code sl) 8 [.tread d f.sz.toNat (sharedOffs ls)])

/-- TSST: the source read at issue, written to SHARED in fixed time (R408, R409). -/
def execTsst (f : MEM) (s : State) : Host.Outcome State Fault Refusal :=
  asSlot s f.g fun c sl q => do
    let (_, ls) ← s.copyRows c q f
    let t ← s.srcTile c q f.data 0
    let s1 ← s.reserve c [(s.clock, t)] []
    let bytes := tileToBytes (compressFrom 0 (s.seqTile c q t))
    .ok (s1.later c (Slot.code sl) 8 ((sharedOffs ls).zipIdx.map fun x => .shStore x.1 ((bytes.drop (256 * x.2)).take 256)))

/-- SHARED as an S-class load of a bundle finds it: with the S-slot writes of every earlier bundle (R111). -/
def State.afterSlotWrites (s : State) (c : Nat) (q : Seq) : State :=
  s.sharedAhead c { q with pend := q.pend.filter fun p => p.slot == 1 } (s.clock + 4)

/-- The checks of a gathered row (R9, R20, R21, R410). -/
def State.gatherRows (s : State) (g : Agt) (sp : Nat) : List Word64 → Except SErr Unit
  | [] => .ok ()
  | a :: t =>
    if sp ≤ 1 ∧ 2 ^ 56 ≤ a.toNat then .error (.fault .addrRange a.toNat)
    else if a.toNat % 16 ≠ 0 then .error (.fault .misaligned (genericOf sp a))
    else match s.resolve g sp a 256 with
      | .error c => .error (.fault c (genericOf sp a))
      | .ok _ => s.gatherRows g sp t

/-- TLDX: the table of 16 row addresses is read from SHARED at issue (R410). -/
def execTldx (f : MEM) (s : State) : Host.Outcome State Fault Refusal :=
  asSlot s f.g fun c sl q => do
    let off := s.copyBase q f
    let g := s.seqAgt c q
    if f.sp = 4 then .error (.fault .addrHole (genericOf 4 off))
    else if off.toNat % 8 ≠ 0 then .error (.fault .misaligned (genericOf 2 off))
    else match s.resolve g 2 off 128 with
      | .ok (.shared _ o) =>
        let table := (s.afterSlotWrites c q).bytesWithPoison g false (.shared c o) 128
        match table.findSome? Prod.snd with
        | some x => .error (.halt x)
        | none => do
          let rows := (List.range 16).map fun i => wordOf (((table.map Prod.fst).drop (8 * i)).take 8)
          s.gatherRows g f.sp.toNat rows
          s.enterLoad c sl q f rows 0
      | .ok _ => .error (.fault .addrHole (genericOf 2 off))
      | .error x => .error (.fault x (genericOf 2 off))

/-- TCPY: elements and their poison, within the register file (R411). -/
def execTcpy (f : TILE) (s : State) : Host.Outcome State Fault Refusal :=
  asSlot s f.g fun c sl q => do
    let a ← s.srcTile c q f.ta f.hd.toNat
    let d ← s.dstTile c q f.dt f.hd.toNat
    let s1 ← s.reserve c [(s.clock, a)] [(s.clock + 3, d)]
    .ok (s1.later c (Slot.code sl) 4 [.elems d (numberFrom 0 (s.seqTile c q a))])

/-- CFENCE: an entry of its queue (R114, R412). -/
def execCfence (f : MEM) (s : State) : Host.Outcome State Fault Refusal :=
  asSlot s f.g fun c sl _ => s.enqueue c (queueOf sl) fun _ => .fence f.scope.toNat

/-! Performance. -/

/-- The agent that performs the entries of a queue (R37). -/
def State.queueAgt (s : State) (c qn : Nat) (q : Seq) : Agt := { s.seqAgt c q with who := .queue c qn }

/-- Does an effect still to come access SHARED in fixed time: XLD, XST, TSLD or TSST (R113, R114)? -/
def SeqPend.sShared (p : SeqPend) : Bool :=
  p.writes.any fun w => match w with
    | .shStore _ _ | .xread _ _ _ _ _ | .tread _ _ _ => true
    | _ => false

/-- Is it an XLD with ORD acquire? -/
def SeqPend.acquires (p : SeqPend) : Bool := p.writes.any fun w => match w with | .xread _ _ _ a _ => a | _ => false

/-- Does an entry hold every later entry of both queues until it has been performed (R113, R114)? -/
def QEntry.holds (e : QEntry) : Bool :=
  match e.work with
  | .xload _ _ _ _ acq _ _ => acq
  | .fence _ => true
  | _ => false

/-- Is an entry a release (R113, R114)? -/
def QEntry.releases (e : QEntry) : Bool :=
  match e.work with
  | .xstore _ _ _ rel _ => rel
  | .fence _ => true
  | _ => false

/-- May the head entry of a queue be performed (R112-R114)? -/
def Seq.mayPerform (q : Seq) (qn : Nat) (e : QEntry) : Bool :=
  let other := if qn = 0 then q.c1 else q.c0
  let earlier := other.filter fun o => decide (o.bundle < e.bundle)
  let sBefore := q.pend.filter fun p => decide (p.bundle < e.bundle)
  !earlier.any (·.holds) && !sBefore.any (·.acquires) &&
  (!e.releases || (earlier.isEmpty && !sBefore.any (·.sShared)))

/-- Remove a performed entry. -/
def State.popEntry (s : State) (c qn id : Nat) : State :=
  match s.seq c with
  | some q => (s.setSeq c { q with c0 := q.c0.filter fun e => e.id != id, c1 := q.c1.filter fun e => e.id != id }).pxDrop id |>.clearFails (.queue c qn)
  | none => s

/-- A tile receives a load: to its owner, or as a claim whose data is in place (R407). -/
def State.loadLands (s : State) (c id t : Nat) (claim : Bool) (es : Assoc Elem) : State :=
  let x := s.tile c t
  if claim then
    let s1 := s.setTile c t { x with elems := es }
    match s1.seq c with
    | some q => s1.setSeq c { q with claims := q.claims.map fun k => if k.id = id then { k with done := true } else k }
    | none => s1
  else s.setTile c t { x with elems := es, st := .owned, hold := 48 }

/-- XLDG's data arrives (R382): poisoned bytes halt the sequencer at the next bundle boundary; after a later write of the register either value stays. -/
def State.xloadLands (s : State) (c reg size : Nat) (b : List (Byte × Option Nat)) (rewritten : Bool) : State :=
  match s.seq c with
  | none => s
  | some q => match b.findSome? Prod.snd with
    | some x => s.setSeq c { q with haltNext := some x }
    | none =>
      let bs := b.map Prod.fst
      let put := fun (m : Assoc Word64) (n : Nat) (v : Word64) =>
        if rewritten && Config.freeNew s.free n then m else m.put n v
      let xs1 := put q.xs reg (BitVec.ofNat 64 (leNat (bs.take 8)))
      s.setSeq c { q with xs := if size = 16 then put xs1 (reg + 1) (BitVec.ofNat 64 (leNat (bs.drop 8))) else xs1 }

/-- The writes of an entry have left: it is done, or waits until its peers acknowledge them (R112). -/
def State.entryDone (s : State) (c qn id : Nat) : State :=
  if s.workOut id then
    let mark := fun (l : List QEntry) => l.map fun e => if e.id = id then { e with sent := true } else e
    match s.seq c with
    | some q => s.setSeq c { q with c0 := mark q.c0, c1 := mark q.c1 }
    | none => s
  else s.popEntry c qn id

/-- A release of the sequencer at a scope (R113, R114). -/
def State.seqShow (s : State) (g : Agt) (scope : Nat) : State := s.show g scope [.ls]

/-- Perform an entry of a copy queue (R112, R405-R410). -/
def State.performEntry (s : State) (c qn : Nat) (q : Seq) (e : QEntry) : State :=
  let g := { s.queueAgt c qn q with work := e.id }
  let finish := fun (r : Pulled) (acc : Acc) (k : List (Byte × Option Nat) → State) => match r with
    | .bytes b => (k b).popEntry c qn e.id
    | .wait t => t
    | .fatal x a => s.postedFault g x acc a
  if e.sent then s.entryDone c qn e.id
  else match e.work with
  | .load xp sp t claim rows =>
    let len := (tileRowsOf xp).2
    match s.reachAll g .read (rows.map fun a => ⟨sp, a, len⟩) with
    | .wait t => t
    | .fatal x a t => t.postedFault g x .read a
    | .ok sts => finish (s.pull g e.id true sts) .read fun b =>
        (s.partsRead g true sts).loadLands c e.id t claim (tileFromBytes xp b)
  | .store es sp rows =>
    match s.reachAll g .write (rows.map fun a => ⟨sp, a, 256⟩) with
    | .wait t => t
    | .fatal x a t => t.postedFault g x .write a
    | .ok sts => (s.deposit g sts (tileToBytes es)).entryDone c qn e.id
  | .xload reg size st addr acq scope rw =>
    let plain := !acq || scope == 0
    finish ((if acq then s.acquireAt c g.ctx scope else s).pull g e.id plain [(⟨0, addr, size⟩, st)]) .read fun b =>
      let s1 := (s.loadFill g plain st).xloadLands c reg size b rw
      if acq then s1.acquireAt c g.ctx scope else s1
  | .xstore data st addr rel scope =>
    let s1 := s.deposit g [(⟨0, addr, data.length⟩, st)] (data.map fun b => (b, none))
    (if rel then s1.seqShow g scope else s1).entryDone c qn e.id
  | .fence scope => ((s.seqShow g scope).acquireAt c g.ctx scope).popEntry c qn e.id

/-- Does an entry translated at issue wait for an exchange about its line, or the switch of its frame (R148, R158)? -/
def State.entryBusy (s : State) (e : QEntry) : Bool :=
  match e.work with
  | .xload _ _ st _ _ _ _ => s.storeBusy st
  | .xstore _ st _ _ _ => s.storeBusy st && !e.sent
  | _ => false

/-- The head entry of a queue that is due, may be performed and waits for no page; one whose writes have left waits for its peers. -/
def State.readyEntry (s : State) (c qn : Nat) : Option QEntry :=
  match s.seq c with
  | none => none
  | some q => match (if qn = 0 then q.c0 else q.c1) with
    | [] => none
    | e :: _ =>
      if decide (e.due ≤ s.clock) && q.mayPerform qn e && !(e.sent && s.workOut e.id) && !s.waitsPage (s.queueAgt c qn q) && !s.entryBusy e then some e else none

/-- SEQ_QUEUE_ENTRY_COMPLETE: the head entry of a queue is performed (R112). -/
def execSeqQueueEntryComplete (s : State) : Host.Outcome State Fault Refusal :=
  asEvent s fun a => match s.readyEntry a.core a.id, s.seq a.core with
    | some e, some q => (s.performEntry a.core a.id q e).draw
    | _, _ => s

/-- LOAD_CLAIM_COMPLETE: the oldest claim of a handle whose data is in place completes; FP advances (R407). -/
def execLoadClaimComplete (s : State) : Host.Outcome State Fault Refusal :=
  asEvent s fun a => match s.seq a.core with
    | none => s
    | some q => match q.claims.find? (·.handle == a.id), q.handles.find a.id with
      | some k, some h =>
        if k.done then
          let s1 := s.setTile a.core k.tile { s.tile a.core k.tile with st := .owned, hold := 48 }
          s1.setSeq a.core { q with claims := q.claims.filter (·.id != k.id), handles := q.handles.put a.id { h with fp := (h.fp + 1) % (2 * h.n) } }
        else s
      | _, _ => s

end Sys2Proof.Machine
end

