-- ==== Sys2Proof/Machine/Slots.lean ====
section
/-! DEFINITION. The meaning of the words of a bundle's slots, by instruction (R325). -/
namespace Sys2Proof.Machine
open Sys2Proof

/-- A slot's word takes effect (R325); words that no slot accepts are refused by the decoder. -/
def execSlot (i : Instr) (s : State) : Host.Outcome State Fault Refusal :=
  match i with
  | .iadd f => execIadd f s
  | .isub f => execIsub f s
  | .imul f => execImul f s
  | .imulh f => execImulh f s
  | .imad f => execImad f s
  | .imin f => execImin f s
  | .imax f => execImax f s
  | .iabs f => execIabs f s
  | .and f => execAnd f s
  | .or f => execOr f s
  | .xor f => execXor f s
  | .not f => execNot f s
  | .shl f => execShl f s
  | .shr f => execShr f s
  | .sha f => execSha f s
  | .rot f => execRot f s
  | .popc f => execPopc f s
  | .clz f => execClz f s
  | .ctz f => execCtz f s
  | .brev f => execBrev f s
  | .bfe f => execBfe f s
  | .bfi f => execBfi f s
  | .sel f => execSel f s
  | .icmp f => execIcmp f s
  | .lea f => execLea f s
  | .iaddi f => execIaddi f s
  | .imuli f => execImuli f s
  | .andi f => execAndi f s
  | .ori f => execOri f s
  | .xori f => execXori f s
  | .icmpi f => execIcmpi f s
  | .getctl f => execGetctl f s
  | .setctl f => execSetctl f s
  | .xld f => execXld f s
  | .xst f => execXst f s
  | .xldg f => execXldg f s
  | .anym f => execAnym f s
  | .allm f => execAllm f s
  | .cmpt f => execCmpt f s
  | .hset f => execHset f s
  | .hadvp f => execHadvp f s
  | .hadvc f => execHadvc f s
  | .hqry f => execHqry f s
  | .sgive f => execSgive f s
  | .stake f => execStake f s
  | .scalew f => execScalew f s
  | .scaleg f => execScaleg f s
  | .vadd f => execVadd f s
  | .vsub f => execVsub f s
  | .vmul f => execVmul f s
  | .vfma f => execVfma f s
  | .vmin f => execVmin f s
  | .vmax f => execVmax f s
  | .vabs f => execVabs f s
  | .vexp2 f => execVexp2 f s
  | .vtanh f => execVtanh f s
  | .vrcp f => execVrcp f s
  | .vrsq f => execVrsq f s
  | .vcmp f => execVcmp f s
  | .vsel f => execVsel f s
  | .vcvt f => execVcvt f s
  | .vmaxe f => execVmaxe f s
  | .vcvtq f => execVcvtq f s
  | .vrotr f => execVrotr f s
  | .vrotc f => execVrotc f s
  | .vbcr f => execVbcr f s
  | .vbcc f => execVbcc f s
  | .vredr f => execVredr f s
  | .vredc f => execVredc f s
  | .vmov f => execVmov f s
  | .vand f => execVand f s
  | .vor f => execVor f s
  | .vxor f => execVxor f s
  | .vshl f => execVshl f s
  | .vshr f => execVshr f s
  | .viota f => execViota f s
  | .viadd f => execViadd f s
  | .vimul f => execVimul f s
  | .vrelu f => execVrelu f s
  | .vscale f => execVscale f s
  | .mma f => execMma f s
  | .mloop f => execMloop f s
  | .mzero f => execMzero f s
  | .mtrn f => execMtrn f s
  | .mloopt f => execMloopt f s
  | .mstat f => execMstat f s
  | .tld f => execTld f s
  | .tst f => execTst f s
  | .tsld f => execTsld f s
  | .tsst f => execTsst f s
  | .tldx f => execTldx f s
  | .tcpy f => execTcpy f s
  | .cfence f => execCfence f s
  | .sbr f => execSbr f s
  | .sbrq f => execSbrq f s
  | .loopi f => execLoopi f s
  | .loopb f => execLoopb f s
  | .syncl f => execSyncl f s
  | .shalt f => execShalt f s
  | .scall f => execScall f s
  | .sret f => execSret f s
  | .sbrm f => execSbrm f s
  | .nop f => execNop f s
  | _ => .next s

end Sys2Proof.Machine
end

