-- ==== Sys2Proof/Machine/Sequencer.lean ====
section
/-! DEFINITION. The sequencer: the issue of a bundle (R201, R204, R205, R324, R372), the landing of results (R373), SYNCL's line (R204), and the delivery of a sequencer fault (R272). -/
namespace Sys2Proof.Machine
open Sys2Proof

/-! The bundle's words. -/

/-- What fetching the eight words of a bundle gives. -/
inductive Fetched where
  | words (ws : List Word64) (s : State)
  | stop (s : State)
  deriving DecidableEq, Repr

/-- Fetch n words from an address up; a page that misses is waited for, a fault names SSLOT 7 (R37, R309). -/
def State.fetchWords (s : State) (c : Nat) (q : Seq) : Nat → Nat → List Word64 → Fetched
  | 0, _, ws => .words ws s
  | n + 1, pc, ws => match s.fetchWord c (s.seqAgt c q) pc with
    | .word w t => t.fetchWords c q n (pc + 8) (ws ++ [w])
    | .miss l =>
      .stop ((s.noteMisses (s.seqAgt c q) .fetch l).setSeq c { q with st := .xlate (l.map Prod.fst) })
    | .held fs => .stop (match fs.head? with
      | some f => (s.dropEntry (s.seqAgt c q) f.page).seqFault c f.cause 7 f.addr
      | none => s)
    | .fault x p a => .stop ((s.dropEntry (s.seqAgt c q) p).seqFault c x 7 a)
    | .bad x => .stop (s.seqFault c x 7 pc)
    | .poison x => .stop (s.seqHalt c 7 q.pc x)
    | .ends t => .stop t

/-- A header wait: its 8 bits (R324). -/
def waitHandle (w : BitVec 8) : Nat := (w.extractLsb' 3 3).toNat

/-- A header's wait fields that are valid. -/
def headerWaits (h : Word64) : List (BitVec 8) := [h.extractLsb' 40 8, h.extractLsb' 32 8].filter (·.getLsbD 7)

/-- The opcode of STAKE (R324). -/
def isStake (w : Word64) : Bool := w.extractLsb' 54 10 == 0x28B#10

/-- Is a bundle header well formed (R205, R324)? -/
def bundleHeaderOk (h sWord : Word64) : Bool :=
  h.extractLsb' 56 8 == 0xB7#8 && h.extractLsb' 0 30 == 0 && h.extractLsb' 50 6 == 0 && !(h.getLsbD 48 && h.getLsbD 49) &&
  ([h.extractLsb' 40 8, h.extractLsb' 32 8].all fun (w : BitVec 8) => w.getLsbD 7 || w.extractLsb' 0 7 == 0) &&
  (h.getLsbD 30 == isStake sWord)

/-- Is a header wait met (R72)? -/
def Seq.waitMet (q : Seq) (w : BitVec 8) : Bool :=
  match q.handles.find (waitHandle w) with
  | some h => decide ((w.extractLsb' 0 3).toNat + 1 ≤ (if w.getLsbD 6 then h.free else h.filled))
  | none => false

/-- The word of a slot. -/
def slotWord (ws : List Word64) (sl : Slot) : Word64 := ws.getD (Slot.code sl + 1) 0

/-- The first slot whose word is not an instruction it accepts, or a duplicating slot that differs from its partner (R205, R325, R329). -/
def staticFault (h : Word64) (ws : List Word64) : Option Nat :=
  let illegal := Slot.all.find? fun sl => match decodeSlot sl (slotWord ws sl) with
    | .ok _ => false
    | .error _ => true
  let mask : Word64 := ~~~ ((0xFF : Word64) <<< 42)
  let differ := (slotWord ws .v0 &&& mask) != (slotWord ws .v1 &&& mask)
  match illegal with
  | some sl => some (Slot.code sl)
  | none => if h.getLsbD 49 && differ then some 2 else if h.getLsbD 48 && differ then some 3 else none

/-- The instruction of a slot. -/
def slotInstr (ws : List Word64) (sl : Slot) : Option Instr := (decodeSlot sl (slotWord ws sl)).toOption

/-! Waits. -/

/-- Does the bundle's STAKE wait (R201, R390)? A false guard and an abandoned block do not. -/
def State.stakeHolds (s : State) (c : Nat) (q : Seq) (ws : List Word64) : Bool :=
  match slotInstr ws .s, s.block q.block with
  | some (.stake f), some b => s.qGuard q f.g && !b.abandoned && s.stakeWaits c b.ctx (f.imm.extractLsb' 0 7).toNat
  | _, _ => false

/-- The pages that the S slot's access to memory other than SHARED misses (R376). -/
def State.sMisses (s : State) (c : Nat) (q : Seq) (ws : List Word64) : List (Nat × Nat) × Acc :=
  let look := fun (f : MEM) (acc : Acc) =>
    if f.sp = 4 ∨ !(s.qGuard q f.g) then ([], acc)
    else match s.meet (s.seqAgt c q) acc f.sp.toNat (f.ord != 0) (s.xAddr q f) (xSize f) with
      | .miss l => (l, acc)
      | _ => ([], acc)
  match slotInstr ws .s with
  | some (.xst f) => look f .write
  | some (.xldg f) => look f .read
  | _ => ([], .read)

/-! Issue. -/

/-- Run the slots in order until one stops the bundle. -/
def State.runSlots (s : State) (c : Nat) : List (Slot × Instr) → State
  | [] => s
  | (sl, i) :: rest => match execSlot i { s with cur := .slot c sl } with
    | .next t => if (t.seq c).map (·.st) = some SeqSt.halted then t else t.runSlots c rest
    | _ => s

/-- The bundle that stopped takes no effect: the machine before it, with the fault or the halt its slot met (R271, R274); a cached translation that failed a check is dropped (R33). -/
def State.stopBundle (s t : State) (c : Nat) (q : Seq) : State :=
  let info := ((t.block q.block).map (fun (b : Block) => b.finfo)).getD 0
  let addr := (((t.block q.block).map (fun (b : Block) => b.faddr)).getD 0).toNat
  let code := (info.extractLsb' 0 8).toNat
  let slot := (info.extractLsb' 8 3).toNat
  let s1 := (if code = Cause.writeProtect.code ∨ code = Cause.keyMismatch.code then s.dropEntry (s.seqAgt c q) (addr / 65536) else s).draw
  if code = 0x40 then s1.seqHalt c slot q.pc addr else s1.seqFaultCode c code slot addr

/-- The sequencer goes on after a bundle: its next address, its count, its arrival at SYNCL (R204, R206). -/
def Seq.issued (q : Seq) (h : Word64) : Seq :=
  { q with
    pc := q.next.getD (q.pc + 64)
    next := none
    bundles := q.bundles + 1
    arrived := if h.getLsbD 31 && q.arrived.isNone then some q.bundles else q.arrived
    taking := false }

/-- Issue a bundle whose header waits are met (R372). -/
def State.issueBundle (s : State) (c : Nat) (q : Seq) (h : Word64) (ws : List Word64) : State :=
  match s.sMisses c q ws with
  | (p :: l, acc) =>
    (s.noteMisses (s.seqAgt c q) acc (p :: l)).setSeq c { q with st := .xlate ((p :: l).map Prod.fst), taking := false }
  | ([], _) =>
    match q.mpoison, staticFault h ws with
    | some x, _ => s.seqHalt c 4 q.pc x
    | none, some sl => s.seqFault c .illegal sl 0
    | none, none =>
      let slots := Slot.all.filterMap fun sl => (slotInstr ws sl).map fun i => (sl, i)
      let t := (s.setSeq c { q with next := none, hdr := h }).runSlots c slots
      match t.seq c with
      | some q1 =>
        if q1.st = SeqSt.halted then s.stopBundle t c q
        else ({ t with cur := .none }.setSeq c (q1.issued h)).clearFails (.seq c)
      | none => { t with cur := .none }

/-- The sequencer's cycle: a stall, a wait, or a bundle (R201). -/
def State.seqTurn (s : State) (c : Nat) : State :=
  match s.seq c with
  | none => s
  | some q0 =>
    let running := match q0.st with
      | .running => true
      | .xlate ps => !(ps.any fun p => s.pageBusy (s.seqAgt c q0) p)
      | _ => false
    let live := match s.block q0.block with
      | some b => b.st == BlockSt.resident && !b.stopping
      | none => false
    if !live then (if q0.stoppedAt.isSome then s else s.setSeq c { q0 with stoppedAt := some s.clock })
    else if !running || q0.syncing then s
    else
      let q := { q0 with st := SeqSt.running }
      match q.haltNext with
      | some x => s.seqHalt c 1 q.pc x
      | none => match (s.setSeq c q).fetchWords c q 8 q.pc.toNat [] with
        | .stop t => t
        | .words ws t =>
          let h := ws.getD 0 0
          if !bundleHeaderOk h (slotWord ws .s) then t.seqFault c .illegal 7 0
          else if (headerWaits h).any fun w => (q.handles.find (waitHandle w)).isNone then t.seqFault c .handleSet 7 0
          else if !(headerWaits h).all q.waitMet then t.setSeq c { q with taking := false }
          else if t.stakeHolds c q ws then t.setSeq c { q with taking := true }
          else t.issueBundle c q h ws

/-- SEQUENCER_BUNDLE_ISSUE (R372). -/
def execSequencerBundleIssue (s : State) : Host.Outcome State Fault Refusal := asEvent s fun a => (s.seqTurn a.core).draw

/-! Results and SYNCL. -/

/-- Is an effect a write of a scale latch that a stopped sequencer keeps, with the cycles it has left (R202, R237)? -/
def Seq.savesLatch (q : Seq) (p : SeqPend) : Bool :=
  (q.stoppedAt.any fun t => decide (t < p.due)) && p.writes.all fun w => match w with
    | .latch _ _ _ => true
    | _ => false

/-- SEQ_RESULT_WRITE: the effects of a slot, written at the end of the cycle before the first bundle that may read them (R373). -/
def execSeqResultWrite (s : State) : Host.Outcome State Fault Refusal :=
  asEvent s fun a => match s.seq a.core with
    | none => s
    | some q => match q.pend.find? fun p => p.id == a.id && decide (p.due ≤ s.clock + 1) && !q.savesLatch p with
      | some p => s.landSeq a.core p
      | none => s

/-- A sequencer whose contribution is lowered (R204). -/
def Seq.lowered (q : Seq) : Seq := { q with restart := none, arrived := none, raised := false, syncing := false }

/-- SYNCL_RESTART: in the restart cycle a sequencer's contribution is lowered, and one stalled at SYNCL goes on (R204). -/
def execSynclRestart (s : State) : Host.Outcome State Fault Refusal :=
  asEvent s fun a => match s.seq a.core with
    | none => s
    | some q => match q.restart with
      | some t =>
        if t ≤ s.clock then
          -- the acquire of SYNCL at CLUSTER scope (R106)
          (s.setSeq a.core q.lowered).acquireAt a.core (s.seqAgt a.core q).ctx 1
        else s
      | none => s

/-- Are the SQ accesses of the bundles before one performed at CLUSTER scope (R115)? -/
def Seq.sqDone (q : Seq) (bundle : Nat) : Bool :=
  (q.c0 ++ q.c1).all (fun e => decide (bundle ≤ e.bundle)) &&
  q.pend.all fun p => decide (bundle ≤ p.bundle) || !p.writes.any fun w => match w with
    | .shStore _ _ | .xread _ _ _ _ _ | .tread _ _ _ => true
    | _ => false

/-- Raise the contributions that R115 permits: each is a release at CLUSTER scope (R106). -/
def State.raiseSync (s : State) : State :=
  s.cores.foldl (fun (t : State) e => match e.2.seq with
    | some q => match q.arrived with
      | some n => if !q.raised && q.sqDone n then (t.setSeq e.1 { q with raised := true }).show (s.seqAgt e.1 q) 1 [.ls] else t
      | none => t
    | none => t) s

/-- The participants of a block's SYNCL line: the blocks of its cluster launch that own a sequencer on its cluster, or itself (R204). -/
def State.syncGroup (s : State) (bid : Nat) (b : Block) : List Block :=
  let isCluster := match s.launches.find b.launch with
    | some l => l.isCluster
    | none => false
  if isCluster then
    (s.blocks.filter fun (e : Nat × Block) => e.2.launch == b.launch && clusterOf e.2.core == clusterOf b.core && e.2.hasSeq).map Prod.snd
  else (s.block bid).toList

/-- Does a participant count as raised (R204)? -/
def State.counts (s : State) (b : Block) : Bool :=
  b.st == BlockSt.ended || (match (match b.saved with | some v => v.seq | none => s.seq b.core) with
    | some q => q.raised || q.st == SeqSt.halted || q.st == SeqSt.shalted
    | none => true)

/-- Has a participant arrived, with every contribution of its line raised (R204)? -/
def State.asserts (s : State) (bid : Nat) (b : Block) (q : Seq) : Bool := q.arrived.isSome && q.restart.isNone && (s.syncGroup bid b).all s.counts

/-- In the cycle in which every contribution is raised, the restart is set 16 cycles on (R204). -/
def State.assertSync (s : State) (assertion : Nat) : State :=
  s.blocks.foldl (fun (s : State) e =>
    match e.2.saved, s.seq e.2.core with
    | some v, _ => (match v.seq with
      | some q => if s.asserts e.1 e.2 q then s.setBlock e.1 { e.2 with saved := some { v with seq := some { q with restart := some (assertion + 16) } } } else s
      | none => s)
    | none, some q => if q.block = e.1 ∧ s.asserts e.1 e.2 q then s.setSeq e.2.core { q with restart := some (assertion + 16) } else s
    | none, none => s) s

/-- In the restart cycle the contributions of suspended blocks are lowered too, with the acquire of SYNCL (R106, R204). -/
def State.lowerSync (s : State) : State :=
  s.blocks.foldl (fun (s : State) e => match e.2.saved with
    | some v => (match v.seq with
      | some q => if q.restart.any fun t => decide (t ≤ s.clock) then (s.setBlock e.1 { e.2 with saved := some { v with seq := some q.lowered } }).acquireAt e.2.core e.2.ctx 1 else s
      | none => s)
    | none => s) s

/-! Delivery of a sequencer fault (R272). -/

/-- Have all results of the sequencer's bundles landed? -/
def Seq.landed (q : Seq) : Bool :=
  q.pend.isEmpty && q.mloop.isNone && (q.c0 ++ q.c1).all fun e => match e.work with
    | .load _ _ _ _ _ => false
    | .xload _ _ _ _ _ _ _ => false
    | _ => true

/-- The home slot of the warp a fault goes to: the lowest-numbered warp that has not exited or halted (R272). -/
def State.faultTarget (s : State) (b : Block) : Option Nat :=
  b.slots.find? fun k => match s.home b.core k with
    | some w => w.st != .exited && w.st != .halted
    | none => false

/-- May a fault be delivered to a home slot now: a boundary outside trap mode (R266, R270)? -/
def State.deliverable (s : State) (b : Block) (k : Nat) : Bool :=
  match s.home b.core k with
  | some w => w.st != .trap && w.wait != some .peer && w.wait != some .task && (match w.wait with | some (.collx _ _ _ _) => false | _ => true)
  | none => false

/-- Deliver a sequencer's fault: the regroup of the target dissolves first (R197), its wait is left, its instruction issues again after RFT. -/
def State.deliverFault (s : State) (c : Nat) : State :=
  match s.seq c with
  | none => s
  | some q => match q.fault, s.block q.block with
    | some r, some b =>
      if !q.landed || s.clock < r.readyAt then s
      else match s.faultTarget b with
        | none => (s.setSeq c { q with fault := none }).terminate b.ctx 9
        | some k =>
          if !s.deliverable b k then s
          else
            let s1 := s.setSeq c { q with fault := none }
            let s2 := if (s1.warps.find (homeKey c k)).isSome then s1.dissolve q.block else s1
            match s2.warp c k with
            | some w => s2.takeTrap c k { cause := .sequencerFault, lane := lowLane w.active, addr := r.pc.toNat, scause := r.cause, sslot := r.slot }
            | none => s2
    | _, _ => s

/-- SEQUENCER_FAULT_DELIVERY (R272). -/
def execSequencerFaultDelivery (s : State) : Host.Outcome State Fault Refusal := asEvent s fun a => (s.deliverFault a.core).draw

end Sys2Proof.Machine
end

