-- ==== Sys2Proof/Machine/Dispatch.lean ====
section
/-! DEFINITION. One arm per instruction: the meaning it calls. -/
namespace Sys2Proof.Machine
open Sys2Proof

/-- The effect of an instruction word on its acting agent, or of a device step. -/
def exec (i : Instr) (s : State) : Host.Outcome State Fault Refusal :=
  match i with
  | .nop f => Sys2Proof.Machine.execNop f s
  | .iadd f => Sys2Proof.Machine.execIadd f s
  | .isub f => Sys2Proof.Machine.execIsub f s
  | .imul f => Sys2Proof.Machine.execImul f s
  | .imulh f => Sys2Proof.Machine.execImulh f s
  | .imad f => Sys2Proof.Machine.execImad f s
  | .imin f => Sys2Proof.Machine.execImin f s
  | .imax f => Sys2Proof.Machine.execImax f s
  | .iabs f => Sys2Proof.Machine.execIabs f s
  | .and f => Sys2Proof.Machine.execAnd f s
  | .or f => Sys2Proof.Machine.execOr f s
  | .xor f => Sys2Proof.Machine.execXor f s
  | .not f => Sys2Proof.Machine.execNot f s
  | .shl f => Sys2Proof.Machine.execShl f s
  | .shr f => Sys2Proof.Machine.execShr f s
  | .sha f => Sys2Proof.Machine.execSha f s
  | .rot f => Sys2Proof.Machine.execRot f s
  | .popc f => Sys2Proof.Machine.execPopc f s
  | .clz f => Sys2Proof.Machine.execClz f s
  | .ctz f => Sys2Proof.Machine.execCtz f s
  | .brev f => Sys2Proof.Machine.execBrev f s
  | .bfe f => Sys2Proof.Machine.execBfe f s
  | .bfi f => Sys2Proof.Machine.execBfi f s
  | .sel f => Sys2Proof.Machine.execSel f s
  | .icmp f => Sys2Proof.Machine.execIcmp f s
  | .lea f => Sys2Proof.Machine.execLea f s
  | .iaddi f => Sys2Proof.Machine.execIaddi f s
  | .imuli f => Sys2Proof.Machine.execImuli f s
  | .andi f => Sys2Proof.Machine.execAndi f s
  | .ori f => Sys2Proof.Machine.execOri f s
  | .xori f => Sys2Proof.Machine.execXori f s
  | .icmpi f => Sys2Proof.Machine.execIcmpi f s
  | .fadd f => Sys2Proof.Machine.execFadd f s
  | .fsub f => Sys2Proof.Machine.execFsub f s
  | .fmul f => Sys2Proof.Machine.execFmul f s
  | .ffma f => Sys2Proof.Machine.execFfma f s
  | .fmin f => Sys2Proof.Machine.execFmin f s
  | .fmax f => Sys2Proof.Machine.execFmax f s
  | .fcmp f => Sys2Proof.Machine.execFcmp f s
  | .fclass f => Sys2Proof.Machine.execFclass f s
  | .frcp f => Sys2Proof.Machine.execFrcp f s
  | .frsq f => Sys2Proof.Machine.execFrsq f s
  | .fsqrt f => Sys2Proof.Machine.execFsqrt f s
  | .fexp2 f => Sys2Proof.Machine.execFexp2 f s
  | .flog2 f => Sys2Proof.Machine.execFlog2 f s
  | .ftanh f => Sys2Proof.Machine.execFtanh f s
  | .fdiv f => Sys2Proof.Machine.execFdiv f s
  | .fscale f => Sys2Proof.Machine.execFscale f s
  | .hadd2 f => Sys2Proof.Machine.execHadd2 f s
  | .hmul2 f => Sys2Proof.Machine.execHmul2 f s
  | .hfma2 f => Sys2Proof.Machine.execHfma2 f s
  | .cvt f => Sys2Proof.Machine.execCvt f s
  | .cvtpk f => Sys2Proof.Machine.execCvtpk f s
  | .cvtq f => Sys2Proof.Machine.execCvtq f s
  | .frnd f => Sys2Proof.Machine.execFrnd f s
  | .mov f => Sys2Proof.Machine.execMov f s
  | .movi f => Sys2Proof.Machine.execMovi f s
  | .movs f => Sys2Proof.Machine.execMovs f s
  | .shfl f => Sys2Proof.Machine.execShfl f s
  | .vote f => Sys2Proof.Machine.execVote f s
  | .matchLanes f => Sys2Proof.Machine.execMatchLanes f s
  | .redux f => Sys2Proof.Machine.execRedux f s
  | .bcast f => Sys2Proof.Machine.execBcast f s
  | .bsel f => Sys2Proof.Machine.execBsel f s
  | .getsp f => Sys2Proof.Machine.execGetsp f s
  | .bra f => Sys2Proof.Machine.execBra f s
  | .brx f => Sys2Proof.Machine.execBrx f s
  | .brxG f => Sys2Proof.Machine.execBrxG f s
  | .join f => Sys2Proof.Machine.execJoin f s
  | .call f => Sys2Proof.Machine.execCall f s
  | .ret f => Sys2Proof.Machine.execRet f s
  | .exit f => Sys2Proof.Machine.execExit f s
  | .yield f => Sys2Proof.Machine.execYield f s
  | .bri f => Sys2Proof.Machine.execBri f s
  | .warpsync f => Sys2Proof.Machine.execWarpsync f s
  | .ld f => Sys2Proof.Machine.execLd f s
  | .st f => Sys2Proof.Machine.execSt f s
  | .atom f => Sys2Proof.Machine.execAtom f s
  | .atomc f => Sys2Proof.Machine.execAtomc f s
  | .red f => Sys2Proof.Machine.execRed f s
  | .pref f => Sys2Proof.Machine.execPref f s
  | .cctl f => Sys2Proof.Machine.execCctl f s
  | .ldc f => Sys2Proof.Machine.execLdc f s
  | .cpy f => Sys2Proof.Machine.execCpy f s
  | .cpyl f => Sys2Proof.Machine.execCpyl f s
  | .cpylSt f => Sys2Proof.Machine.execCpylSt f s
  | .cwany f => Sys2Proof.Machine.execCwany f s
  | .cwall f => Sys2Proof.Machine.execCwall f s
  | .cfind f => Sys2Proof.Machine.execCfind f s
  | .bara f => Sys2Proof.Machine.execBara f s
  | .barw f => Sys2Proof.Machine.execBarw f s
  | .bar f => Sys2Proof.Machine.execBar f s
  | .fence f => Sys2Proof.Machine.execFence f s
  | .xfence f => Sys2Proof.Machine.execXfence f s
  | .give f => Sys2Proof.Machine.execGive f s
  | .giveSeq f => Sys2Proof.Machine.execGiveSeq f s
  | .take f => Sys2Proof.Machine.execTake f s
  | .takeAny f => Sys2Proof.Machine.execTakeAny f s
  | .town f => Sys2Proof.Machine.execTown f s
  | .tfree f => Sys2Proof.Machine.execTfree f s
  | .tgrab f => Sys2Proof.Machine.execTgrab f s
  | .coll f => Sys2Proof.Machine.execColl f s
  | .collw f => Sys2Proof.Machine.execCollw f s
  | .collq f => Sys2Proof.Machine.execCollq f s
  | .collx f => Sys2Proof.Machine.execCollx f s
  | .sigclaim f => Sys2Proof.Machine.execSigclaim f s
  | .sigdone f => Sys2Proof.Machine.execSigdone f s
  | .sigyield f => Sys2Proof.Machine.execSigyield f s
  | .sigstage f => Sys2Proof.Machine.execSigstage f s
  | .sigswap f => Sys2Proof.Machine.execSigswap f s
  | .sigread f => Sys2Proof.Machine.execSigread f s
  | .taskget f => Sys2Proof.Machine.execTaskget f s
  | .taskput f => Sys2Proof.Machine.execTaskput f s
  | .taskend f => Sys2Proof.Machine.execTaskend f s
  | .slotget f => Sys2Proof.Machine.execSlotget f s
  | .slotpost f => Sys2Proof.Machine.execSlotpost f s
  | .slotpostEnd f => Sys2Proof.Machine.execSlotpostEnd f s
  | .ccinc f => Sys2Proof.Machine.execCcinc f s
  | .cancel f => Sys2Proof.Machine.execCancel f s
  | .trap f => Sys2Proof.Machine.execTrap f s
  | .bkpt f => Sys2Proof.Machine.execBkpt f s
  | .rft f => Sys2Proof.Machine.execRft f s
  | .getctl f => Sys2Proof.Machine.execGetctl f s
  | .setctl f => Sys2Proof.Machine.execSetctl f s
  | .felrd f => Sys2Proof.Machine.execFelrd f s
  | .clock f => Sys2Proof.Machine.execClock f s
  | .waitev f => Sys2Proof.Machine.execWaitev f s
  | .postev f => Sys2Proof.Machine.execPostev f s
  | .qpush f => Sys2Proof.Machine.execQpush f s
  | .stream f => Sys2Proof.Machine.execStream f s
  | .xld f => Sys2Proof.Machine.execXld f s
  | .xst f => Sys2Proof.Machine.execXst f s
  | .xldg f => Sys2Proof.Machine.execXldg f s
  | .anym f => Sys2Proof.Machine.execAnym f s
  | .allm f => Sys2Proof.Machine.execAllm f s
  | .cmpt f => Sys2Proof.Machine.execCmpt f s
  | .hset f => Sys2Proof.Machine.execHset f s
  | .hadvp f => Sys2Proof.Machine.execHadvp f s
  | .hadvc f => Sys2Proof.Machine.execHadvc f s
  | .hqry f => Sys2Proof.Machine.execHqry f s
  | .sgive f => Sys2Proof.Machine.execSgive f s
  | .stake f => Sys2Proof.Machine.execStake f s
  | .scalew f => Sys2Proof.Machine.execScalew f s
  | .scaleg f => Sys2Proof.Machine.execScaleg f s
  | .vadd f => Sys2Proof.Machine.execVadd f s
  | .vsub f => Sys2Proof.Machine.execVsub f s
  | .vmul f => Sys2Proof.Machine.execVmul f s
  | .vfma f => Sys2Proof.Machine.execVfma f s
  | .vmin f => Sys2Proof.Machine.execVmin f s
  | .vmax f => Sys2Proof.Machine.execVmax f s
  | .vabs f => Sys2Proof.Machine.execVabs f s
  | .vexp2 f => Sys2Proof.Machine.execVexp2 f s
  | .vtanh f => Sys2Proof.Machine.execVtanh f s
  | .vrcp f => Sys2Proof.Machine.execVrcp f s
  | .vrsq f => Sys2Proof.Machine.execVrsq f s
  | .vcmp f => Sys2Proof.Machine.execVcmp f s
  | .vsel f => Sys2Proof.Machine.execVsel f s
  | .vcvt f => Sys2Proof.Machine.execVcvt f s
  | .vmaxe f => Sys2Proof.Machine.execVmaxe f s
  | .vcvtq f => Sys2Proof.Machine.execVcvtq f s
  | .vrotr f => Sys2Proof.Machine.execVrotr f s
  | .vrotc f => Sys2Proof.Machine.execVrotc f s
  | .vbcr f => Sys2Proof.Machine.execVbcr f s
  | .vbcc f => Sys2Proof.Machine.execVbcc f s
  | .vredr f => Sys2Proof.Machine.execVredr f s
  | .vredc f => Sys2Proof.Machine.execVredc f s
  | .vmov f => Sys2Proof.Machine.execVmov f s
  | .vand f => Sys2Proof.Machine.execVand f s
  | .vor f => Sys2Proof.Machine.execVor f s
  | .vxor f => Sys2Proof.Machine.execVxor f s
  | .vshl f => Sys2Proof.Machine.execVshl f s
  | .vshr f => Sys2Proof.Machine.execVshr f s
  | .viota f => Sys2Proof.Machine.execViota f s
  | .viadd f => Sys2Proof.Machine.execViadd f s
  | .vimul f => Sys2Proof.Machine.execVimul f s
  | .vrelu f => Sys2Proof.Machine.execVrelu f s
  | .vscale f => Sys2Proof.Machine.execVscale f s
  | .mma f => Sys2Proof.Machine.execMma f s
  | .mloop f => Sys2Proof.Machine.execMloop f s
  | .mzero f => Sys2Proof.Machine.execMzero f s
  | .mtrn f => Sys2Proof.Machine.execMtrn f s
  | .mloopt f => Sys2Proof.Machine.execMloopt f s
  | .mstat f => Sys2Proof.Machine.execMstat f s
  | .tld f => Sys2Proof.Machine.execTld f s
  | .tst f => Sys2Proof.Machine.execTst f s
  | .tsld f => Sys2Proof.Machine.execTsld f s
  | .tsst f => Sys2Proof.Machine.execTsst f s
  | .tldx f => Sys2Proof.Machine.execTldx f s
  | .tcpy f => Sys2Proof.Machine.execTcpy f s
  | .cfence f => Sys2Proof.Machine.execCfence f s
  | .sbr f => Sys2Proof.Machine.execSbr f s
  | .sbrq f => Sys2Proof.Machine.execSbrq f s
  | .loopi f => Sys2Proof.Machine.execLoopi f s
  | .loopb f => Sys2Proof.Machine.execLoopb f s
  | .syncl f => Sys2Proof.Machine.execSyncl f s
  | .shalt f => Sys2Proof.Machine.execShalt f s
  | .scall f => Sys2Proof.Machine.execScall f s
  | .sret f => Sys2Proof.Machine.execSret f s
  | .sbrm f => Sys2Proof.Machine.execSbrm f s
  | .reset => Sys2Proof.Machine.execReset s
  | .bootImage => Sys2Proof.Machine.execBootImage s
  | .jobCreation => Sys2Proof.Machine.execJobCreation s
  | .domainDefinition => Sys2Proof.Machine.execDomainDefinition s
  | .xltInv => Sys2Proof.Machine.execXltInv s
  | .fqReplay => Sys2Proof.Machine.execFqReplay s
  | .walkComplete => Sys2Proof.Machine.execWalkComplete s
  | .queueTailWrite => Sys2Proof.Machine.execQueueTailWrite s
  | .queueStateWrite => Sys2Proof.Machine.execQueueStateWrite s
  | .registerWrite => Sys2Proof.Machine.execRegisterWrite s
  | .preempt => Sys2Proof.Machine.execPreempt s
  | .resume => Sys2Proof.Machine.execResume s
  | .terminate => Sys2Proof.Machine.execTerminate s
  | .terminationComplete => Sys2Proof.Machine.execTerminationComplete s
  | .mig => Sys2Proof.Machine.execMig s
  | .migrationPassComplete => Sys2Proof.Machine.execMigrationPassComplete s
  | .migrationSwitchComplete => Sys2Proof.Machine.execMigrationSwitchComplete s
  | .migclose => Sys2Proof.Machine.execMigclose s
  | .cnres => Sys2Proof.Machine.execCnres s
  | .attest => Sys2Proof.Machine.execAttest s
  | .keyload => Sys2Proof.Machine.execKeyload s
  | .wake => Sys2Proof.Machine.execWake s
  | .plcRetiredWrite => Sys2Proof.Machine.execPlcRetiredWrite s
  | .plcL2retWrite => Sys2Proof.Machine.execPlcL2retWrite s
  | .plcClretWrite => Sys2Proof.Machine.execPlcClretWrite s
  | .l2RetirementApply => Sys2Proof.Machine.execL2RetirementApply s
  | .freezeNow => Sys2Proof.Machine.execFreezeNow s
  | .freeze => Sys2Proof.Machine.execFreeze s
  | .readout => Sys2Proof.Machine.execReadout s
  | .hostwinDataWrite => Sys2Proof.Machine.execHostwinDataWrite s
  | .hostwinDataRead => Sys2Proof.Machine.execHostwinDataRead s
  | .hostwinFenceWrite => Sys2Proof.Machine.execHostwinFenceWrite s
  | .hostwinFenceRead => Sys2Proof.Machine.execHostwinFenceRead s
  | .idleEntry => Sys2Proof.Machine.execIdleEntry s
  | .operatingPointChange => Sys2Proof.Machine.execOperatingPointChange s
  | .powerLimitExceeded => Sys2Proof.Machine.execPowerLimitExceeded s
  | .thermalThrottle => Sys2Proof.Machine.execThermalThrottle s
  | .criticalTemperature => Sys2Proof.Machine.execCriticalTemperature s
  | .cxlPortDown => Sys2Proof.Machine.execCxlPortDown s
  | .dripDrain => Sys2Proof.Machine.execDripDrain s
  | .bankPowerTransition => Sys2Proof.Machine.execBankPowerTransition s
  | .bankReturnToOn => Sys2Proof.Machine.execBankReturnToOn s
  | .flitReceive => Sys2Proof.Machine.execFlitReceive s
  | .flitReplayTimeout => Sys2Proof.Machine.execFlitReplayTimeout s
  | .rds => Sys2Proof.Machine.execRds s
  | .rdx => Sys2Proof.Machine.execRdx s
  | .upg => Sys2Proof.Machine.execUpg s
  | .wb => Sys2Proof.Machine.execWb s
  | .evc => Sys2Proof.Machine.execEvc s
  | .atm => Sys2Proof.Machine.execAtm s
  | .ncr => Sys2Proof.Machine.execNcr s
  | .ncw => Sys2Proof.Machine.execNcw s
  | .inv => Sys2Proof.Machine.execInv s
  | .fwds => Sys2Proof.Machine.execFwds s
  | .fwdi => Sys2Proof.Machine.execFwdi s
  | .gntx => Sys2Proof.Machine.execGntx s
  | .wback => Sys2Proof.Machine.execWback s
  | .invack => Sys2Proof.Machine.execInvack s
  | .fwdack => Sys2Proof.Machine.execFwdack s
  | .atmr => Sys2Proof.Machine.execAtmr s
  | .ncwack => Sys2Proof.Machine.execNcwack s
  | .datas => Sys2Proof.Machine.execDatas s
  | .datae => Sys2Proof.Machine.execDatae s
  | .datam => Sys2Proof.Machine.execDatam s
  | .fwddata => Sys2Proof.Machine.execFwddata s
  | .ncrd => Sys2Proof.Machine.execNcrd s
  | .homeLocalRead => Sys2Proof.Machine.execHomeLocalRead s
  | .homeLocalWrite => Sys2Proof.Machine.execHomeLocalWrite s
  | .memoryReadComplete => Sys2Proof.Machine.execMemoryReadComplete s
  | .remoteL2Eviction => Sys2Proof.Machine.execRemoteL2Eviction s
  | .remoteL2Access => Sys2Proof.Machine.execRemoteL2Access s
  | .peerRequest => Sys2Proof.Machine.execPeerRequest s
  | .peerResponse => Sys2Proof.Machine.execPeerResponse s
  | .launch => Sys2Proof.Machine.execLaunch s
  | .graph => Sys2Proof.Machine.execGraph s
  | .copy => Sys2Proof.Machine.execCopy s
  | .wait => Sys2Proof.Machine.execWait s
  | .signal => Sys2Proof.Machine.execSignal s
  | .collCommand => Sys2Proof.Machine.execCollCommand s
  | .cancelCommand => Sys2Proof.Machine.execCancelCommand s
  | .phaseEnd => Sys2Proof.Machine.execPhaseEnd s
  | .unitCompletion => Sys2Proof.Machine.execUnitCompletion s
  | .blockPlacement => Sys2Proof.Machine.execBlockPlacement s
  | .blockEnd => Sys2Proof.Machine.execBlockEnd s
  | .distributorPreemption => Sys2Proof.Machine.execDistributorPreemption s
  | .blockSuspension => Sys2Proof.Machine.execBlockSuspension s
  | .blockResume => Sys2Proof.Machine.execBlockResume s
  | .barrierWatchdogExpiry => Sys2Proof.Machine.execBarrierWatchdogExpiry s
  | .regroupCompletion => Sys2Proof.Machine.execRegroupCompletion s
  | .regroupTimeout => Sys2Proof.Machine.execRegroupTimeout s
  | .warpResultLands => Sys2Proof.Machine.execWarpResultLands s
  | .tileBecomesGiven => Sys2Proof.Machine.execTileBecomesGiven s
  | .takeCompletion => Sys2Proof.Machine.execTakeCompletion s
  | .copyCompletion => Sys2Proof.Machine.execCopyCompletion s
  | .streamItemDelivery => Sys2Proof.Machine.execStreamItemDelivery s
  | .streamRecordCompletion => Sys2Proof.Machine.execStreamRecordCompletion s
  | .carafeStateLoadComplete => Sys2Proof.Machine.execCarafeStateLoadComplete s
  | .carafeWritebackComplete => Sys2Proof.Machine.execCarafeWritebackComplete s
  | .ringProducerClaim => Sys2Proof.Machine.execRingProducerClaim s
  | .ringPublish => Sys2Proof.Machine.execRingPublish s
  | .ringConsumerClaim => Sys2Proof.Machine.execRingConsumerClaim s
  | .ringConsumerRelease => Sys2Proof.Machine.execRingConsumerRelease s
  | .ringEndToken => Sys2Proof.Machine.execRingEndToken s
  | .qpushRecordWrite => Sys2Proof.Machine.execQpushRecordWrite s
  | .waitevTimeout => Sys2Proof.Machine.execWaitevTimeout s
  | .waitevPoll => Sys2Proof.Machine.execWaitevPoll s
  | .sight => Sys2Proof.Machine.execSight s
  | .assigned => Sys2Proof.Machine.execAssigned s
  | .present => Sys2Proof.Machine.execPresent s
  | .go => Sys2Proof.Machine.execGo s
  | .collationCancel => Sys2Proof.Machine.execCollationCancel s
  | .cancelReply => Sys2Proof.Machine.execCancelReply s
  | .refused => Sys2Proof.Machine.execRefused s
  | .done => Sys2Proof.Machine.execDone s
  | .keepalive => Sys2Proof.Machine.execKeepalive s
  | .collatorReplication => Sys2Proof.Machine.execCollatorReplication s
  | .replicationAck => Sys2Proof.Machine.execReplicationAck s
  | .collatorTakeover => Sys2Proof.Machine.execCollatorTakeover s
  | .standbySearch => Sys2Proof.Machine.execStandbySearch s
  | .takeover => Sys2Proof.Machine.execTakeover s
  | .collatorLostTimeout => Sys2Proof.Machine.execCollatorLostTimeout s
  | .collectiveTurn => Sys2Proof.Machine.execCollectiveTurn s
  | .collectiveDataPhaseComplete => Sys2Proof.Machine.execCollectiveDataPhaseComplete s
  | .memberSilenceTimeout => Sys2Proof.Machine.execMemberSilenceTimeout s
  | .sequencerBundleIssue => Sys2Proof.Machine.execSequencerBundleIssue s
  | .synclRestart => Sys2Proof.Machine.execSynclRestart s
  | .seqResultWrite => Sys2Proof.Machine.execSeqResultWrite s
  | .mloopStep => Sys2Proof.Machine.execMloopStep s
  | .seqQueueEntryComplete => Sys2Proof.Machine.execSeqQueueEntryComplete s
  | .loadClaimComplete => Sys2Proof.Machine.execLoadClaimComplete s
  | .sequencerFaultDelivery => Sys2Proof.Machine.execSequencerFaultDelivery s
  | .powerLoss => Sys2Proof.Machine.execPowerLoss s

end Sys2Proof.Machine
end

