-- ==== Sys2Proof/Machine/Select.lean ====
section
/-! DEFINITION. The choice of the warps that issue in a cycle (R218-R220): the issue classes, the tiles an instruction reads and writes, and the ports the sequencer's reservations leave (R43, R54). -/
namespace Sys2Proof.Machine
open Sys2Proof

/-! The tiles of an instruction. -/

/-- The sources and the v registers written of an RR word. -/
def rrUse (f : RR) (n : Nat) (wide : Bool) : List Src × List Nat := (RR.srcs f n wide, Dest.vregs { code := f.dst.toNat, isS := f.ud, wide := wide })
/-- Those of an RI word. -/
def riUse (f : RI) : List Src × List Nat :=
  ([⟨f.sa.toNat, RI.aS f, RI.dS f⟩], Dest.vregs { code := f.dst.toNat, isS := RI.dS f, wide := RI.dS f })
/-- Those of a MEM word. -/
def memUse (f : MEM) (srcs dsts : List Nat) : List Src × List Nat := ((baseSrc f.base).toList ++ groupSrcs srcs, dsts)

/-- The sources that an instruction of a warp reads and the v registers it writes, as the checks before it name them (R337). -/
def vUse : Instr → List Src × List Nat
  | .imad f | .bfi f | .lea f => rrUse f 3 (ty64 f.ty)
  | .iabs f | .not f | .popc f | .clz f | .ctz f | .brev f | .mov f | .redux f | .bcast f => rrUse f 1 (ty64 f.ty)
  | .iadd f | .isub f | .imul f | .imulh f | .imin f | .imax f | .and f | .or f | .xor f | .shl f | .shr f | .sha f | .rot f | .bfe f | .sel f => rrUse f 2 (ty64 f.ty)
  | .icmp f => (RR.srcs f 2 (ty64 f.ty), [])
  | .iaddi f | .imuli f | .andi f | .ori f | .xori f => riUse f
  | .icmpi f => ([⟨f.sa.toNat, RI.aS f, false⟩], [])
  | .fadd f | .fsub f | .fmul f | .fmin f | .fmax f | .fdiv f | .fscale f | .hadd2 f | .hmul2 f => rrUse f 2 false
  | .ffma f | .hfma2 f | .bsel f | .cvtq f => rrUse f 3 false
  | .fclass f | .frcp f | .frsq f | .fsqrt f | .fexp2 f | .flog2 f | .ftanh f | .frnd f | .vote f => rrUse f 1 false
  | .fcmp f => (RR.srcs f 2 false, [])
  | .cvt f => (RR.srcs f 1 (ty64 (f.sc.extractLsb' 0 5)), (rrUse f 0 (ty64 f.ty)).2)
  | .cvtpk f => rrUse f (if positions f.ty = 2 then 2 else 3) false
  | .movi f => ([], (riUse f).2)
  | .movs f => (RR.srcs f 1 (ty64 f.ty), [])
  | .getsp f => ([], (rrUse f 0 (f.sa == 7 || f.sa == 9)).2)
  | .shfl f => ([⟨f.sa.toNat, f.aS, ty64 f.ty⟩, ⟨f.sb.toNat, f.bS, false⟩], (rrUse f 0 (ty64 f.ty)).2)
  | .matchLanes f => (RR.srcs f 1 (ty64 f.ty), (rrUse f 0 false).2)
  | .ld f => memUse f [] (dataGroup f.data.toNat (MEM.bytes f))
  | .st f | .red f => memUse f (dataGroup f.data.toNat (MEM.bytes f)) []
  | .atom f => memUse f (dataGroup f.data.toNat (MEM.bytes f)) (dataGroup f.data.toNat (MEM.bytes f))
  | .atomc f => memUse f (dataGroup f.data.toNat (2 * MEM.bytes f)) (dataGroup f.data.toNat (MEM.bytes f))
  | .pref f | .cctl f | .ldc f => memUse f [] []
  | _ => ([], [])

/-! Candidates. -/

/-- A candidate of the selection: its slot, class, and place in the order, and the tiles it reads and writes. -/
structure Cand where
  slot : Nat
  cls : IssueClass
  owner : Bool
  losses : Nat
  age : Nat
  reads : List Nat := []
  writes : List Nat := []
  deriving DecidableEq, Repr

/-- The candidate that a warp with the instruction at an address is. -/
def State.candAt (s : State) (c k : Nat) (w : Warp) (owner : Bool) (pc : Word64) : Cand :=
  match s.peekWord c k w pc with
  | none => ⟨k, .ctl, owner, w.losses, w.readyAge, [], []⟩
  | some x =>
    let u := match decodeWarp x with
      | .ok i => vUse i
      | .error _ => ([], [])
    ⟨k, classOf x, owner, w.losses, w.readyAge, s.tilesFor c k w (u.1.flatMap Src.vregs), s.tilesFor c k w u.2⟩

/-- The candidate a slot's warp is: READY, no wait of its header outstanding, not in an extra issue cycle (R43, R219). -/
def State.cand (s : State) (c k : Nat) : Option Cand :=
  match s.warp c k with
  | none => none
  | some w =>
    if !(s.blockRuns w && w.isReady && decide (w.issueAt ≤ s.clock)) || s.atHeader c k w then none
    else match w.clause with
      | some _ => some (s.candAt c k w (decide (0 < w.pos)) w.pc)
      | none => some { s.candAt c k w false (w.pc + 8) with cls := if (s.peekWord c k w w.pc).isSome then (s.candAt c k w false (w.pc + 8)).cls else .ctl }

/-- The order of candidates: clause owners, then eight losses, then the oldest ready age, then the lowest slot (R219). -/
def Cand.le (a b : Cand) : Bool :=
  if a.owner != b.owner then a.owner
  else if decide (8 ≤ a.losses) != decide (8 ≤ b.losses) then decide (8 ≤ a.losses)
  else if a.age != b.age then decide (a.age < b.age)
  else decide (a.slot ≤ b.slot)

/-! Ports (R43, R219, R220). -/

/-- Tiles of a list in a bank. -/
def inBank (ts : List Nat) (b : Nat) : Nat := (ts.filter fun t => t / 8 == b).length

/-- Reads of a bank in one issue cycle: an instruction that needs more than two takes a second cycle (R43). -/
def Cand.readsOf (x : Cand) (b : Nat) : Nat := min 2 (inBank x.reads b)
/-- Writes of a bank in one issue cycle. -/
def Cand.writesOf (x : Cand) (b : Nat) : Nat := min 1 (inBank x.writes b)
/-- Does a candidate take an extra issue cycle (R43)? -/
def Cand.twice (x : Cand) : Bool := (List.range 16).any fun b => decide (2 < inBank x.reads b)

/-- Do a candidate's reads and writes fit the ports that reservations and earlier picks leave (R43, R219)? -/
def Cand.fits (x : Cand) (reserved : Nat → Nat × Nat) (picked : List Cand) : Bool :=
  (List.range 16).all fun b =>
    decide ((reserved b).1 + picked.foldl (fun n y => n + y.readsOf b) (x.readsOf b) ≤ 2 ∨ x.readsOf b = 0) &&
    decide ((reserved b).2 + picked.foldl (fun n y => n + y.writesOf b) (x.writesOf b) ≤ 1 ∨ x.writesOf b = 0)

/-- At most two candidates of different classes whose ports are free and whose banks are ON; the others that a class, a port or a retention stall stopped lose (R54, R219). -/
def pickFrom (reserved : Nat → Nat × Nat) (on : Cand → Bool) : List Cand → List Cand → List Cand → List Cand × List Cand
  | [], picked, lost => (picked, lost)
  | x :: t, picked, lost =>
    if 2 ≤ picked.length then (picked, lost)
    else if picked.any (·.cls == x.cls) || !x.fits reserved picked || !on x then pickFrom reserved on t picked (lost ++ [x])
    else pickFrom reserved on t (picked ++ [x]) lost

/-- Ports of a core's banks that its sequencer has reserved in this cycle (R43, R375). -/
def State.reserved (s : State) (c b : Nat) : Nat × Nat :=
  match s.seq c with
  | some q => q.portUse s.clock b
  | none => (0, 0)

/-- Are the banks of a candidate's tiles ON (R53, R54)? -/
def State.banksOn (s : State) (c : Nat) (x : Cand) : Bool := (s.wakeBanks c (x.reads ++ x.writes)).isNone

/-- The picks of one quadrant and its losers (R219). -/
def State.pickQuadrant (s : State) (c q : Nat) : List Cand × List Cand :=
  pickFrom (s.reserved c) (s.banksOn c) (sortBy Cand.le ((List.range 12).filterMap fun i => s.cand c (12 * q + i))) [] []

/-- Count a loss; a bank in RETENTION begins its return (R53, R54). -/
def State.lose (s : State) (c : Nat) (x : Cand) : State :=
  let s1 := (s.wakeBanks c (x.reads ++ x.writes)).getD s
  match s1.warp c x.slot with
  | some w => s1.setWarp c x.slot { w with losses := w.losses + 1 }
  | none => s1

/-- A pick that takes an extra issue cycle issues nothing in the next one (R43). -/
def State.occupy (s : State) (c : Nat) (x : Cand) : State :=
  match x.twice, s.warp c x.slot with
  | true, some w => s.setWarp c x.slot { w with issueAt := s.clock + 2 }
  | _, _ => s

/-- Cores on which a warp stands. -/
def State.warpCores (s : State) : List Nat := ((s.warps.map fun e => e.1 / 48).filter (decide <| · < 192)).eraseDups

/-- The warps that issue in this cycle, and the losses counted (R219). -/
def State.picks (s : State) : List Turn × State :=
  s.warpCores.foldl (fun (r : List Turn × State) c => (List.range 4).foldl (fun (r : List Turn × State) q =>
    let p := s.pickQuadrant c q
    (r.1 ++ p.1.map (fun x => Turn.warp c x.slot), p.1.foldl (fun (t : State) x => t.occupy c x) (p.2.foldl (fun (t : State) x => t.lose c x) r.2))) r) ([], s)

/-- The selection of a cycle stands next on the agenda. -/
def State.select (s : State) : State :=
  let p := s.picks
  { p.2 with agenda := p.1 ++ p.2.agenda }

end Sys2Proof.Machine
end

