-- ==== Sys2Proof/Machine/Schedule.lean ====
section
/-! DEFINITION. What each cycle brings: the device steps that are due, the sequencers that issue, and the warps selected (log entry 4). -/
namespace Sys2Proof.Machine
open Sys2Proof

/-! The steps due in a cycle, each where its own condition holds. -/

/-- A turn of a device step, where it is due. -/
def turnIf (p : Bool) (i : Instr) (a : Arg) : List Turn := if p then [.ev i a] else []

/-- Flits that arrive, and modules whose flits are to be sent again (R138, R144). -/
def State.dueLinks (s : State) : List Turn :=
  if s.links.isEmpty then []
  else s.modules.flatMap fun m => [0, 1].flatMap fun d =>
    (match s.arriving d m with
      | some b => [.ev .flitReceive { die := d, id := m, bytes := b }]
      | none => []) ++
    turnIf (s.replayDue d m) .flitReplayTimeout { die := d, id := m }

/-- The effects of bundles that are due, in the order of their cycles and bundles (R373).
DESIGN CHOICE (log entry 29): R111 leaves the SHARED accesses of one bundle unordered; those that land in one cycle are performed in slot order. -/
def Seq.landing (q : Seq) (clock : Nat) : List SeqPend :=
  sortBy (fun (a b : SeqPend) => decide (a.due < b.due) || (a.due == b.due && (decide (a.bundle < b.bundle) || (a.bundle == b.bundle && decide (a.id ≤ b.id)))))
    (q.pend.filter fun p => decide (p.due ≤ clock) && !q.savesLatch p)

/-- What a core's sequencer brings: a restart, results, a step of a loop, entries of its queues, claims, a fault (R112, R204, R272, R373, R402, R407). -/
def State.dueSeq (s : State) (c : Nat) (q : Seq) : List Turn :=
  turnIf (match q.restart with | some t => decide (t ≤ s.clock) | none => false) .synclRestart { core := c } ++
  (q.landing s.clock).map (fun (p : SeqPend) => Turn.ev .seqResultWrite { core := c, id := p.id }) ++
  turnIf (match q.mloop with | some l => decide (l.nextCycle ≤ s.clock) && !s.loopHeld q l | none => false) .mloopStep { core := c } ++
  turnIf (s.readyEntry c 0).isSome .seqQueueEntryComplete { core := c, id := 0 } ++
  turnIf (s.readyEntry c 1).isSome .seqQueueEntryComplete { core := c, id := 1 } ++
  q.handles.flatMap (fun e => turnIf (match q.claims.find? (·.handle == e.1) with | some k => k.done | none => false) .loadClaimComplete { core := c, id := e.1 }) ++
  turnIf q.fault.isSome .sequencerFaultDelivery { core := c }

/-- What a core brings beside its sequencer: given tiles, copies, banks back in ON (R53, R64, R110). -/
def State.dueCore (s : State) (c : Nat) (k : Core) : List Turn :=
  k.tiles.flatMap (fun e => turnIf (match e.2.giving with | some (_, n) => s.sgiveReady c n | none => false) .tileBecomesGiven { core := c, id := e.1 }) ++
  (s.readyCopies c).map (fun (x : Copy) => Turn.ev .copyCompletion { core := c, id := x.id }) ++
  k.banks.flatMap fun e => turnIf (match e.2.backAt with | some t => decide (t ≤ s.clock) | none => false) .bankReturnToOn { core := c, id := e.1 }

/-- Would a claim of a ring be answered now (R81)? -/
def State.claimOpen (s : State) (ctx : Nat) (st : Store) (consumer : Bool) : Bool :=
  match (s.ringClaim ctx st consumer).2 with
  | .wait => false
  | _ => true

/-- What a warp brings: a TAKE or a claim that completes, an event's word, results (R81, R110, R371, R452). -/
def State.dueWarp (s : State) (c k : Nat) (w : Warp) : List Turn :=
  (match w.wait with
    | some (.take _ _ _ _) => turnIf (s.takeReady c k w).isSome .takeCompletion { core := c, slot := k }
    | some (.ring d st cons _ _) =>
      turnIf (s.claimOpen (s.ctxOf w) st cons) (if cons then .ringConsumerClaim else .ringProducerClaim) { ring := ⟨s.ctxOf w, BitVec.ofNat 64 d, .warp c k, 0⟩ }
    | some (.event _ _ _ _ _ _ _ _) => if s.eventStirs c k w then [.ev .waitevPoll { core := c, slot := k }] else turnIf (s.eventLate w) .waitevTimeout { core := c, slot := k }
    | _ => []) ++
  w.flights.flatMap fun f => turnIf (decide (f.due ≤ s.clock)) .warpResultLands { core := c, slot := k, id := f.id }

/-- What a stream engine's running record brings (R76, R78, R81). -/
def State.dueEngine (s : State) (e : Nat) : List Turn :=
  (match s.claimReady e with
    | some r =>
      let open_ := match (s.ringPlace r).place with
        | some st => s.claimOpen r.ctx st r.stores
        | none => true
      -- how far an engine claims ahead of its items is a free choice (R82)
      turnIf (open_ && (r.claimed.isEmpty || Config.freeNew s.free e)) (if r.stores then .ringConsumerClaim else .ringProducerClaim) { ring := ⟨r.ctx, BitVec.ofNat 64 r.target, .engine e, 0⟩ }
    | none => []) ++
  turnIf (s.itemReady e).isSome .streamItemDelivery { id := e } ++
  turnIf (s.recordOver e).isSome .streamRecordCompletion { id := e }

/-- The step that applies a post. -/
def RingOp.step : RingOp → Instr
  | .publish => .ringPublish
  | .release => .ringConsumerRelease
  | .endToken => .ringEndToken

/-- What a block brings: watchdogs, regroups, transfers of tasks, its end or its suspension (R181, R194, R234, R235, R237, R278). -/
def State.dueBlock (s : State) (bid : Nat) (b : Block) : List Turn :=
  turnIf (s.wdogLate b) .barrierWatchdogExpiry { id := bid } ++
  turnIf (s.regroupReady b) .regroupCompletion { id := bid } ++
  turnIf (s.regroupLate b) .regroupTimeout { id := bid } ++
  (if b.saved.isSome then [] else b.slots.flatMap fun k =>
    turnIf (s.taskMoving b.core k .loading).isSome .carafeStateLoadComplete { core := b.core, slot := k } ++
    turnIf (s.taskMoving b.core k .writing).isSome .carafeWritebackComplete { core := b.core, slot := k }) ++
  turnIf (s.endDue bid b) .blockEnd { id := bid } ++
  turnIf (s.suspendDue bid b) .blockSuspension { id := bid }

/-- The distributor's placements and resumptions, by rank (R214, R217, R479), then pre-emptions (R237). -/
def State.duePlaces (s : State) : List Turn :=
  let puts := s.launches.flatMap fun e =>
    if s.placing e.2 then ([0, 1].filter (s.placeDue e.1 e.2)).map fun d => (s.launchRank e.1 e.2, Turn.ev .blockPlacement { id := e.1, die := d })
    else []
  let backs := s.blocks.flatMap fun e => if s.resumeDue e.1 e.2 then [(s.resumeRank e.1 e.2, Turn.ev .blockResume { id := e.1 })] else []
  (sortBy (fun (a b : Rank × Turn) => a.1.le b.1) (puts ++ backs)).map Prod.snd ++
  s.launches.flatMap fun e => turnIf (s.preemptDue e.2) .distributorPreemption { id := e.1 }

/-- Commands that may start, one of each queue (R211). -/
def State.dueCommands (s : State) : List Turn :=
  s.queues.flatMap fun e => match s.nextCommand e.1 with
    | some (i, c) => turnIf (!c.flags.getLsbD 0 || s.earlierDone e.2) i { cmd := c }
    | none => []

/-- Units that are complete, and terminations to be ended (R178, R280). -/
def State.dueUnits (s : State) : List Turn :=
  s.launches.flatMap (fun e => turnIf (s.launchOver e.1 e.2) .unitCompletion { unit := .launch e.1 }) ++
  s.graphs.flatMap (fun e => turnIf (s.graphOver e.2) .unitCompletion { unit := .graph e.1 }) ++
  s.phases.flatMap (fun e => turnIf (s.phaseOver e.1 e.2) .unitCompletion { unit := .phase e.1 }) ++
  s.ctxs.flatMap fun e => turnIf (s.termDue e.1) .terminationComplete { ctx := e.1 }

/-- What collation brings (R253, R254, R258, R259). -/
def State.dueDomain (s : State) (d : Domain) : List Turn :=
  let a : Arg := { ctx := d.ctx, dom := d.domid }
  turnIf d.turnReady .collectiveTurn a ++
  turnIf d.dataReady .collectiveDataPhaseComplete a ++
  turnIf ((d.silent s.clock).isSome && Config.freeNew s.free d.domid) .memberSilenceTimeout a ++
  turnIf (d.activeGone s.clock) .collatorTakeover a ++
  turnIf (d.asks && decide (d.askedAt + cycles2ms ≤ s.clock)) .standbySearch a ++
  turnIf (d.lost s.clock) .collatorLostTimeout a

/-- What memory brings: walks, invalidations, reads for the other die, migrations; how long a read or a pass takes is free (R34, R35, R148, R158; log entry 4). -/
def State.dueMemory (s : State) : List Turn :=
  s.misses.flatMap (fun m => turnIf (m.walkDone s.clock) .walkComplete { die := m.die, ctx := m.ctx, addr := m.page }) ++
  ((s.invs.map fun (x : Inv) => x.ctx).eraseDups).flatMap (fun c => turnIf (match s.invs.find? (·.ctx == c) with | some x => !s.invHeld x | none => false) .xltInv { ctx := c, flag := true }) ++
  s.lines.flatMap (fun e => turnIf (e.2.home == HomeSt.hwMem && Config.freeNew s.free e.1) .memoryReadComplete { addr := e.1 * 128 }) ++
  s.mig.flatMap fun g =>
    turnIf (g.state == MigSt.copy && Config.freeNew s.free (g.req.old / 128)) .migrationPassComplete { addr := g.req.old } ++
    turnIf (s.switchReady g) .migrationSwitchComplete { addr := g.req.old }

/-- Requests of other packages that need wait no longer (R148, R158). -/
def State.duePeers (s : State) : List Turn :=
  s.peerHeld.flatMap fun r => turnIf (!(s.peerAllowed r && s.peerWaits r)) .peerRequest { preq := r, flag := true }

/-- What the package's own logic brings (R172, R174, R284, R460). -/
def State.duePackage (s : State) : List Turn :=
  s.drip.flatMap (fun e => turnIf (e.2.2.drainsAt s.clock) .dripDrain { addr := e.1, id := e.2.1 }) ++
  turnIf s.freezeDue .freeze {} ++
  turnIf s.idleDue .idleEntry {} ++
  turnIf (s.power == Power.idle && s.l2pend) .l2RetirementApply {}

/-- The device steps due in this cycle, in the order they are taken. -/
def State.due (s : State) : List Turn :=
  s.dueLinks ++
  s.warps.flatMap (fun e => if e.1 < 192 * 48 then s.dueWarp (e.1 / 48) (e.1 % 48) e.2 else []) ++
  s.cores.flatMap (fun e => (match e.2.seq with | some q => s.dueSeq e.1 q | none => []) ++ s.dueCore e.1 e.2) ++
  s.engines.flatMap (fun e => s.dueEngine e.1) ++
  s.ringHeld.flatMap (fun r => turnIf (s.postReady r) r.op.step { ring := ⟨r.ctx, BitVec.ofNat 64 r.desc, .engine 0, BitVec.ofNat 64 r.pos⟩ }) ++
  s.qpushes.flatMap (fun r => turnIf (!r.written) .qpushRecordWrite { id := r.queue, addr := r.pos }) ++
  s.blocks.flatMap (fun e => s.dueBlock e.1 e.2) ++
  s.dueMemory ++ s.duePeers ++ s.dueUnits ++ s.duePlaces ++ s.dueCommands ++
  s.domains.flatMap s.dueDomain ++ s.defining.map (fun x => Turn.ev .domainDefinition { ctx := x.1, flag := true }) ++ s.duePackage

/-- The sequencers that may issue a bundle in this cycle (R201). -/
def State.seqTurns (s : State) : List Turn :=
  s.cores.filterMap fun e => match e.2.seq with
    | some q => (match q.st with
      | .running | .xlate _ => some (.seq e.1)
      | _ => none)
    | none => none

/-- What ends a cycle: results written in it, and tiles whose SGIVE they complete (R110, R373). -/
def State.ending (s : State) : List Turn :=
  s.cores.flatMap fun e => match e.2.seq with
    | some q =>
      ((q.landing (s.clock + 1)).filter fun p => decide (s.clock < p.due)).map (fun (p : SeqPend) => Turn.ev .seqResultWrite { core := e.1, id := p.id }) ++
      e.2.tiles.flatMap fun t => turnIf t.2.giving.isSome .tileBecomesGiven { core := e.1, id := t.1 }
    | none => []

/-! The next cycle. -/

/-- What changes with the cycle itself: the operating point's hold ends, the time since the package is quiet, watchdogs, SYNCL lines, KEEPALIVEs, launches that do not fit, the bridge's transmitters, command records that cannot be read, failed integrity checks, writes of path TK and numbers of result records that waited for a page. -/
def State.cycle (s : State) : State :=
  let hold := match s.opHold with
    | some t => if t ≤ s.clock then none else some t
    | none => none
  let since := if s.power == Power.active && s.quiet then (if s.idleSince.isSome then s.idleSince else some s.clock) else none
  let watched := mapVals s.blocks fun (i : Nat) (b : Block) => s.wdogTick i b
  let s0 := ({ s with opHold := hold, idleSince := since, blocks := watched } : State).actOnTags.payOwed
  let s1 := s0.domains.foldl (fun (s : State) d => s.fillDue d.ctx d.domid) s0
  let s2 := (((s1.reachSigns.lowerSync.raiseSync).assertSync (s.clock - 1)).keepalives).noteStuck.transmit
  s2.queues.foldl (fun (s : State) e => s.badRecord e.1) s2

/-- The next cycle begins: the clock counts, and the agenda is made; with the clocks stopped (R460) the clock counts nothing and one more draw of free values passes. -/
def State.tick (s : State) : State :=
  let s0 := { s with clock := s.clock + 1, free := s.free + 1 }
  if !s.clocked then { s with free := s.free + 1 }
  else
    let s1 := s0.cycle
    if s1.opHold.isSome then { s1 with agenda := s1.due ++ s1.ending }
    else { s1 with agenda := s1.due ++ s1.polls ++ s1.seqTurns ++ [.select] ++ s1.ending }

/-! Placing one instruction for the next step (log entry 7). -/

/-- The leaf that maps the 64 KiB of physical memory from 0x100000 up, executable. -/
def placePte : BitVec 128 := BitVec.ofNat 128 (0x100000 + 13 * 2 ^ 64)

/-- Context 0 with its defaults, where it does not exist. -/
def State.placeCtx (s : State) : Ctx := (s.ctx 0).getD { root := 0, laneBase := 0, laneSize := 0, fmode := 0 }

/-- Eight tiles of a core owned by a holder. -/
def placeTiles (m : Assoc Tile) (hold : Nat) (first : Nat) : Assoc Tile :=
  (List.range 8).foldl (fun m i => m.put (first + i) { (m.getD (first + i) ({} : Tile)) with ctx := 0, hold := hold, st := TileSt.owned }) m

/-- Memory, translation, context and block 0 for a program of 64 bytes at virtual address 0x10000 on core 0. -/
def State.placeBytes (s : State) (b : List Byte) : State :=
  let s1 := s.setPhysBytes 0x100000 b
  let s2 := s1.setCtx 0 s1.placeCtx
  let k := s2.core 0
  let s3 := s2.setCore 0 { k with
    tlb := [⟨0, 1, 1, placePte⟩]
    ibuf := k.ibuf.del (0x100000 / 128)
    tiles := placeTiles (placeTiles k.tiles 0 8) 48 0 }
  s3.setBlock 0 { core := 0, ctx := 0, launch := 0, number := 0, header := 0x6E77000000000030#64, kobj := 0x10000, lpb := 0, param := 0, slots := [0], hasSeq := true, seqTiles := List.range 8 }

/-- The machine about to issue one word: the only instruction of a clause of a warp, or one slot of a bundle. -/
def State.placeWord (s : State) (w : Nat) : State :=
  let x := BitVec.ofNat 64 w
  let warpRuns := match decodeWarp x with
    | .ok _ => true
    | .error _ => false
  let go := fun (t : State) (turn : Turn) => { t with inbox := [], agenda := [turn], frozen := false, power := .active, xlfail := [], cur := .none }
  match warpRuns, slotFor x with
  | false, some sl =>
    let take := match decodeSlot sl x with
      | .ok (.stake _) => true
      | _ => false
    let sync := match decodeSlot sl x with
      | .ok (.syncl _) => true
      | _ => false
    let hdr : Nat := 0xB7 * 2 ^ 56 + (if take then 2 ^ 30 else 0) + (if sync then 2 ^ 31 else 0)
    let idx := Slot.code sl
    let words := (List.range 7).map fun i => if i = idx then w else 0
    let s1 := s.placeBytes (leBytes 8 hdr ++ words.flatMap (leBytes 8 ·))
    go (s1.setSeq 0 { block := 0, pc := 0x10000 }) (.seq 0)
  | _, _ =>
    let rgp := match decodeWarp x with
      | .ok (.brxG _) => true
      | _ => false
    let hdr : Nat := 0xC1 * 2 ^ 56 + (if rgp then 2 ^ 44 else 0)
    let s1 := s.placeBytes (leBytes 8 hdr ++ leBytes 8 w)
    go (s1.setWarp 0 0 { block := 0, idx := 0, pc := 0x10008, clause := some (0x10000, BitVec.ofNat 64 hdr), tmap := (List.range 8).map (· + 8) }) (.warp 0 0)

end Sys2Proof.Machine
end

