-- ==== Sys2Proof/Machine/Step.lean ====
section
/-! DEFINITION. One step of the package: an input that has arrived, else the next turn of this cycle, else the next cycle. -/
namespace Sys2Proof.Machine
open Sys2Proof

/-- One step. An input whose operands name nothing that exists, or that is an instruction word, is dropped. -/
def step (s : State) : Host.Outcome State Fault Refusal :=
  match s.inbox with
  | (i, a) :: rest =>
    if a.wf && (encodeWord i).isNone then exec i { s with inbox := rest, cur := .none, arg := a }
    else .next { s with inbox := rest }
  | [] =>
    if s.frozen then .fault .frozen
    else match s.agenda with
      | .ev i a :: rest => exec i { s with agenda := rest, cur := .none, arg := a }
      | .seq c :: rest => exec .sequencerBundleIssue { s with agenda := rest, cur := .none, arg := { core := c } }
      | .select :: rest => .next (State.select { s with agenda := rest })
      | .poll c k :: rest => match State.turnWarp { s with agenda := rest } c k with
        | .issue i t => State.polled { s with agenda := rest } c k (exec i t)
        | .idle t => State.polled { s with agenda := rest } c k (.next t)
      | .warp c k :: rest => match State.turnWarp { s with agenda := rest } c k with
        | .issue i t => exec i t
        | .idle t => .next t
      | [] => .next s.tick

/-- The state s with an instruction of nbits bits placed where the next step fetches (log entry 7): in a resident warp of core 0, or in its slot of a bundle of core 0's sequencer. -/
def State.withFetchWord (s : State) (nbits w : Nat) : State :=
  s.placeWord (w % 2 ^ min nbits 64)

end Sys2Proof.Machine
end

