-- ==== Sys2Proof/Safety.lean ====
section
/-! DEFINITION. The words the statements are made in: who acts, when nothing stands in an instruction's way, what retiring means, and the form of memory that every operation keeps. -/
namespace Sys2Proof.Machine
open Sys2Proof

/-- Memory is in its canonical form. -/
def State.memWf (s : State) : Prop := Memory.wf s.mem = true

/-! Warps. -/

/-- Warp w of slot k of core c is acting. -/
def State.Acting (s : State) (c k : Nat) (w : Warp) : Prop := s.cur = .warp c k ∧ s.warp c k = some w

/-- Nothing stands in the way of an instruction with these operands: its guard is not the one of words that are skipped; an s destination is written by a warp that is not regrouped and under a uniform guard (R311, R336, R338); no source is poisoned (R339); the registers are the warp's (R337); their banks are on (R53). -/
structure State.Unhindered (s : State) (c k : Nat) (w : Warp) (n : Need) : Prop where
  guarded : n.g ≠ 0xF
  alone : n.sdst = true → w.isRegrouped = false
  uniform : n.sdst = true → uniformGuard w.active (s.taking c k w n.g) = true
  clean : s.poisonOf c k w (s.taking c k w n.g) n.srcs = none
  owned : s.checkV c k w (n.srcs.flatMap Src.vregs ++ n.dsts) = none
  awake : s.wakeBanks c (s.tilesFor c k w (n.srcs.flatMap Src.vregs ++ n.dsts)) = none

/-- The state after an instruction of a warp has had the effect that gives this state: the warp moves past the instruction, one more draw of free values counts, and faults brought to the warp by a walk are used up. -/
def State.retired (s : State) (c k : Nat) : State :=
  match s.warp c k with
  | some w => ((s.setWarp c k (w.advance s.clock)).draw).clearFails (.warp c k)
  | none => s

/-- The state after an instruction of a warp that has set the address the warp continues at. -/
def State.jumped (s : State) (c k : Nat) : State := s.draw.clearFails (.warp c k)

/-- One value for each lane that takes part, written to its v register, or once for the warp, the lowest such lane's, to an s register (R336). -/
def State.laneResult (s : State) (c k : Nat) (w : Warp) (g : BitVec 4) (d : Dest) (v : Nat → Word64) : State :=
  let lanes := lanesOf (s.taking c k w g)
  if d.isS then
    match lanes.head? with
    | none => s
    | some l => s.putWrites c k d [.sreg d.code (extendS d.ty d.wide (v l))]
  else s.putWrites c k d (lanes.flatMap fun l => s.vWrites c k w l d.code d.wide (v l) none)

/-- One value with its events for each lane that takes part, or once for the warp: the events go to the first-event log (R307, R308), the values where R336 sends them. -/
def State.laneOuts (s : State) (c k : Nat) (w : Warp) (g : BitVec 4) (d : Dest) (o : Nat → LaneOut) : State :=
  let lanes := lanesOf (s.taking c k w g)
  if d.isS then
    match lanes.head? with
    | none => s
    | some l => (s.recordEvents c k w ((o l).evs.map fun e => ⟨l, e.1, e.2⟩)).putWrites c k d [.sreg d.code (extendS d.ty d.wide (o l).v)]
  else
    (s.recordEvents c k w (lanes.flatMap fun l => (o l).evs.map fun e => ⟨l, vElemIndex d.code l e.1, e.2⟩)).putWrites c k d
      (lanes.flatMap fun l => s.vWrites c k w l d.code d.wide (o l).v none)

/-- The test's outcome in each lane that takes part, written to a predicate (R342). -/
def State.laneTest (s : State) (c k : Nat) (w : Warp) (g : BitVec 4) (p : Nat) (b : Nat → Bool) : State :=
  let lanes := s.taking c k w g
  s.setPred c k w p lanes (maskOf fun l => laneBit lanes l && b l)

/-- The operands of an RR word with n sources, of a width. -/
def rrNeed (f : RR) (n : Nat) (wide : Bool) (d : Dest) : Need :=
  { g := f.g, srcs := RR.srcs f n wide, dsts := d.vregs, sdst := d.isS }

/-- The destination of an RR word whose result has the type of the word. -/
def rrDest (f : RR) : Dest := { code := f.dst.toNat, isS := f.ud, wide := ty64 f.ty, ty := f.ty }

/-! Memory accesses and system words of warps. -/

/-- The address a lane's access of a MEM word has: base plus offset (R18, R364). -/
def State.laneAddr (s : State) (c k : Nat) (w : Warp) (f : MEM) (atomic : Bool) (l : Nat) : Word64 :=
  s.baseVal c k w l f.base + MEM.offset f atomic

/-- Every lane that takes part reaches bytes of this package, at the places st gives, and none waits for an exchange between the dies or for a frame that moves; no answers of peers are kept for the instruction, and a release has no posted stores to wait for (R22, R28, R57, R97, R148, R158). -/
structure State.Reaches (s : State) (c k : Nat) (w : Warp) (f : MEM) (acc : Acc) (atomic : Bool) (st : Nat → Store) : Prop where
  first : w.pxRes = []
  released : f.ord.getLsbD 1 = true → s.postedOut c k = false
  met : ∀ l ∈ lanesOf (s.taking c k w f.g), s.meet (s.laneAgt c k w l) acc f.sp.toNat (atomic || MEM.ordered f) (s.laneAddr c k w f atomic l) (MEM.bytes f) = .ok (st l)
  here : ∀ l ∈ lanesOf (s.taking c k w f.g), (st l).peers = [] ∧ s.severed (s.laneAgt c k w l) (st l) = false ∧ s.storeBusy (st l) = false

/-- A physical address lies in a place of memory. -/
def State.inStore (s : State) (st : Store) (a : Nat) : Prop :=
  match st with
  | .mem ps => ∃ p ∈ ps, s.migTarget p.pa ≤ a ∧ a < s.migTarget p.pa + p.len
  | _ => False

/-- The copies of lines hold whole lines. -/
def State.wholeLines (s : State) : Prop :=
  ∀ n l, s.lines.find n = some l → (∀ x, l.homeCopy = some x → x.length = 128) ∧ (∀ x, l.remCopy = some x → x.length = 128)

/-- No byte of memory, of scratch or of shared storage differs, nor any copy of a line. -/
def State.sameBytes (s t : State) : Prop :=
  t.mem = s.mem ∧ t.lines = s.lines ∧ t.scratch = s.scratch ∧ (∀ a, t.physByte a = s.physByte a) ∧ ∀ e, (t.core e).shared = (s.core e).shared

/-- No byte of memory, of scratch or of shared storage differs; the directory may, since a read moves copies of its line (R147). -/
def State.sameData (s t : State) : Prop :=
  t.mem = s.mem ∧ t.scratch = s.scratch ∧ (∀ a, t.physByte a = s.physByte a) ∧ ∀ e, (t.core e).shared = (s.core e).shared

/-- Outside memory and the cores: contexts, queues, blocks, launches, keys, device registers, the host's registers and the clock are as before. -/
def State.sameRest (s t : State) : Prop :=
  t.ctxs = s.ctxs ∧ t.queues = s.queues ∧ t.blocks = s.blocks ∧ t.launches = s.launches ∧ t.keys = s.keys ∧ t.regs = s.regs ∧ t.clock = s.clock ∧ t.power = s.power

/-- The acting warp runs a word of opcodes 0x100 to 0x16A once: the guard is uniform and true, and nothing stands in its way (R415). -/
structure State.SysActing (s : State) (c k : Nat) (w : Warp) (g : BitVec 4) : Prop where
  acting : s.Acting c k w
  free : s.Unhindered c k w { g := g, sdst := true }
  takes : s.taking c k w g ≠ 0

/-- An s register as such a word reads it. -/
def State.sysArg (s : State) (c k : Nat) (w : Warp) (g : BitVec 4) (code : BitVec 8) : Word64 := s.sArg c k w (lowLane (s.taking c k w g)) code

/-- The word retires with results in flight under its scoreboard, over the state its effect leaves. -/
def State.sysDone (s : State) (c k : Nat) (f : RR) (ws : List (Nat × Word64)) : Host.Outcome State Fault Refusal :=
  .next ((s.writeLater c k f.sbd.toNat (ws.map fun x => .sreg x.1 x.2)).retired c k)

/-- The word retires with its results written at once. -/
def State.ctlDone (s : State) (c k : Nat) (ws : List (Nat × Word64)) : Host.Outcome State Fault Refusal :=
  .next ((s.writeNow c k (ws.map fun x => .sreg x.1 x.2)).retired c k)

/-- The warp tries the word again at a later turn. -/
def State.sysAgain (s : State) (c k : Nat) (w : Warp) : Host.Outcome State Fault Refusal := .next ((s.setWarp c k (w.sleep .retry)).draw)

/-- What the warp sees is performed for its core: a release at CORE scope (R97, R106). -/
def State.coreReleased (s : State) (c k : Nat) (w : Warp) : State := s.show (s.warpAgt c k w) 0 [.ls]

/-- A release waits for the posted stores that had left before it, and the warp tries the word again (R57, R97). -/
def State.heldBack (s : State) (c k : Nat) (w : Warp) : Host.Outcome State Fault Refusal := .next ((s.awaitWrites c k w).draw)

/-- The whole warp traps with a cause, reported at its lowest active lane. -/
def State.sysTrap (s : State) (c k : Nat) (w : Warp) (cause : Cause) : Host.Outcome State Fault Refusal :=
  .next ((s.takeTrap c k { cause := cause, lane := lowLane w.active }).draw)

/-- The structures of a launch that a signature word reads and writes are reached, and those it reads hold no poison (R26, R36, R166). -/
def State.sigFree (s : State) (c k : Nat) (w : Warp) (g : BitVec 4) (reads writes : List (Nat × Nat)) : Prop :=
  s.structsAt c k w (lowLane (s.taking c k w g)) .atomic (reads ++ writes) = none ∧ s.rangePoison (s.ctxOf w) reads = none

/-! The sequencer. -/

/-- Slot sl of the sequencer q of core c is acting, and the guard of its word holds (R311). -/
def State.SlotActing (s : State) (c : Nat) (sl : Slot) (q : Seq) (g : BitVec 4) : Prop :=
  s.cur = .slot c sl ∧ s.seq c = some q ∧ s.qGuard q.before g = true

/-- A word of a slot leaves these effects, to be seen after its latency (R373). -/
def State.slotLeaves (s : State) (c : Nat) (sl : Slot) (lat : Nat) (ws : List SeqWrite) : Host.Outcome State Fault Refusal :=
  .next ((s.later c (Slot.code sl) lat ws).draw)

/-- A word of a slot is a sequencer fault (R271). -/
def State.slotFaults (s : State) (c : Nat) (sl : Slot) (cause : Cause) (addr : Nat) : Host.Outcome State Fault Refusal :=
  .next ((s.seqFault c cause (Slot.code sl) addr).draw)

/-- The pipeline of a V slot is free, the tiles its word names are the sequencer's, the ports are free (u is the state with them reserved), and no element it may read is poisoned (R71, R373, R375, R392). -/
structure State.VReady (s : State) (c : Nat) (sl : Slot) (q : Seq) (f : TILE) (srcs : List (BitVec 8)) (lat : Nat) (ts : List Nat) (d : Nat) (u : State) : Prop where
  idle : (if pipeOf sl = 0 then q.busyV0 else q.busyV1) ≤ s.clock
  sources : s.vSrcs c q.before f.hd.toNat srcs = .ok ts
  dest : s.dstTile c q.before f.dt f.hd.toNat = .ok d
  ports : s.reserve c (readsAt s.clock ts) [(s.clock + lat - 1, d)] = .ok u
  clean : ∀ t ∈ ts, ∀ x ∈ s.seqTile c q.before t, x.poison = none

/-- The elements a V word selects, in order. -/
def State.selects (s : State) (q : Seq) (f : TILE) : List Nat := (List.range 1024).filter (s.vSel q.before f)

/-- Element i of a tile, as a slot of the bundle being issued reads it. -/
def State.elAt (s : State) (c : Nat) (q : Seq) (t i : Nat) : Nat := ((s.seqTile c q.before t).getD i {}).bits.toNat

/-- A V word writes these elements, with their events, over the state u in which its ports are reserved. -/
def State.vWritesTo (u : State) (c : Nat) (sl : Slot) (lat d : Nat) (rs : List (Nat × VOut)) : Host.Outcome State Fault Refusal :=
  (u.vOccupy c sl).slotLeaves c sl lat (vResult d rs)

/-! Collation. -/

/-- A message of a domain has been sent to a rank: out of the package, or to the package itself. -/
def State.told (t : State) (d : Domain) (r : Nat) (i : Instr) (m : CollMsg) : Prop :=
  if r = d.rank then (i, ({ coll := m } : Arg)) ∈ t.inbox else OutMsg.coll (d.rtab.getD r 0) i m ∈ t.stoxia

/-- The collator has decided these messages: with a standby they wait for its acknowledgement, else they have been sent (R251). `d` is the domain before, `D` after. -/
def State.decided (t : State) (d D : Domain) (ms : List Decided) : Prop :=
  match d.standby with
  | none => ∀ y ∈ ms, t.told d y.dest y.step y.msg
  | some _ => ms ∈ D.decisions

/-- A message m arrives for the domain d, not from an earlier term (R248). -/
structure State.Hears (s : State) (m : CollMsg) (d : Domain) : Prop where
  runs : s.clocked = true
  message : s.arg.coll = m
  domain : s.dom m.ctx m.domid = some d
  inTerm : termPrecedes m.term d.term = false

/-- A request m arrives at the active collator, whose digest it has, and no request waits there (R240, R251). -/
structure State.Asked (s : State) (m : CollMsg) (d : Domain) : Prop where
  hears : s.Hears m d
  active : d.rank = d.collator
  agrees : m.digest = d.digest
  settled : d.searching = false
  none_held : d.held = []

/-! The two dies. -/

/-- A bridge message m has arrived at the home of line n, which has an entry for it in the directory of the line's slice or a free one (R135), and whose frame no migration moves (R134, R142). -/
structure State.AtHome (s : State) (m : BridgeMsg) (n : Nat) : Prop where
  runs : s.clocked = true
  message : s.arg.msg = m
  line : n = msgLine m
  home : m.die = lineHome n
  there : s.lineExists n = true
  up : s.bridgeDown = false
  still : s.migOf (n * 128) = none
  room : n ∈ s.tracked (lineHome n) (s.sliceOf n) ∨ (s.tracked (lineHome n) (s.sliceOf n)).length < directorySize

/-- A bridge message m has arrived at the die that is not the home of line n (R134, R142). -/
structure State.AtRemote (s : State) (m : BridgeMsg) (n : Nat) : Prop where
  runs : s.clocked = true
  message : s.arg.msg = m
  line : n = msgLine m
  away : m.die ≠ lineHome n
  there : s.lineExists n = true
  up : s.bridgeDown = false

/-- An access of the package's own to the line of the step's address, whose frame no migration moves. -/
structure State.OwnLine (s : State) (n : Nat) : Prop where
  runs : s.clocked = true
  line : n = s.arg.addr / 128
  there : s.lineExists n = true
  up : s.bridgeDown = false
  still : s.migOf (n * 128) = none

/-- The line's entry becomes this, and these messages go out; nothing else changes. -/
def State.lineTo (s : State) (n : Nat) (l : DirLine) (ms : List (Instr × BridgeMsg)) : Host.Outcome State Fault Refusal :=
  .next { s.setLine n l with wire := s.wire ++ ms }

/-- These messages go out; nothing else changes. -/
def State.sends (s : State) (ms : List (Instr × BridgeMsg)) : Host.Outcome State Fault Refusal := .next { s with wire := s.wire ++ ms }

/-- A snoop of the line goes out under a new id, and the home waits for its answer with the request (R148). -/
def State.snoops (s : State) (n : Nat) (i : Instr) (st : HomeSt) (r : HomeReq) : Host.Outcome State Fault Refusal :=
  .next { s.setLine n { s.line n with home := st, serving := some r } with ids := s.ids + 1, wire := s.wire ++ [(i, plainMsg (1 - lineHome n) n (BitVec.ofNat 16 s.ids))] }

end Sys2Proof.Machine
end

