-- ==== Sys2Proof/Certificates/Slice0/Obligations.lean ====
section
/-! DEFINITION. What the provers are asked: each statement's rules of the spec stand in its comment; the log entries it names are those of notes/assumptions. -/
open Sys2Proof Sys2Proof.Machine

/-- R309, R313, R328, R329: in every row of the opcode map, every field at every value the row's encoding admits, for a warp or for a slot, the word the encoder gives decodes for that agent to the instruction it stands for. NOP stands beside the rows. -/
def Obligations.DecodeOfEncode : Prop :=
  (∀ r ∈ rrRows, ∀ (ag : Agent) (f : RR), r.var f = true → r.legal ag f = true →
    ∃ w, encodeWord (r.make f) = some w ∧ decodeFor ag w = .ok (r.make f)) ∧
  (∀ r ∈ riRows, ∀ (ag : Agent) (f : RI), r.var f = true → r.legal ag f = true →
    ∃ w, encodeWord (r.make f) = some w ∧ decodeFor ag w = .ok (r.make f)) ∧
  (∀ r ∈ memRows, ∀ (ag : Agent) (f : MEM), r.var f = true → r.legal ag f = true →
    ∃ w, encodeWord (r.make f) = some w ∧ decodeFor ag w = .ok (r.make f)) ∧
  (∀ r ∈ brRows, ∀ (ag : Agent) (f : BR), r.var f = true → r.legal ag f = true →
    ∃ w, encodeWord (r.make f) = some w ∧ decodeFor ag w = .ok (r.make f)) ∧
  (∀ r ∈ tileRows, ∀ (ag : Agent) (f : TILE), r.var f = true → r.legal ag f = true →
    ∃ w, encodeWord (r.make f) = some w ∧ decodeFor ag w = .ok (r.make f)) ∧
  (∀ (ag : Agent) (f : NopF), f.body = 0 → ∃ w, encodeWord (.nop f) = some w ∧ decodeFor ag w = .ok (.nop f))

/-- R310, R329: what an agent reads from a word is a well-formed instruction whose word is that word, so no bit of a word is dropped and no two words are one instruction. -/
def Obligations.EncodeOfDecode : Prop :=
  ∀ (ag : Agent) (w : Word64) (i : Instr), decodeFor ag w = .ok i → i.wf = true ∧ encodeWord i = some w

/-- R309, R323, R329: the turn of a warp that may issue, standing inside a clause, whose next 8 bytes lie in executable memory and decode to an instruction that may stand at that place of the clause, is that instruction executed for the warp: the word is the one the core's instruction buffer gives, or, where the buffer does not hold the line, the line is in no exchange and nothing of it is poisoned, the one that memory holds. At a clause header whose waits are met, with no word of the clause behind a page that is waited for, the first instruction of the clause is executed. Around exec the step only takes the warp out of the agenda, gives the line to the instruction buffer, has the loads performed that the instruction does not pass (R128, log entry 5) and, at a header, moves the warp into the clause. (A home warp with more than 16 resident entries spills first, R192.) -/
def Obligations.WarpStepRunsDecoded : Prop :=
  ∀ (s : State) (c k : Nat) (rest : List Turn) (w : Warp) (i : Instr),
    s.inbox = [] → s.frozen = false → s.agenda = .warp c k :: rest → s.warp c k = some w →
    w.st = .ready → w.wait = none → w.active ≠ 0 → w.stack.length ≤ 16 → s.runnable c k w = true →
    let s0 := ({ s with agenda := rest } : State).setWarp c k w
    let runs := fun (x : Word64) (t : State) => exec i { (if mayPass x i then t else t.fixLoads c k) with cur := .warp c k }
    (∀ (a h : Word64) (p : Piece) (ps : List Piece), w.clause = some (a, h) → clausePlace h w.pos i = true →
      s0.check (s0.fetchAgt c k w) .fetch 1 w.pc 8 = .ok (.mem (p :: ps)) →
      let pa := s0.migTarget p.pa
      (∀ x, s0.ibufHit c pa = some x → decodeWarp x = .ok i → step s = runs x s0) ∧
      ((s0.core c).ibuf.find (pa / 128) = none → s0.lineBusy p.pa 8 = false → s0.codePoison (s0.fetchAgt c k w) (pteKey p.pte) pa = none →
        ∀ x, x = wordOf (s0.codeBytes (pteKey p.pte) pa 8) → decodeWarp x = .ok i → step s = runs x (s0.fillIbuf c (pteKey p.pte) pa))) ∧
    (∀ (h x : Word64) (t u : State), w.clause = none → w.pc.toNat % 8 = 0 →
      s0.fetchWord c (s0.fetchAgt c k w) w.pc.toNat = .word h t → headerOk h = true → waitsMet w h = true →
      t.clauseHeld c k w h = none → clausePlace h 0 i = true → decodeWarp x = .ok i →
      let v : Warp := { w with clause := some (w.pc, h), pos := 0, pc := w.pc + 8 }
      (t.setWarp c k v).fetchWord c ((t.setWarp c k v).fetchAgt c k v) v.pc.toNat = .word x u →
      step s = runs x u)

/-- R325, R329: what a slot does with a word it accepts is what exec gives the instruction the word decodes to; a bundle runs its slots in the order B, S, V0, V1, M, C0, C1, each on the state the one before left, until one stops it. A step takes one thing at a time (log entry 4): the first input, with its operands, when they name what exists; else, unless frozen, the first turn of the cycle, be it a device step, a sequencer's, the selection of the group schedulers, or a waiting warp's look whether its wait is over; else the next cycle begins. -/
def Obligations.StepTurns : Prop :=
  ((∀ (sl : Slot) (w : Word64) (i : Instr) (s : State), decodeSlot sl w = .ok i → execSlot i s = exec i s) ∧
  (∀ (s t : State) (c : Nat) (sl : Slot) (i : Instr) (rest : List (Slot × Instr)),
    execSlot i { s with cur := .slot c sl } = .next t →
    s.runSlots c ((sl, i) :: rest) = if (t.seq c).map (·.st) = some SeqSt.halted then t else t.runSlots c rest) ∧
  Slot.all = [.b, .s, .v0, .v1, .m, .c0, .c1]) ∧
  (∀ s : State,
    (∀ i a rest, s.inbox = (i, a) :: rest → a.wf = true → encodeWord i = none →
      step s = exec i { s with inbox := rest, cur := .none, arg := a }) ∧
    (∀ i a rest, s.inbox = (i, a) :: rest → (a.wf = false ∨ encodeWord i ≠ none) → step s = .next { s with inbox := rest }) ∧
    (s.inbox = [] → s.frozen = true → step s = .fault .frozen) ∧
    (∀ i a rest, s.inbox = [] → s.frozen = false → s.agenda = .ev i a :: rest →
      step s = exec i { s with agenda := rest, cur := .none, arg := a }) ∧
    (∀ c rest, s.inbox = [] → s.frozen = false → s.agenda = .seq c :: rest →
      step s = exec .sequencerBundleIssue { s with agenda := rest, cur := .none, arg := { core := c } }) ∧
    (∀ rest, s.inbox = [] → s.frozen = false → s.agenda = .select :: rest → step s = .next (State.select { s with agenda := rest })) ∧
    (∀ c k rest, s.inbox = [] → s.frozen = false → s.agenda = .poll c k :: rest →
      let s1 : State := { s with agenda := rest }
      (∀ i t, s1.turnWarp c k = .issue i t → step s = s1.polled c k (exec i t)) ∧ (∀ t, s1.turnWarp c k = .idle t → step s = s1.polled c k (.next t))) ∧
    (s.inbox = [] → s.frozen = false → s.agenda = [] → step s = .next s.tick))

/-- No instruction is refused, and none stops the machine but for want of an agent: of every state, a device step gives a next state, and so does a word for the warp or the slot that acts, where that agent accepts the word's encoding. -/
def Obligations.EveryInstructionGoesOn : Prop :=
  ∀ (i : Instr) (s : State),
    (encodeWord i = none → ∃ t, exec i s = .next t) ∧
    (∀ c k w x, s.Acting c k w → decodeWarp x = .ok i → ∃ t, exec i s = .next t) ∧
    (∀ c sl q x, s.cur = .slot c sl → s.seq c = some q → decodeSlot sl x = .ok i → ∃ t, exec i s = .next t)

/-- R460-R462: the package goes IDLE when it has been quiet for 1 ms (3,300,000 cycles, log entry 4); a change of operating point, the power above PWR.LIMIT and a sensor above 95 degrees set the point, the last two one lower, and hold issue; at 110 degrees the freeze line rises and THERMAL is raised. R284: a trigger raises the freeze line in its cycle, once; 32 cycles after the trigger, and not before, the package is frozen, and nothing else of it changes. R284, R460: while the clocks are stopped, no device step of the package's own agents and no message to them changes anything. -/
def Obligations.PowerAndFreeze : Prop :=
  (∀ s : State, s.clocked = true →
    (s.power = .active → s.quiet = true → (∃ t0, s.idleSince = some t0 ∧ t0 + 3300000 ≤ s.clock) →
      exec .idleEntry s = .next { s with power := .idle }) ∧
    (s.arg.id < 8 → ∃ t, exec .operatingPointChange s = .next t ∧ t.opPoint = s.arg.id ∧ t.opHold.isSome = true ∧ t.mem = s.mem ∧ t.warps = s.warps) ∧
    (s.pwrLimit < s.arg.value.toNat → s.opPoint ≠ 0 → ∃ t, exec .powerLimitExceeded s = .next t ∧ t.opPoint + 1 = s.opPoint ∧ t.opHold.isSome = true) ∧
    (95 < s.arg.value.toNat → s.opPoint ≠ 0 → ∃ t, exec .thermalThrottle s = .next t ∧ t.opPoint + 1 = s.opPoint ∧ t.opHold.isSome = true) ∧
    (110 ≤ s.arg.value.toNat → ∃ t, exec .criticalTemperature s = .next t ∧ t.frzTrig.isSome = true ∧ t.msix = .thermal :: s.msix)) ∧
  (∀ s : State, s.clocked = true →
    (s.frzTrig = none → exec .freezeNow s = .next { s with frzTrig := some s.clock }) ∧
    (∀ t0, s.frzTrig = some t0 → exec .freezeNow s = .next s) ∧
    (∀ t0, s.frzTrig = some t0 → t0 + 32 ≤ s.clock → exec .freeze s = .next { s with frozen := true }) ∧
    (∀ t0, s.frzTrig = some t0 → s.clock < t0 + 32 → exec .freeze s = .next s)) ∧
  (∀ (i : Instr) (s : State), encodeWord i = none → i ∉ [Instr.reset, .powerLoss, .bootImage, .wake, .readout] → s.clocked = false → exec i s = .next s)

/-- R284, R463: a frozen package stands still. A step takes inputs and nothing else: unless one of them is a reset, the loss of power, a boot image or a readout, the state keeps every other part, memory, registers, tiles, queues and contexts among them, and stays frozen. Kept by every step, in every state. -/
def Obligations.FrozenPackageStandsStill : Prop :=
  ∀ s t : State, s.frozen = true → (∀ x ∈ s.inbox, x.1 ∉ [Instr.reset, .powerLoss, .bootImage, .readout]) → step s = .next t →
    t.frozen = true ∧ (∀ x ∈ t.inbox, x.1 ∉ [Instr.reset, .powerLoss, .bootImage, .readout]) ∧
    t = { s with inbox := s.inbox.tail, cur := t.cur, arg := t.arg }

/-- R457, R460: reset, and the loss of power, leave no context, queue, block, warp, core contents or HBM byte behind and no configuration; reset leaves the package in RECOVERY, power loss in OFF. A warm reset of a package that has not lost power keeps the SVN floor, a cold one keeps none. Memory behind the CXL ports (addresses from 2^44 on) and the model's own counters stay (log entry 3). R457: the machine right after reset is in RECOVERY with no image applied, no context, no queue, no block and no warp; PWR.LIMIT and the operating point stand where the model's log entry 3 puts them; memory lists nothing and is in its canonical form. -/
def Obligations.ResetAndPowerLoss : Prop :=
  (∀ s : State,
    (∃ t, exec .reset s = .next t ∧ t.power = .recovery ∧ t.boot = none ∧ t.frozen = false ∧ t.ctxs = [] ∧ t.queues = [] ∧
      t.blocks = [] ∧ t.warps = [] ∧ t.cores = [] ∧ t.keys = [] ∧ (∀ pa, pa < 2 ^ 44 → t.physByte pa = 0) ∧
      (∀ pa, 2 ^ 44 ≤ pa → Memory.read t.mem pa = Memory.read s.mem pa) ∧
      (s.arg.flag = true → t.svnFloor = none) ∧ (s.arg.flag = false → s.power ≠ .off → t.svnFloor = s.svnFloor)) ∧
    (∃ t, exec .powerLoss s = .next t ∧ t.power = .off ∧ t.boot = none ∧ t.ctxs = [] ∧ t.queues = [] ∧ t.blocks = [] ∧
      t.warps = [] ∧ t.svnFloor = none ∧ ∀ pa, pa < 2 ^ 44 → t.physByte pa = 0)) ∧
  (State.reset.power = .recovery ∧ State.reset.boot = none ∧ State.reset.ctxs = [] ∧ State.reset.queues = [] ∧ State.reset.blocks = [] ∧
  State.reset.warps = [] ∧ State.reset.frozen = false ∧ State.reset.inbox = [] ∧ State.reset.mem = [] ∧ State.reset.memWf ∧
  State.reset.opPoint = 7 ∧ State.reset.pwrLimit = 2400)

/-- R457, R458: in RECOVERY, an image whose fields keep their rules, whose signature verifies and whose SVN is not below the floor, where there is one, is applied and makes the package ACTIVE; its SVN becomes the floor, and NOFLOOR says that there was none. An image that fails any of these leaves the package in RECOVERY with no configuration changed; in any other power state an image changes nothing. R459, R460, R463, with the clocks running unless the package is frozen: ATTEST answers a 64-byte nonce with a signed report that begins with it; KEYLOAD puts the pair that a wrapped key unwraps to into a free key slot and binds the slot to the context, with nothing else changed where no sector stands encrypted under that slot; WAKE takes STANDBY to ACTIVE; READOUT of HBM bytes of a frozen package gives those bytes, and any other readout of it ends in RECOVERY. -/
def Obligations.BootAndControlLink : Prop :=
  (∀ s : State,
    let b := s.arg.bytes
    let fresh := ∀ f, s.svnFloor = some f → f.toNat ≤ fieldAt b 0x08 4
    (s.power = .recovery → imageOk b = true → fresh → ∃ t, exec .bootImage s = .next t ∧
      (Config.imageSigned b = true → t.power = .active ∧ t.boot = some (bootOf b) ∧ t.svnFloor = some (BitVec.ofNat 32 (fieldAt b 0x08 4)) ∧
        (t.noFloor = true ↔ s.svnFloor = none) ∧ t.pkgid = fieldAt b 0x0C 2 ∧ t.mem = s.mem) ∧
      (Config.imageSigned b = false → t = { s with hostReply := t.hostReply })) ∧
    (s.power = .recovery → (imageOk b = false ∨ ¬ fresh) → ∃ t, exec .bootImage s = .next t ∧ t = { s with hostReply := t.hostReply }) ∧
    (s.power ≠ .recovery → exec .bootImage s = .next s)) ∧
  (∀ s : State,
    (∀ x, s.clocked = true → s.boot = some x → s.arg.bytes.length = 64 →
      ∃ r, exec .attest s = .next { s with hostReply := .bytes (s.arg.bytes ++ r) }) ∧
    (s.clocked = true → s.arg.id ≠ 0 → s.arg.id < 256 → s.keys.find s.arg.id = none → (s.ctx s.arg.ctx).isSome = true → ∃ t, exec .keyload s = .next t ∧
      (Config.keyUnwraps s.arg.bytes = true → t.keys = s.keys.put s.arg.id s.arg.ctx ∧ t.pairs = s.pairs.put s.arg.id (Config.keyPair s.arg.bytes) ∧ t.hostReply = .ok ∧
        ((∀ e ∈ s.seals, e.2.key ≠ s.arg.id) → t = { s with keys := t.keys, pairs := t.pairs, hostReply := .ok })) ∧
      (Config.keyUnwraps s.arg.bytes = false → t = { s with hostReply := .rejected 0 })) ∧
    (s.power = .standby → s.frozen = false → exec .wake s = .next { s with power := .active }) ∧
    (s.frozen = true → 0 < s.arg.len → s.inHbm s.arg.addr s.arg.len = true →
      exec .readout s = .next { s with hostReply := .bytes (s.readPhys s.arg.addr s.arg.len) }) ∧
    (s.frozen = true → s.arg.len = 0 → ∃ t, exec .readout s = .next t ∧ t.power = .recovery ∧ t.frozen = false) ∧
    (s.frozen = false → exec .readout s = .next { s with hostReply := .rejected 0 }))

/-- R53, R52: a bank with some tile not FREE and every tile FREE, SUSPENDED or RETAINED may enter RETENTION, and its SUSPENDED tiles become RETAINED, with their contents; a bank whose tiles are all FREE may be gated, and their contents are lost; a bank may always be brought back, and comes back by itself when its return is due. R171, R172, R455: a drip counter above zero drains one unit, and its arm is set at half its brim mark or below, a mark of 0 counting as 1; a corrected error of a unit adds INC to its counter while it is enabled, up to the largest level, and where that takes an armed counter to its mark FIRED is set, the arm is gone and the predictive-failure event is raised (with `flag` the step is the unit's report of a corrected error, log entry 6); a trained port that goes down is down. -/
def Obligations.BanksDripsAndPorts : Prop :=
  (∀ s : State, s.clocked = true →
    (∀ c b, s.arg.core = c → s.arg.id = b → b < 16 → s.arg.bank = .retention → s.bank c b = { st := .on } →
      (∀ i < 8, (s.tile c (8 * b + i)).st ∈ [TileSt.free, .suspended, .retained]) → (∃ i < 8, (s.tile c (8 * b + i)).st ≠ .free) →
      ∃ t, exec .bankPowerTransition s = .next t ∧ (t.bank c b).st = .retention ∧
        ∀ i < 8, (t.tile c (8 * b + i)).elems = (s.tile c (8 * b + i)).elems ∧
          (t.tile c (8 * b + i)).st = (if (s.tile c (8 * b + i)).st = .suspended then .retained else (s.tile c (8 * b + i)).st)) ∧
    (∀ c b, s.arg.core = c → s.arg.id = b → b < 16 → s.arg.bank = .gated → s.bank c b = { st := .on } →
      (∀ i < 8, (s.tile c (8 * b + i)).st = .free) →
      ∃ t, exec .bankPowerTransition s = .next t ∧ (t.bank c b).st = .gated ∧ ∀ i < 8, (t.tile c (8 * b + i)).elems = []) ∧
    (∀ c b t0, s.arg.core = c → s.arg.id = b → (s.bank c b).backAt = some t0 → t0 ≤ s.clock →
      ∃ t, exec .bankReturnToOn s = .next t ∧ t.bank c b = { st := .on } ∧ ∀ i, t.tile c i = s.tile c i)) ∧
  (∀ s : State, s.clocked = true →
    (∀ u i d, s.arg.flag = false → s.arg.addr = u → s.arg.id = i → s.dripOf u i = d → d.level ≠ 0 →
      ∃ t, exec .dripDrain s = .next t ∧ (t.dripOf u i).level + 1 = d.level ∧
        ((t.dripOf u i).armed = true ↔ d.armed = true ∨ d.level - 1 ≤ max 1 d.brim / 2)) ∧
    (∀ u i d, s.arg.flag = true → s.arg.addr = u → s.arg.id = i → i < unitCount u → s.dripOf u i = d → d.en = true →
      let n := min 0xFFFF (d.level + d.inc)
      ∃ t, exec .dripDrain s = .next t ∧ (t.dripOf u i).level = n ∧
        (d.level < n → d.armed = true → max 1 d.brim ≤ n → (t.dripOf u i).fired = true ∧ (t.dripOf u i).armed = false ∧ Msix.brim u i ∈ t.msix)) ∧
    (∀ p, s.arg.id = p → (s.cxl.find p).isSome = true → s.cxlDown.contains p = false →
      exec .cxlPortDown s = .next { s with cxlDown := p :: s.cxlDown }))

/-- Memory keeps its canonical form (addresses strictly rising, no byte listed that reads as an unlisted one does) under every operation that writes it: one byte, bytes, a physical write, and what a reset leaves of it. R91, R134: a byte written to memory is the byte every agent reads there afterwards, whatever copies of its line the two dies' caches hold, and every other byte reads as before. -/
def Obligations.MemoryForm : Prop :=
  (State.reset.memWf ∧
  ∀ s : State, s.memWf →
    (∀ pa b, (s.setPhysByte pa b).memWf) ∧ (∀ pa bs, (s.setPhysBytes pa bs).memWf) ∧ (∀ pa bs, (s.writePhys pa bs).memWf) ∧
    (∀ ps bs, (s.writePieces ps bs).memWf) ∧ (∀ t, exec .reset s = .next t → t.memWf)) ∧
  (∀ (s : State) (pa : Nat) (b : Byte), s.memWf →
    (∀ l, s.lines.find (pa / 128) = some l → (∀ x, l.homeCopy = some x → x.length = 128) ∧ (∀ x, l.remCopy = some x → x.length = 128)) →
    (s.setPhysByte pa b).physByte pa = b ∧ ∀ a, a ≠ pa → (s.setPhysByte pa b).physByte a = s.physByte a)

/-- R208, R209, R212, R460: a queue's tail takes the value written and its reserve with it; STATE disables, runs or stops the queue, but a queue of a context under termination does not run; work for an idle package makes it ACTIVE. No other queue changes. R5, R39, R171, R267, R284, R462: what a write of a control register leaves (with `flag` the step is the driver's read of it instead, log entry 8: FQ.STAT reads whether entries are pending, whether one was lost, and whether a replay is under way): CTX.TRAPH of a context that exists; FRZ.CTL's fields; PWR.LIMIT within the range of the part, and not outside it; the host window's base, aligned to 1 MiB; a drip counter's fields with FIRED cleared by a 1. -/
def Obligations.HostWrites : Prop :=
  (∀ s : State, s.clocked = true → s.arg.id < 4096 →
    (∃ t q, exec .queueTailWrite s = .next t ∧ t.queues.find s.arg.id = some q ∧ q.tail = s.arg.value.toNat ∧ q.reserve = s.arg.value.toNat ∧
      q.head = (s.queues.getD s.arg.id {}).head ∧ q.st = (s.queues.getD s.arg.id {}).st ∧ t.power = (if s.power = .idle then .active else s.power) ∧
      ∀ n, n ≠ s.arg.id → t.queues.find n = s.queues.find n) ∧
    (∀ v q0, s.arg.value = v → s.queues.getD s.arg.id {} = q0 → v.toNat < 3 →
      ∃ t, exec .queueStateWrite s = .next t ∧ (∀ n, n ≠ s.arg.id → t.queues.find n = s.queues.find n) ∧
        (v = 0 → t.queues.find s.arg.id = some { q0 with st := .disabled }) ∧
        (v = 1 → (∀ x, s.ctx q0.ctx = some x → x.terminating = none) → t.queues.find s.arg.id = some { q0 with st := .running } ∧ t.power ≠ .idle) ∧
        (v = 1 → (∃ x, s.ctx q0.ctx = some x ∧ x.terminating.isSome = true) → t = s) ∧
        (v = 2 → t.queues.find s.arg.id = some { q0 with st := .stopped }))) ∧
  (∀ (s : State) (v : Word64), s.clocked = true → s.arg.value = v →
    (s.arg.flag = true → exec .registerWrite s = .next { s with hostReply := .bytes (leBytes 8 (s.readReg s.arg.reg)) }) ∧
    (∀ c x, s.ctx c = some x → s.readReg (.fqStat c) = (if x.fq.head = x.fq.tail then 0 else 1) + (if x.fq.ovf = true then 2 else 0) + (if s.replaying c = true then 4 else 0)) ∧
    (s.arg.flag = false →
    (∀ c x, s.arg.reg = .traph c → s.ctx c = some x → ∃ t, exec .registerWrite s = .next t ∧ t.ctx c = some { x with traph := v } ∧ ∀ d, d ≠ c → t.ctx d = s.ctx d) ∧
    (s.arg.reg = .frzCtl → exec .registerWrite s = .next { s with frzCtl :=
      { mcause := (v.extractLsb' 8 8).toNat, trapen := v.getLsbD 4, onbrim := v.getLsbD 3, onterm := v.getLsbD 2, onbridge := v.getLsbD 1 } }) ∧
    (s.arg.reg = .pwrLimit → 1200 ≤ v.toNat → v.toNat ≤ (if Config.is880M then 2600 else 2400) → exec .registerWrite s = .next { s with pwrLimit := v.toNat }) ∧
    (s.arg.reg = .pwrLimit → (v.toNat < 1200 ∨ (if Config.is880M then 2600 else 2400) < v.toNat) → exec .registerWrite s = .next s) ∧
    (s.arg.reg = .hostwinBase → ∃ t, exec .registerWrite s = .next t ∧ t.hostBase % 2 ^ 20 = 0 ∧ t.hostBase ≤ v.toNat ∧ v.toNat < t.hostBase + 2 ^ 20) ∧
    (∀ u i d, s.arg.reg = .drip u i → s.dripOf u i = d → ∃ t d1, exec .registerWrite s = .next t ∧ t.dripOf u i = d1 ∧ d1.level = d.level ∧ d1.armed = d.armed ∧
      d1.brim = (v.extractLsb' 32 16).toNat ∧ d1.inc = (v.extractLsb' 15 8).toNat ∧ d1.en = v.getLsbD 0 ∧ (d1.fired = true ↔ d.fired = true ∧ v.getLsbD 2 = false))))

/-- R456: a write through the host window that reaches memory is performed there, and no other byte of memory changes, and it is counted; one that does not sets the error bit and writes nothing; a read gives the bytes, or all ones and the error bit; a fence read gives the count of the writes performed. R174, R283: a retirement bitmap keeps the bits it has and takes those written; of L2 slices a die retires at most eight, and asking for more sets the full bit; retired slices are applied in IDLE, and every byte of memory reads as before. -/
def Obligations.HostWindowAndRetirement : Prop :=
  (∀ s : State, s.clocked = true →
    (s.hostReach s.arg.addr s.arg.bytes.length = true →
      let at_ := s.migTarget (s.hostBase + s.arg.addr)
      ∃ t, exec .hostwinDataWrite s = .next t ∧ t.hostWrites = (s.hostWrites + 1) % 2 ^ 32 ∧ t.hostErr = s.hostErr ∧
        (s.memWf → s.wholeLines → (∀ i < s.arg.bytes.length, t.physByte (at_ + i) = s.arg.bytes.getD i 0) ∧
          ∀ x, (x < at_ ∨ at_ + s.arg.bytes.length ≤ x) → t.physByte x = s.physByte x)) ∧
    (s.hostReach s.arg.addr s.arg.bytes.length = false → exec .hostwinDataWrite s = .next { s with hostErr := true }) ∧
    (s.hostReach s.arg.addr s.arg.len = true →
      ∃ t, exec .hostwinDataRead s = .next t ∧ t.hostReply = .bytes (s.readPhys (s.hostBase + s.arg.addr) s.arg.len) ∧ t.mem = s.mem ∧ t.hostErr = s.hostErr ∧
        (s.wholeLines → ∀ x, t.physByte x = s.physByte x)) ∧
    (s.hostReach s.arg.addr s.arg.len = false →
      exec .hostwinDataRead s = .next { s with hostReply := .bytes (List.replicate s.arg.len 0xFF), hostErr := true }) ∧
    exec .hostwinFenceWrite s = .next { s with hostReply := .ok } ∧
    exec .hostwinFenceRead s = .next { s with hostReply := .bytes (leBytes 4 s.hostWrites) }) ∧
  (∀ s : State, s.clocked = true →
    (∃ t, exec .plcRetiredWrite s = .next t ∧ t.plcRetired = s.plcRetired ||| s.arg.bits ∧ t.mem = s.mem ∧ t.blocks = s.blocks) ∧
    exec .plcClretWrite s = .next { s with clret := s.clret ||| s.arg.bits.extractLsb' 0 12 } ∧
    ((∀ d < 2, slicesRetired s.l2ret d ≤ 8) → ∃ t, exec .plcL2retWrite s = .next t ∧ (∀ i, s.l2ret.getLsbD i = true → t.l2ret.getLsbD i = true) ∧
      (∀ i, t.l2ret.getLsbD i = true → s.l2ret.getLsbD i = true ∨ s.arg.bits.getLsbD i = true) ∧ ∀ d < 2, slicesRetired t.l2ret d ≤ 8) ∧
    (s.power = .idle → s.l2pend = true → ∃ t, exec .l2RetirementApply s = .next t ∧ t.l2retDone = s.l2ret ∧ t.l2pend = false ∧
      (s.memWf → s.wholeLines → ∀ a, t.physByte a = s.physByte a)))

/-- R336, R340 (IADD, ISUB, IMUL, IMULH, IMAD, IMIN, IMAX, IABS, AND, OR, XOR, NOT, SHL, SHR, SHA, ROT, LEA): with nothing in its way, the instruction completes: every lane that takes part, or the warp once for an s destination, gets the value of R340's table modulo 2^n, n the width of TY, from its sources at that width; it sets no flag and the warp moves past it. -/
def Obligations.IntegerResults : Prop :=
  ∀ (s : State) (c k : Nat) (w : Warp) (f : RR), s.Acting c k w →
    let n := tyWidth f.ty
    let sg := tySigned f.ty
    let a := fun l => s.rrVal c k w f (ty64 f.ty) l 0
    let b := fun l => s.rrVal c k w f (ty64 f.ty) l 1
    let d := fun l => s.rrVal c k w f (ty64 f.ty) l 2
    let writes := fun (v : Nat → Word64) => Host.Outcome.next ((s.laneResult c k w f.g (rrDest f) fun l => truncTo n (v l)).retired c k)
    (s.Unhindered c k w (rrNeed f 1 (ty64 f.ty) (rrDest f)) →
      exec (.iabs f) s = writes (fun l => if signedAt n (a l) < 0 then 0 - a l else a l) ∧
      exec (.not f) s = writes (fun l => ~~~ a l)) ∧
    (s.Unhindered c k w (rrNeed f 2 (ty64 f.ty) (rrDest f)) →
      exec (.iadd f) s = writes (fun l => a l + b l) ∧
      exec (.isub f) s = writes (fun l => a l - b l) ∧
      exec (.imul f) s = writes (fun l => a l * b l) ∧
      exec (.imulh f) s = writes (fun l => BitVec.ofInt 64 (valueAt n sg (a l) * valueAt n sg (b l) / 2 ^ n)) ∧
      exec (.imin f) s = writes (fun l => if valueAt n sg (a l) ≤ valueAt n sg (b l) then a l else b l) ∧
      exec (.imax f) s = writes (fun l => if valueAt n sg (a l) ≤ valueAt n sg (b l) then b l else a l) ∧
      exec (.and f) s = writes (fun l => a l &&& b l) ∧
      exec (.or f) s = writes (fun l => a l ||| b l) ∧
      exec (.xor f) s = writes (fun l => a l ^^^ b l) ∧
      exec (.shl f) s = writes (fun l => a l <<< ((b l).toNat % n)) ∧
      exec (.shr f) s = writes (fun l => truncTo n (a l) >>> ((b l).toNat % n)) ∧
      exec (.sha f) s = writes (fun l => BitVec.ofInt 64 (signedAt n (a l) / 2 ^ ((b l).toNat % n))) ∧
      exec (.rot f) s = writes (fun l => (truncTo n (a l) <<< ((b l).toNat % n)) ||| (truncTo n (a l) >>> (n - (b l).toNat % n)))) ∧
    (s.Unhindered c k w (rrNeed f 3 (ty64 f.ty) (rrDest f)) →
      exec (.imad f) s = writes (fun l => a l * b l + d l) ∧
      exec (.lea f) s = writes (fun l => a l + (b l <<< ((d l).toNat % n))))

/-- R340, R341 (POPC, CLZ, CTZ, BREV, BFE, BFI): these complete with the value of the operation of that name, and those values, for n of 32 or 64, are: POPC counts the bits of a that are 1 below n; CLZ and CTZ give the number of zeros above or below the highest or lowest 1, and n when a is 0; bit i of BREV is bit n-1-i of a; BFE of a positive length len = min(b[15:8], n) at pos = b[7:0] gives the bits of a from pos, those at n or above read as 0 or, for I types, as bit n-1, and above them 0 or, for I types, the field's top bit; BFI replaces len bits of c from pos by the low bits of a and keeps the others. -/
def Obligations.IntegerBits : Prop :=
  (∀ (s : State) (c k : Nat) (w : Warp) (f : RR), s.Acting c k w →
    ∀ e ∈ ([(.popc, 1, opPopc), (.clz, 1, opClz), (.ctz, 1, opCtz), (.brev, 1, opBrev), (.bfe, 2, opBfe), (.bfi, 3, opBfi)] : List ((RR → Instr) × Nat × IntOp)),
      s.Unhindered c k w (rrNeed f e.2.1 (ty64 f.ty) (rrDest f)) →
      exec (e.1 f) s = .next ((s.laneResult c k w f.g (rrDest f) fun l =>
        truncTo (tyWidth f.ty) (e.2.2 (tyWidth f.ty) (tySigned f.ty) (s.rrVal c k w f (ty64 f.ty) l 0) (s.rrVal c k w f (ty64 f.ty) l 1) (s.rrVal c k w f (ty64 f.ty) l 2))).retired c k)) ∧
  (∀ (n : Nat) (sg : Bool) (a b c : Word64), (n = 32 ∨ n = 64) →
    (opPopc n sg a b c).toNat = ((List.range n).filter fun i => a.getLsbD i).length ∧
    ((∃ i < n, a.getLsbD i = true) → (opClz n sg a b c).toNat < n ∧ a.getLsbD (n - 1 - (opClz n sg a b c).toNat) = true ∧
      ∀ i < n, n - 1 - (opClz n sg a b c).toNat < i → a.getLsbD i = false) ∧
    ((∃ i < n, a.getLsbD i = true) → (opCtz n sg a b c).toNat < n ∧ a.getLsbD (opCtz n sg a b c).toNat = true ∧
      ∀ i < (opCtz n sg a b c).toNat, a.getLsbD i = false) ∧
    ((∀ i < n, a.getLsbD i = false) → (opClz n sg a b c).toNat = n ∧ (opCtz n sg a b c).toNat = n) ∧
    (∀ i < n, (opBrev n sg a b c).getLsbD i = a.getLsbD (n - 1 - i)) ∧
    (∀ pos len, pos = (b.extractLsb' 0 8).toNat → len = min (b.extractLsb' 8 8).toNat n →
      (∀ i < n, i < len → pos + i < n → (opBfe n sg a b c).getLsbD i = a.getLsbD (pos + i)) ∧
      (sg = false → ∀ i < n, (len ≤ i ∨ n ≤ pos + i) → (opBfe n sg a b c).getLsbD i = false) ∧
      (sg = true → 0 < len → ∀ i < n, (len ≤ i ∨ n ≤ pos + i) → (opBfe n sg a b c).getLsbD i = a.getLsbD (min (pos + len) n - 1)) ∧
      (len = 0 → opBfe n sg a b c = 0) ∧
      ∀ i < n, (opBfi n sg a b c).getLsbD i = if pos ≤ i ∧ i < pos + len then a.getLsbD (i - pos) else c.getLsbD i))

/-- R342, R343 (IADDI, IMULI, ANDI, ORI, XORI, ICMPI, ICMP): the immediate forms complete with the 32-bit result in a v register or the 64-bit one in an s register, the immediate sign-extended; a v source in a 64-bit form is no instruction. ICMP and ICMPI set the predicate to the comparison in each lane that takes part, and the other lanes keep theirs; p7 takes no write. A comparison code that the word does not allow is no instruction, nor is ICMPI with US[1]. -/
def Obligations.ImmediatesAndCompares : Prop :=
  (∀ (s : State) (c k : Nat) (w : Warp) (f : RI), s.Acting c k w →
    let wide := f.us.getLsbD 1
    let d : Dest := { code := f.dst.toNat, isS := wide, wide := wide, ty := if wide then 2 else 0 }
    let a := fun l => (s.readSrc c k w l ⟨f.sa.toNat, f.us.getLsbD 0, wide⟩).1
    let m : Word64 := f.imm.signExtend 64
    s.Unhindered c k w { g := f.g, srcs := [⟨f.sa.toNat, f.us.getLsbD 0, wide⟩], dsts := d.vregs, sdst := d.isS } →
    let writes := fun (v : Nat → Word64) => Host.Outcome.next ((s.laneResult c k w f.g d fun l => truncTo (if wide then 64 else 32) (v l)).retired c k)
    exec (.iaddi f) s = writes (fun l => a l + m) ∧ exec (.imuli f) s = writes (fun l => a l * m) ∧ exec (.andi f) s = writes (fun l => a l &&& m) ∧
    exec (.ori f) s = writes (fun l => a l ||| m) ∧ exec (.xori f) s = writes (fun l => a l ^^^ m)) ∧
  (∀ (s : State) (c k : Nat) (w : Warp), s.Acting c k w →
    (∀ f : RR, s.Unhindered c k w { g := f.g, srcs := RR.srcs f 2 (ty64 f.ty) } →
      exec (.icmp f) s = .next ((s.laneTest c k w f.g f.dst.toNat fun l =>
        intCmp (tyWidth f.ty) (tySigned f.ty) f.cc (s.rrVal c k w f (ty64 f.ty) l 0) (s.rrVal c k w f (ty64 f.ty) l 1)).retired c k)) ∧
    (∀ f : RI, s.Unhindered c k w { g := f.g, srcs := [⟨f.sa.toNat, f.us.getLsbD 0, false⟩] } →
      exec (.icmpi f) s = .next ((s.laneTest c k w f.g (f.dst.extractLsb' 0 3).toNat fun l =>
        intCmp 32 true (f.dst.extractLsb' 4 4).toNat (s.readSrc c k w l ⟨f.sa.toNat, f.us.getLsbD 0, false⟩).1 (truncTo 32 (f.imm.signExtend 64))).retired c k)) ∧
    (∀ (n : Nat) (sg : Bool) (a b : Word64), let x := valueAt n sg a; let y := valueAt n sg b
      (intCmp n sg 0 a b = true ↔ x = y) ∧ (intCmp n sg 1 a b = true ↔ x ≠ y) ∧ (intCmp n sg 2 a b = true ↔ x < y) ∧
      (intCmp n sg 3 a b = true ↔ x ≤ y) ∧ (intCmp n sg 4 a b = true ↔ y < x) ∧ (intCmp n sg 5 a b = true ↔ y ≤ x) ∧
      (intCmp n sg 8 a b = true ↔ (truncTo n a).toNat < (truncTo n b).toNat) ∧ (intCmp n sg 9 a b = true ↔ (truncTo n a).toNat ≤ (truncTo n b).toNat) ∧
      (intCmp n sg 10 a b = true ↔ (truncTo n b).toNat < (truncTo n a).toNat) ∧ (intCmp n sg 11 a b = true ↔ (truncTo n b).toNat ≤ (truncTo n a).toNat)) ∧
    (w.isRegrouped = false → ∀ g n b, n ≠ 7 → ∃ v, (s.laneTest c k w g n b).warp c k = some v ∧ ∀ l < 32,
      laneBit (v.pred n) l = if laneBit (s.taking c k w g) l then b l else laneBit (w.pred n) l) ∧
    (∀ g b, s.laneTest c k w g 7 b = s)) ∧
  (∀ x : Word64, let opc := (x.extractLsb' 54 10).toNat
    (0x20 ≤ opc → opc ≤ 0x24 → x.getLsbD 1 = true → x.getLsbD 0 = false → ∃ e, decodeWarp x = .error e) ∧
    (opc = 0x25 → (x.getLsbD 1 = true ∨ (x.extractLsb' 46 4).toNat ∉ [0, 1, 2, 3, 4, 5, 8, 9, 10, 11]) → ∃ e, decodeWarp x = .error e) ∧
    (opc = 0x18 → ((x.extractLsb' 8 4).toNat > 5 ∨ x.getLsbD 12 = true ∨ 7 < (x.extractLsb' 42 8).toNat) → ∃ e, decodeWarp x = .error e))

/-- R336, R340, R352 (SEL, MOV, MOVI, MOVS, BSEL, GETSP): these complete, and give each lane that takes part, or the warp once: the source the predicate chooses (with an s destination the predicate agrees among those lanes); the source; the sign-extended immediate; for MOVS the lowest such lane's source, zero-extended to 64 bits; the bytes BSEL chooses; the special register. R328, R352: what GETSP reads: the lane, the warp's index in its block, the block's number, the core, its cluster and its die, PKGID, the clock, and the context. -/
def Obligations.MoveAndSpecialResults : Prop :=
  (∀ (s : State) (c k : Nat) (w : Warp), s.Acting c k w →
    (∀ f : RR, let src := fun (i l : Nat) => s.rrVal c k w f (ty64 f.ty) l i
      let p := fun l => s.predBit c k w l f.sc.toNat
      (s.Unhindered c k w (rrNeed f 2 (ty64 f.ty) (rrDest f)) →
        (f.ud = true → (∀ l ∈ lanesOf (s.taking c k w f.g), p l = true) ∨ ∀ l ∈ lanesOf (s.taking c k w f.g), p l = false) →
        exec (.sel f) s = .next ((s.laneResult c k w f.g (rrDest f) fun l => if p l then src 0 l else src 1 l).retired c k)) ∧
      (s.Unhindered c k w (rrNeed f 1 (ty64 f.ty) (rrDest f)) → exec (.mov f) s = .next ((s.laneResult c k w f.g (rrDest f) (src 0)).retired c k)) ∧
      (let d : Dest := { code := f.dst.toNat, isS := true, wide := ty64 f.ty, ty := 1 }
       s.Unhindered c k w (rrNeed f 1 (ty64 f.ty) d) → exec (.movs f) s = .next ((s.laneResult c k w f.g d (src 0)).retired c k)) ∧
      (let d : Dest := { code := f.dst.toNat, isS := f.ud, wide := false, ty := 1 }
       let v := fun (i l : Nat) => (s.rrVal c k w f false l i).toNat
       s.Unhindered c k w (rrNeed f 3 false d) → exec (.bsel f) s = .next ((s.laneResult c k w f.g d fun l =>
         BitVec.ofNat 64 (leNat ((List.range 4).map fun i => BitVec.ofNat 8 (bselByte (v 0 l + v 1 l * 2 ^ 32) (v 2 l / 2 ^ (8 * i) % 256))))).retired c k)) ∧
      (let d : Dest := { code := f.dst.toNat, isS := f.ud, wide := f.sa == 7 || f.sa == 9, ty := 1 }
       s.Unhindered c k w (rrNeed f 0 false d) → exec (.getsp f) s = .next ((s.laneResult c k w f.g d fun l => s.special c k w l f.sa.toNat).retired c k))) ∧
    (∀ f : RI, let d : Dest := { code := f.dst.toNat, isS := f.us.getLsbD 1, wide := f.us.getLsbD 1, ty := 2 }
      s.Unhindered c k w { g := f.g, dsts := d.vregs, sdst := d.isS } →
      exec (.movi f) s = .next ((s.laneResult c k w f.g d fun _ => f.imm.signExtend 64).retired c k))) ∧
  (∀ (s : State) (c k : Nat) (w : Warp) (b : Block) (l : Nat), w.isRegrouped = false → s.block w.block = some b →
    s.special c k w l 0 = BitVec.ofNat 64 l ∧ s.special c k w l 1 = BitVec.ofNat 64 w.idx ∧ s.special c k w l 2 = BitVec.ofNat 64 b.number ∧
    s.special c k w l 3 = BitVec.ofNat 64 c ∧ s.special c k w l 4 = BitVec.ofNat 64 ((c % 96) / 8) ∧
    s.special c k w l 5 = BitVec.ofNat 64 (if c < 96 then 0 else 1) ∧ s.special c k w l 6 = BitVec.ofNat 64 s.pkgid ∧
    s.special c k w l 7 = BitVec.ofNat 64 s.clock ∧ s.special c k w l 8 = BitVec.ofNat 64 b.ctx)

/-- R198, R353-R359 (SHFL, VOTE, MATCH, REDUX, BCAST, WARPSYNC), with every lane of the warp live and taking part, outside compatibility mode, each lane's mask naming that lane: the exchange completes. SHFL gives the source of the lane b, l-b, l+b or l xor b names, if it is inside the warp and a member, else the lane's own; VOTE gives whether all or some members' sources are not 0, or the members for which it is so; MATCH the members with an equal source, or all members if all are equal; REDUX the members' sources combined; BCAST the source of lane b, or the lane's own where that is no member. R106, R108, R198, R359: WARPSYNC whose lanes name only lanes that take part, themselves among them, completes, once the posted stores it follows are acknowledged, as a release at CORE scope and changes nothing else (with no lane taking part it does nothing); while they are not it waits; an exchange whose mask leaves out a lane that takes part traps with MEMBER-MASK at that lane. -/
def Obligations.LaneExchanges : Prop :=
  (∀ (s : State) (c k : Nat) (w : Warp) (f : RR), s.Acting c k w → s.cm16 w = false → w.exited = 0 → s.taking c k w f.g = 0xFFFFFFFF →
    let mem := fun l => (s.readS c k w l f.sc.toNat).extractLsb' 0 32
    (∀ l < 32, laneBit (mem l) l = true) →
    let val := fun (i l : Nat) => s.rrVal c k w f (ty64 f.ty) l i
    let own := fun l => val 0 l
    let b := fun l => (s.rrVal c k w f false l 1).toNat
    let src := fun l (j : Nat) => if j < 32 ∧ laneBit (mem l) j = true then own j else own l
    let gives := fun (d : Dest) (v : Nat → Word64) => Host.Outcome.next ((s.laneResult c k w f.g d v).retired c k)
    let dv : Dest := { code := f.dst.toNat, isS := f.ud, wide := false, ty := f.ty }
    (s.Unhindered c k w { g := f.g, srcs := [⟨f.sa.toNat, f.aS, ty64 f.ty⟩, ⟨f.sb.toNat, f.bS, false⟩], dsts := (rrDest f).vregs, sdst := f.ud } →
      (f.sub2 = 0 → exec (.shfl f) s = gives (rrDest f) fun l => src l (b l)) ∧
      (f.sub2 = 1 → exec (.shfl f) s = gives (rrDest f) fun l => if b l ≤ l then src l (l - b l) else own l) ∧
      (f.sub2 = 2 → exec (.shfl f) s = gives (rrDest f) fun l => src l (l + b l)) ∧
      (f.sub2 = 3 → exec (.shfl f) s = gives (rrDest f) fun l => src l ((BitVec.ofNat 32 l) ^^^ (BitVec.ofNat 32 (b l))).toNat)) ∧
    (s.Unhindered c k w (rrNeed f 1 false dv) →
      let hits := fun l => (lanesOf (mem l)).filter fun j => s.rrVal c k w f false j 0 != 0
      (f.sub2 = 0 → exec (.vote f) s = gives dv fun l => if hits l = lanesOf (mem l) then 1 else 0) ∧
      (f.sub2 = 1 → exec (.vote f) s = gives dv fun l => if hits l = [] then 0 else 1) ∧
      (f.sub2 = 2 → exec (.vote f) s = gives dv fun l => (maskOf fun j => (hits l).contains j).setWidth 64)) ∧
    (s.Unhindered c k w (rrNeed f 1 (ty64 f.ty) dv) →
      let same := fun l => (lanesOf (mem l)).filter fun j => own j == own l
      (f.sub2 = 0 → exec (.matchLanes f) s = gives dv fun l => (maskOf fun j => (same l).contains j).setWidth 64) ∧
      (f.sub2 = 1 → exec (.matchLanes f) s = gives dv fun l => if same l = lanesOf (mem l) then (mem l).setWidth 64 else 0)) ∧
    (s.Unhindered c k w (rrNeed f 1 (ty64 f.ty) (rrDest f)) →
      exec (.bcast f) s = gives (rrDest f) (fun l => src l (b l)) ∧
      exec (.redux f) s = gives (rrDest f) fun l => match (lanesOf (mem l)).map own with
        | [] => 0
        | x :: xs => xs.foldl (fun y z => truncTo (tyWidth f.ty) (reduxOp f.sub3 (tyWidth f.ty) (tySigned f.ty) y z 0)) x)) ∧
  (∀ (s : State) (c k : Nat) (w : Warp) (f : RR), s.Acting c k w → w.exited = 0 → s.Unhindered c k w { g := f.g } →
    let lanes := s.taking c k w f.g
    let mem := fun l => (s.readS c k w l f.sa.toNat).extractLsb' 0 32
    (lanes = 0 → exec (.warpsync f) s = .next (s.retired c k)) ∧
    (lanes ≠ 0 → (∀ l ∈ lanesOf lanes, laneBit (mem l) l = true ∧ mem l &&& ~~~ lanes = 0) →
      (s.postedOut c k = false → exec (.warpsync f) s = .next ((s.coreReleased c k w).retired c k)) ∧
      (s.postedOut c k = true → exec (.warpsync f) s = s.heldBack c k w)) ∧
    (∀ l0 ∈ lanesOf lanes, (∀ l ∈ lanesOf lanes, mem l &&& ~~~ lanes = 0 ∧ (l < l0 → laneBit (mem l) l = true)) → laneBit (mem l0) l0 = false →
      exec (.warpsync f) s = .next ((s.takeTrap c k { cause := .memberMask, lane := l0 }).draw)))

/-- R45, R336, R338: what the lane results that the statements above name are, read back, for a warp that is not regrouped, with no result in flight and a destination written at once. In a v register each lane that takes part reads its value's low 32 bits (and with 64 bits its high 32 in the next register), with no poison, and every other element of every tile is as before; in an s register the warp reads the value of the lowest lane that takes part, extended by TY, and every other s register is as before, all of them where no lane takes part. -/
def Obligations.LaneResultsRead : Prop :=
  ∀ (s : State) (c k : Nat) (w : Warp) (g : BitVec 4) (d : Dest) (v : Nat → Word64),
    s.warp c k = some w → w.isRegrouped = false → w.flights = [] → s.warps.find (homeKey c k) = none → d.sbd = none → (d.wide = true → d.code % 2 = 0) →
    let t := s.laneResult c k w g d v
    let takes := fun l => l ∈ lanesOf (s.taking c k w g)
    (d.isS = false →
      (∀ l x, takes l → w.tileOf d.code = some x → (t.tile c x).elems.getD (elemIdx d.code l) {} = ⟨(v l).extractLsb' 0 32, none⟩) ∧
      (∀ l x, takes l → d.wide = true → w.tileOf (d.code + 1) = some x → (t.tile c x).elems.getD (elemIdx (d.code + 1) l) {} = ⟨(v l).extractLsb' 32 32, none⟩) ∧
      (∀ x i, (∀ l, takes l → w.tileOf d.code = some x → i ≠ elemIdx d.code l) →
        (∀ l, takes l → d.wide = true → w.tileOf (d.code + 1) = some x → i ≠ elemIdx (d.code + 1) l) →
        (t.tile c x).elems.getD i {} = (s.tile c x).elems.getD i {}) ∧
      t.warps = s.warps ∧ (∀ e x, e ≠ c → t.tile e x = s.tile e x)) ∧
    (d.isS = true → t.cores = s.cores ∧ ∃ u, t.warp c k = some u ∧ (∀ n, n ≠ d.code → u.sreg n = w.sreg n) ∧
      (∀ l, (lanesOf (s.taking c k w g)).head? = some l → u.sreg d.code = extendS d.ty d.wide (v l)) ∧
      (s.taking c k w g = 0 → u = w)) ∧
    t.mem = s.mem ∧ t.ctxs = s.ctxs ∧ t.blocks = s.blocks ∧ ∀ e j, (e, j) ≠ (c, k) → j < 48 → k < 48 → t.warp e j = s.warp e j

/-- R323, R336, R340, R345: the frame of the integer words, MOV, the float words and the packed halves of warps: where the instruction completes in a warp that is not regrouped, all memory and every copy of it, every context, queue, block and device register, every other core and every other warp are as before; of the warp itself only the destination's registers, its results in flight, for float words its first-event log, its place in the program and its readiness change: its active lanes, stack, predicates, trap registers and rounding mode do not. -/
def Obligations.RegisterWordFrame : Prop :=
  ∀ (s t : State) (c k : Nat) (w : Warp) (f : RR), s.Acting c k w → w.isRegrouped = false → k < 48 → s.warps.find (homeKey c k) = none →
    let keeps := fun (t : State) (fel : Bool) =>
      (∀ a, t.physByte a = s.physByte a) ∧ t.mem = s.mem ∧ t.lines = s.lines ∧ t.scratch = s.scratch ∧ t.ctxs = s.ctxs ∧ t.queues = s.queues ∧ t.blocks = s.blocks ∧
      t.regs = s.regs ∧ t.launches = s.launches ∧ t.clock = s.clock ∧
      (∀ e, e ≠ c → t.core e = s.core e) ∧ (t.core c).shared = (s.core c).shared ∧ (t.core c).seq = (s.core c).seq ∧ (t.core c).tags = (s.core c).tags ∧
      (∀ e j, j < 48 → (e, j) ≠ (c, k) → t.warp e j = s.warp e j) ∧
      ∃ u, t.warp c k = some u ∧ u.active = w.active ∧ u.exited = w.exited ∧ u.stack = w.stack ∧ u.preds = w.preds ∧ u.traps = w.traps ∧ u.rm = w.rm ∧
        u.seed = w.seed ∧ u.tmap = w.tmap ∧ (fel = true ∨ u.fel = w.fel) ∧ u.pc = w.pc + 8 ∧ ∀ n, ¬(f.ud = true ∧ n = f.dst.toNat) → u.sreg n = w.sreg n
    (∀ e ∈ ([(.iadd, 2), (.isub, 2), (.imul, 2), (.imulh, 2), (.imad, 3), (.imin, 2), (.imax, 2), (.iabs, 1), (.and, 2), (.or, 2), (.xor, 2), (.not, 1),
        (.shl, 2), (.shr, 2), (.sha, 2), (.rot, 2), (.popc, 1), (.clz, 1), (.ctz, 1), (.brev, 1), (.bfe, 2), (.bfi, 3), (.lea, 3), (.mov, 1)] : List ((RR → Instr) × Nat)),
      s.Unhindered c k w (rrNeed f e.2 (ty64 f.ty) (rrDest f)) → exec (e.1 f) s = .next t → keeps t false) ∧
    (∀ e ∈ ([(.fadd, 2), (.fsub, 2), (.fmul, 2), (.ffma, 3), (.fmin, 2), (.fmax, 2), (.fclass, 1), (.frcp, 1), (.frsq, 1), (.fsqrt, 1), (.fexp2, 1), (.flog2, 1),
        (.ftanh, 1), (.fdiv, 2), (.fscale, 2), (.frnd, 1), (.hadd2, 2), (.hmul2, 2), (.hfma2, 3)] : List ((RR → Instr) × Nat)),
      s.Unhindered c k w (rrNeed f e.2 false { code := f.dst.toNat, isS := f.ud, wide := false, ty := f.ty }) → exec (e.1 f) s = .next t → keeps t true)

/-- R289, R335, R336, R345-R347, R351, R371: the float words of warps complete. Every lane that takes part, or the warp once, gets the operation of that name on its sources' elements, rounded by the word's mode for that element, with the events the operation meets in the first-event log; FRCP, FRSQ, FSQRT, FEXP2, FLOG2, FTANH and FDIV leave their results in flight under the word's scoreboard, the others write them at once. R346 (FCLASS): with nothing in its way it completes; every lane that takes part, or the warp once, gets a mask of one bit, that of its source's class: signalling or quiet NaN, negative infinity, normal, subnormal and zero, positive zero, subnormal, normal and infinity, by the source's sign, exponent and mantissa fields. -/
def Obligations.FloatResults : Prop :=
  (∀ (s : State) (c k : Nat) (w : Warp) (f : RR), s.Acting c k w →
    ∀ e ∈ ([(.fadd, 2, false, fun m r a b _ => fAdd m r a b), (.fsub, 2, false, fun m r a b _ => fSub m r a b), (.fmul, 2, false, fun m r a b _ => fMul m r a b),
        (.ffma, 3, false, fun m r a b x => fFma m r (f.md.getLsbD 1) (f.md.getLsbD 0) a b x), (.fmin, 2, false, fun m _ a b _ => fMin m a b),
        (.fmax, 2, false, fun m _ a b _ => fMax m a b), (.fclass, 1, false, fun m _ a _ _ => ⟨fClass m a, 0⟩),
        (.frcp, 1, true, fun m r a _ _ => fRcp m r a), (.frsq, 1, true, fun m r a _ _ => fRsq m r a), (.fsqrt, 1, true, fun m r a _ _ => fSqrt m r a),
        (.fexp2, 1, true, fun m r a _ _ => fExp2 m r a), (.flog2, 1, true, fun m r a _ _ => fLog2 m r a), (.ftanh, 1, true, fun m r a _ _ => fTanh m r a),
        (.fdiv, 2, true, fun m r a b _ => fDiv m r a b), (.fscale, 2, false, fun m r a b _ => fScale m r a (BitVec.ofNat 32 b).toInt),
        (.frnd, 1, false, fun _ r a _ _ => fRnd r a)] : List ((RR → Instr) × Nat × Bool × (Fmt → Rnd → Nat → Nat → Nat → FRes))),
      let d : Dest := { code := f.dst.toNat, isS := f.ud, wide := false, ty := f.ty, sbd := if e.2.2.1 then some f.sbd.toNat else none }
      let x := fun (i l : Nat) => (s.rrVal c k w f false l i).toNat % 2 ^ (fmtOf f.ty).bits
      s.Unhindered c k w (rrNeed f e.2.1 false d) →
      exec (e.1 f) s = .next ((s.laneOuts c k w f.g d fun l =>
        LaneOut.of (e.2.2.2 (fmtOf f.ty) (s.rndFor c k w l f.rm (d.elem l 0)) (x 0 l) (x 1 l) (x 2 l))).retired c k)) ∧
  (∀ (s : State) (c k : Nat) (w : Warp) (f : RR), s.Acting c k w → fmtOf f.ty ∈ [Fmt.f32, .f16, .b16] →
    let m := fmtOf f.ty
    let d : Dest := { code := f.dst.toNat, isS := f.ud, wide := false, ty := f.ty }
    let top := 2 ^ (m.bits - 1 - m.man)
    let cls := fun (a : Nat) =>
      let neg := a / 2 ^ (m.bits - 1) = 1
      let e := a / 2 ^ m.man % top
      let t := a % 2 ^ m.man
      if e = top - 1 then (if t = 0 then (if neg then 0x004 else 0x200) else if t / 2 ^ (m.man - 1) = 0 then 0x001 else 0x002)
      else if e = 0 then (if t = 0 then (if neg then 0x020 else 0x040) else if neg then 0x010 else 0x080)
      else if neg then 0x008 else 0x100
    s.Unhindered c k w (rrNeed f 1 false d) →
    exec (.fclass f) s = .next ((s.laneOuts c k w f.g d fun l => LaneOut.of ⟨cls ((s.rrVal c k w f false l 0).toNat % 2 ^ m.bits), 0⟩).retired c k))

/-- R289, R347 (HADD2, HMUL2, HFMA2) and R345 (FCMP): the packed words complete with the operation on each 16-bit half, the comparison with its predicate. R335, R348-R350 (CVT, CVTPK, CVTQ): the conversions complete: CVT with one element of the type in SC converted; CVTPK with the first two sources in positions 0 and 1 and the third's elements above them; CVTQ with the first source, scaled by the second's E8M0 exponent, in position 0 and the third's elements above it. -/
def Obligations.PackedAndConverted : Prop :=
  (∀ (s : State) (c k : Nat) (w : Warp) (f : RR), s.Acting c k w →
    (∀ e ∈ ([(.hadd2, 2, fun m r a b _ => fAdd m r a b), (.hmul2, 2, fun m r a b _ => fMul m r a b),
        (.hfma2, 3, fun m r a b x => fFma m r (f.md.getLsbD 1) (f.md.getLsbD 0) a b x)] : List ((RR → Instr) × Nat × (Fmt → Rnd → Nat → Nat → Nat → FRes))),
      let d : Dest := { code := f.dst.toNat, isS := f.ud, wide := false, ty := f.ty }
      let x := fun (i h l : Nat) => (s.rrVal c k w f false l i).toNat / 2 ^ (16 * h) % 2 ^ 16
      let half := fun (h l : Nat) => e.2.2 (fmtOf f.ty) (s.rndFor c k w l f.rm (d.elem l h)) (x 0 h l) (x 1 h l) (x 2 h l)
      s.Unhindered c k w (rrNeed f e.2.1 false d) →
      exec (e.1 f) s = .next ((s.laneOuts c k w f.g d fun l =>
        { v := BitVec.ofNat 64 ((half 0 l).bits + (half 1 l).bits * 2 ^ 16), evs := [(0, (half 0 l).ev), (1, (half 1 l).ev)] }).retired c k)) ∧
    (s.Unhindered c k w { g := f.g, srcs := RR.srcs f 2 false } →
      exec (.fcmp f) s = .next ((s.laneTest c k w f.g f.dst.toNat fun l =>
        fCmp (fmtOf f.ty) f.cc ((s.rrVal c k w f false l 0).toNat % 2 ^ (fmtOf f.ty).bits) ((s.rrVal c k w f false l 1).toNat % 2 ^ (fmtOf f.ty).bits)).retired c k))) ∧
  (∀ (s : State) (c k : Nat) (w : Warp) (f : RR), s.Acting c k w →
    let d : Dest := { code := f.dst.toNat, isS := f.ud, wide := false, ty := f.ty }
    let n := positions f.ty
    let x := fun (i l : Nat) => (s.rrVal c k w f false l i).toNat
    let above := fun (j l : Nat) => (List.range (n - j)).foldl (fun (v : Nat) i => v + packAt f.ty (i + j) (packedAt f.ty (x 2 l) i)) 0
    (let st := f.sc.extractLsb' 0 5
     s.Unhindered c k w (rrNeed f 1 (ty64 st) (rrDest f)) →
      exec (.cvt f) s = .next ((s.laneOuts c k w f.g (rrDest f) fun l =>
        LaneOut.of (cvtElem (numTyOf f.ty) (numTyOf st) (s.rndFor c k w l f.rm ((rrDest f).elem l 0)) f.nsat
          ((s.rrVal c k w f (ty64 st) l 0).toNat % 2 ^ (numTyOf st).bits))).retired c k)) ∧
    (s.Unhindered c k w (rrNeed f (if n = 2 then 2 else 3) false d) →
      let one := fun (i l : Nat) => cvtElem (numTyOf f.ty) (.flt .f32) (s.rndFor c k w l f.rm (d.elem l i)) f.nsat (x i l)
      exec (.cvtpk f) s = .next ((s.laneOuts c k w f.g d fun l =>
        { v := BitVec.ofNat 64 (packAt f.ty 0 (one 0 l).bits + packAt f.ty 1 (one 1 l).bits + above 2 l), evs := [(0, (one 0 l).ev), (1, (one 1 l).ev)] }).retired c k)) ∧
    (s.Unhindered c k w (rrNeed f 3 false d) →
      let one := fun (l : Nat) => cvtScaled (numTyOf f.ty) (s.rndFor c k w l f.rm (d.elem l 0)) f.nsat (x 1 l % 256) (x 0 l)
      exec (.cvtq f) s = .next ((s.laneOuts c k w f.g d fun l =>
        { v := BitVec.ofNat 64 (packAt f.ty 0 (one l).bits + above 1 l), evs := [(0, (one l).ev)] }).retired c k)))

/-- R288, R289: rounding the magnitude m times 2^e to a multiple of 2^q. A result that needs no rounding is exact; otherwise it is one of the two neighbours: RNE takes the nearer, the even one of two equally near; RTZ the one nearer zero; RUP and RDN the one above and below for the sign; RSN the greater exactly when the part cut off exceeds u times 2^-32 of a unit. R292, R293, R478 for F32, F16 and B16: a NaN source gives the first NaN with its quiet bit set and no event, in addition, subtraction, multiplication and the fused operation alike; infinities of unlike signs added, and zero times infinity, give the generated NaN of their cause with INVALID; a sum of zeros of one sign keeps it, and of unlike signs is +0, or -0 when rounding down. -/
def Obligations.RoundingAndSpecialValues : Prop :=
  (∀ (r : Rnd) (neg : Bool) (m : Nat) (e q : Int), e < q →
    let sh := (q - e).toNat
    let n := (roundAt r neg m e false q).1
    (n = m / 2 ^ sh ∨ n = m / 2 ^ sh + 1) ∧
    ((roundAt r neg m e false q).2 = true ↔ m % 2 ^ sh ≠ 0) ∧
    (m % 2 ^ sh = 0 → n = m / 2 ^ sh) ∧
    (r.rm = .rne → 2 * (n * 2 ^ sh) ≤ 2 * m + 2 ^ sh ∧ 2 * m ≤ 2 * (n * 2 ^ sh) + 2 ^ sh ∧
      ((2 * (n * 2 ^ sh) = 2 * m + 2 ^ sh ∨ 2 * m = 2 * (n * 2 ^ sh) + 2 ^ sh) → n % 2 = 0)) ∧
    (r.rm = .rtz → n = m / 2 ^ sh) ∧
    (r.rm = .rup → neg = true → n = m / 2 ^ sh) ∧ (r.rm = .rdn → neg = false → n = m / 2 ^ sh) ∧
    (r.rm = .rup → neg = false → m ≤ n * 2 ^ sh) ∧ (r.rm = .rdn → neg = true → m ≤ n * 2 ^ sh) ∧
    (r.rm = .rsn → (n = m / 2 ^ sh + 1 ↔ r.u * 2 ^ sh < m % 2 ^ sh * 2 ^ 32))) ∧
  (∀ (m : Fmt) (r : Rnd) (a b x : Nat), m ∈ [Fmt.f32, .f16, .b16] → a < 2 ^ m.bits → b < 2 ^ m.bits → x < 2 ^ m.bits →
    (∀ p, m.val a = .nan p → fAdd m r a b = ⟨m.quieted a, 0⟩ ∧ fSub m r a b = ⟨m.quieted a, 0⟩ ∧ fMul m r a b = ⟨m.quieted a, 0⟩ ∧ fFma m r false false a b x = ⟨m.quieted a, 0⟩) ∧
    (∀ p, m.val b = .nan p → (∀ q, m.val a ≠ .nan q) → fAdd m r a b = ⟨m.quieted b, 0⟩ ∧ fMul m r a b = ⟨m.quieted b, 0⟩) ∧
    (∀ n, m.val a = .inf n → m.val b = .inf (!n) → fAdd m r a b = ⟨m.genNan 3, evInvalid⟩) ∧
    (∀ n t e, m.val a = .inf n → m.val b = .fin t 0 e → fMul m r a b = ⟨m.genNan 4, evInvalid⟩ ∧ fMul m r b a = ⟨m.genNan 4, evInvalid⟩) ∧
    (∀ n t e g, m.val a = .fin n 0 e → m.val b = .fin t 0 g →
      fAdd m r a b = ⟨m.signed (if n = t then n else r.rm == .rdn) 0, 0⟩))

/-- R190, R218, R310, R314, R360, R361 (NOP, YIELD, BRA, CALL, BRI, BRX with its condition alike in every active lane): NOP and YIELD have no effect beyond moving past; a branch whose guard is true in every active lane continues at its target with the active mask as it was, BRI at the address its base holds in every active lane, CALL, with fewer than 16 entries resident and room in the spill area, with a RETURN entry of the address after it pushed; with the guard false in every active lane nothing happens but the moving past. R190, R193 (BRX, and BRX.G of a regrouped warp): with the condition true in some active lanes and false in others and fewer than 15 entries resident, the warp pushes RECONV with its active mask, then PENDING with the address after the branch and the lanes not taking it, and continues at the target with the taking lanes. -/
def Obligations.Branches : Prop :=
  (∀ (s : State) (c k : Nat) (w : Warp) (f : BR), s.Acting c k w →
    let goes := fun (p : Word64) => ({ w with pc := p, clause := none, pos := 0, readyAge := s.clock, losses := 0 } : Warp)
    (∀ x : NopF, exec (.nop x) s = .next (s.retired c k)) ∧
    exec (.yield f) s = .next (s.retired c k) ∧
    (s.Unhindered c k w { g := f.g } → s.taking c k w f.g = w.active → w.active ≠ 0 →
      exec (.bra f) s = .next ((s.setWarp c k (goes (w.pc + f.tgt.signExtend 64))).jumped c k) ∧
      exec (.brx f) s = .next ((s.setWarp c k (goes (w.pc + f.tgt.signExtend 64))).jumped c k) ∧
      (s.spillFull c k w = false → w.residents < 16 →
        exec (.call f) s = .next ((s.setWarp c k { goes (w.pc + f.tgt.signExtend 64) with stack := ⟨w.pc + 8, w.active, .ret⟩ :: w.stack }).jumped c k))) ∧
    (s.Unhindered c k w { g := f.g } → s.taking c k w f.g = 0 → w.active ≠ 0 →
      exec (.bra f) s = .next (s.retired c k) ∧ exec (.brx f) s = .next (s.retired c k) ∧ exec (.call f) s = .next (s.retired c k)) ∧
    (∀ p, s.Unhindered c k w { g := f.g, srcs := (baseSrc (f.md.extractLsb' 0 8)).toList } → s.taking c k w f.g = w.active → w.active ≠ 0 →
      (∀ l ∈ lanesOf w.active, s.baseVal c k w l (f.md.extractLsb' 0 8) = p) →
      exec (.bri f) s = .next ((s.setWarp c k (goes p)).jumped c k)) ∧
    (s.Unhindered c k w { g := f.g } → s.taking c k w f.g ≠ 0 → s.taking c k w f.g ≠ w.active →
      exec (.bra f) s = .next ((s.takeTrap c k { cause := .nonuniform, lane := lowLane w.active }).draw) ∧
      exec (.call f) s = .next ((s.takeTrap c k { cause := .nonuniform, lane := lowLane w.active }).draw))) ∧
  (∀ (s : State) (c k : Nat) (w : Warp) (f : BR), s.Acting c k w → s.Unhindered c k w { g := f.g } →
    s.taking c k w f.g ≠ 0 → s.taking c k w f.g ≠ w.active →
    let m := s.taking c k w f.g
    let st : List DivEntry := ⟨w.pc + 8, w.active &&& ~~~ m, .pending⟩ :: ⟨0, w.active, .reconv⟩ :: w.stack
    let u : Warp := { w with pc := w.pc + f.tgt.signExtend 64, clause := none, pos := 0, readyAge := s.clock, losses := 0, active := m, stack := st }
    let t := (s.setWarp c k u).jumped c k
    s.spillFull c k w = false → w.residents < 15 → exec (.brx f) s = .next t ∧ (w.isRegrouped = true → exec (.brxG f) s = .next t))

/-- R193, R194 (BRX.G): the lanes of a home warp whose instance count for the PC is the lowest wait at the regroup point, those that take the branch among them; where all active lanes have one count, below the largest, and the PC is one of the block's at most eight, the whole warp waits under that key and changes nothing else of itself. R194, R195: a regroup completes when every warp of the block that has neither exited nor halted waits at a BRX.G or a barrier, one at a BRX.G at least: every key's regroup begins, the instance counts of the lanes that wait rise by one, and their warps are set aside. A regroup late by 4,096 cycles is released: a warp that waited alone with all its lanes taking the branch, or none, goes on at the target, or after the BRX.G. -/
def Obligations.Regroups : Prop :=
  (∀ (s : State) (c k : Nat) (w : Warp) (f : BR) (b : Block) (n : Nat), s.Acting c k w → s.Unhindered c k w { g := f.g } → w.isRegrouped = false → w.active ≠ 0 →
    s.block w.block = some b → b.regroupPcs.contains w.pc = true → (∀ l ∈ lanesOf w.active, w.countOf w.pc l = n) → n < 0xFFFFFFFF →
    ∃ t u, exec (.brxG f) s = .next t ∧ t.warp c k = some u ∧
      u = { w with st := if w.st = .trap then .trap else .waiting, wait := some (.regroup w.pc n w.active (s.taking c k w f.g) (w.pc + f.tgt.signExtend 64)) } ∧
      t.mem = s.mem ∧ t.cores = s.cores) ∧
  (∀ (s : State) (b : Block), s.clocked = true → s.block s.arg.id = some b → (∀ k ∈ b.slots, k < 48) →
    (s.regroupReady b = true → ∃ u y, exec .regroupCompletion s = .next u ∧ u.block s.arg.id = some y ∧ y.regroupTimers = [] ∧ s.sameBytes u ∧
      y.regroups.length = (regroupKeys (s.regroupWaiters b)).length ∧
      ∀ k w p n m t g, k ∈ b.slots → s.warp b.core k = some w → w.wait = some (.regroup p n m t g) →
        ∃ h, u.warps.find (homeKey b.core k) = some h ∧ h.sregs = w.sregs ∧ ∀ l ∈ lanesOf m, h.countOf p l = w.countOf p l + 1) ∧
    (∀ k w p n t g at_, b.st = .resident → b.slots = [k] → s.warp b.core k = some w → s.warps.find (homeKey b.core k) = none → w.isRegrouped = false → w.st = .waiting → w.active ≠ 0 →
      w.wait = some (.regroup p n w.active t g) → b.regroupTimers = [(p, n, at_)] → at_ + 4096 ≤ s.clock →
      (t = w.active → ∃ u v, exec .regroupTimeout s = .next u ∧ u.warp b.core k = some v ∧ v.st = .ready ∧ v.wait = none ∧ v.pc = g ∧ v.active = w.active ∧ v.fel.sum.getLsbD 0x12 = true) ∧
      (t = 0 → ∃ u v, exec .regroupTimeout s = .next u ∧ u.warp b.core k = some v ∧ v.st = .ready ∧ v.wait = none ∧ v.pc = w.pc + 8 ∧ v.active = w.active ∧ v.fel.sum.getLsbD 0x12 = true)))

/-- R191, R362 (JOIN, RET): JOIN of a home warp whose top entry is RECONV with a lane that lives continues after the JOIN with the entry's lanes, PENDING at the entry's address, and with an empty stack after the JOIN unchanged; RET pops its RETURN entry and continues at its address with its lanes; with a RETURN entry on top JOIN traps ILLEGAL, and so does RET with another kind on top. R363 (EXIT): the lanes that take part leave the active mask and every entry of the stack. A home warp with none left alive is EXITED; one with active lanes left moves past. -/
def Obligations.JoinReturnExit : Prop :=
  (∀ (s : State) (c k : Nat) (w : Warp) (f : BR), s.Acting c k w → w.isRegrouped = false →
    let goes := fun (p : Word64) (m : Word32) (st : List DivEntry) => ({ w with pc := p, clause := none, pos := 0, readyAge := s.clock, losses := 0, active := m, stack := st } : Warp)
    (∀ e rest, w.stack = e :: rest →
      let m := e.mask &&& ~~~ w.exited
      (m ≠ 0 → e.kind = .reconv → exec (.join f) s = .next ((s.setWarp c k (goes (w.pc + 8) m rest)).jumped c k)) ∧
      (m ≠ 0 → e.kind = .pending → (∀ x ∈ w.mids, x.1 ≠ e.pc) → exec (.join f) s = .next ((s.setWarp c k (goes e.pc m rest)).jumped c k)) ∧
      (m ≠ 0 → e.kind = .ret → exec (.ret f) s = .next ((s.setWarp c k (goes e.pc m rest)).jumped c k)) ∧
      (e.kind = .ret → exec (.join f) s = .next ((s.takeTrap c k { cause := .illegal, lane := lowLane w.active }).draw)) ∧
      (e.kind ≠ .ret → exec (.ret f) s = .next ((s.takeTrap c k { cause := .illegal, lane := lowLane w.active }).draw))) ∧
    (w.stack = [] → w.spilled = 0 → w.active ≠ 0 → exec (.join f) s = .next ((s.setWarp c k (goes (w.pc + 8) w.active [])).jumped c k)) ∧
    (w.stack = [] → w.spilled = 0 → exec (.ret f) s = .next ((s.takeTrap c k { cause := .illegal, lane := lowLane w.active }).draw))) ∧
  (∀ (s : State) (c k : Nat) (w : Warp) (f : BR), s.Acting c k w → s.Unhindered c k w { g := f.g } → w.isRegrouped = false →
    let m := s.taking c k w f.g
    let left : Warp := { w with active := w.active &&& ~~~ m, exited := w.exited ||| m, stack := w.stack.map fun e => { e with mask := e.mask &&& ~~~ m } }
    (m = 0 → exec (.exit f) s = .next (s.retired c k)) ∧
    (m ≠ 0 → w.exited ||| m = 0xFFFFFFFF → exec (.exit f) s = .next ((s.setWarp c k { left with st := .exited, wait := none }).jumped c k)) ∧
    (m ≠ 0 → w.exited ||| m ≠ 0xFFFFFFFF → w.active &&& ~~~ m ≠ 0 → exec (.exit f) s = .next ((s.setWarp c k left).retired c k)))

/-- R264, R267, R268: a trap taken by a home warp outside trap mode, with its results landed and a handler named by CTX.TRAPH. The warp enters TRAP at the handler with the active mask of the trap; TRAP.PC and TRAP.NPC hold the trapping instruction's address (for SOFTWARE and BREAKPOINT the address after it), TRAP.CAUSE the cause with IMM, LANE, SSLOT and SCAUSE in their fields, TRAP.MASK the active mask with the place in its clause above it, TRAP.ADDR the address reported; the scratch registers, the other registers, the predicates, the divergence stack, all tiles and all memory are unchanged. R270, R279: a trap in trap mode ends the context with reason 2, and a trap taken with CTX.TRAPH zero with reason 3; with the freeze on traps off nothing else happens, and no handler runs. -/
def Obligations.Traps : Prop :=
  (∀ (s : State) (c k : Nat) (w : Warp) (t : TrapInfo) (x : Ctx), s.warp c k = some w → w.isRegrouped = false → w.st ≠ .trap → w.flights = [] →
    s.ctx (s.ctxOf w) = some x → x.traph ≠ 0 → t.pc = none → t.past = false → t.active = none →
    ∃ v, (s.takeTrap c k t).warp c k = some v ∧ v.st = .trap ∧ v.wait = none ∧ v.pc = x.traph ∧ v.clause = none ∧ v.active = w.active ∧
      v.traps.pc = (if t.after then w.pc + 8 else w.pc) ∧ v.traps.npc = v.traps.pc ∧ v.traps.entryNpc = v.traps.npc ∧
      v.traps.cause.extractLsb' 0 8 = BitVec.ofNat 8 t.cause.code ∧ v.traps.cause.extractLsb' 16 16 = BitVec.ofNat 16 t.imm ∧
      v.traps.cause.extractLsb' 32 5 = BitVec.ofNat 5 t.lane ∧ v.traps.cause.extractLsb' 37 3 = BitVec.ofNat 3 t.sslot ∧
      v.traps.cause.extractLsb' 40 8 = BitVec.ofNat 8 t.scause ∧ v.traps.cause.extractLsb' 8 8 = 0 ∧ v.traps.cause.extractLsb' 48 16 = 0 ∧
      v.traps.mask.extractLsb' 0 32 = w.active ∧ (t.after = false → v.traps.mask.extractLsb' 32 4 = BitVec.ofNat 4 w.pos) ∧ v.traps.mask.extractLsb' 36 28 = 0 ∧
      v.traps.addr = BitVec.ofNat 64 t.addr ∧ v.traps.scr0 = w.traps.scr0 ∧ v.traps.scr1 = w.traps.scr1 ∧
      v.sregs = w.sregs ∧ v.preds = w.preds ∧ v.stack = w.stack ∧ v.exited = w.exited ∧ v.rm = w.rm ∧ v.fel = w.fel ∧
      (s.takeTrap c k t).mem = s.mem ∧ (s.takeTrap c k t).cores = s.cores ∧ (s.takeTrap c k t).ctxs = s.ctxs ∧ (s.takeTrap c k t).blocks = s.blocks ∧
      ∀ e j, j < 48 → k < 48 → (e, j) ≠ (c, k) → (s.takeTrap c k t).warp e j = s.warp e j) ∧
  (∀ (s : State) (c k : Nat) (w : Warp) (t : TrapInfo), s.warp c k = some w → w.isRegrouped = false → s.frzCtl.trapen = false →
    (w.st = .trap → s.takeTrap c k t = s.terminate (s.ctxOf w) 2) ∧
    (∀ x, w.st ≠ .trap → s.ctx (s.ctxOf w) = some x → x.traph = 0 → s.takeTrap c k t = s.terminate (s.ctxOf w) 3) ∧
    (∀ r x, s.ctx (s.ctxOf w) = some x → x.terminating.isSome = true → s.terminate (s.ctxOf w) r = s))

/-- R447: TRAP and BKPT whose guard is true in some active lane take a trap with cause SOFTWARE or BREAKPOINT, the immediate in its field, at the lowest such lane, TRAP.PC the next instruction; where no active lane's guard is true, or the guard is the one of words that are skipped, they do nothing. In a regrouped warp the regroup dissolves first and the lane's home warp takes the trap. Every field but the guard and IMM[15:0] is zero. -/
def Obligations.SoftwareTraps : Prop :=
  (∀ (s : State) (c k : Nat) (w : Warp) (f : RI), s.Acting c k w →
    (∀ l, f.g ≠ 0xF → (lanesOf (s.taking c k w f.g)).head? = some l →
      exec (.trap f) s = .next ((s.takeTrap c k { cause := .software, lane := l, imm := (f.imm.extractLsb' 0 16).toNat, after := true }).draw) ∧
      exec (.bkpt f) s = .next ((s.takeTrap c k { cause := .breakpoint, lane := l, imm := (f.imm.extractLsb' 0 16).toNat, after := true }).draw)) ∧
    ((f.g = 0xF ∨ s.taking c k w f.g = 0) → exec (.trap f) s = .next (s.retired c k) ∧ exec (.bkpt f) s = .next (s.retired c k))) ∧
  (∀ (s : State) (c k : Nat) (w : Warp) (x : Ctx) (u : Cause) (l n : Nat), s.warp c k = some w → w.isRegrouped = false → w.st ≠ .trap → w.flights = [] →
    s.ctx (s.ctxOf w) = some x → x.traph ≠ 0 → ∃ v, (s.takeTrap c k { cause := u, lane := l, imm := n, after := true }).warp c k = some v ∧
      v.traps.pc = w.pc + 8 ∧ v.traps.cause.extractLsb' 0 8 = BitVec.ofNat 8 u.code ∧ v.traps.cause.extractLsb' 16 16 = BitVec.ofNat 16 n ∧
      v.traps.cause.extractLsb' 32 5 = BitVec.ofNat 5 l) ∧
  (∀ (s : State) (c k : Nat) (w h : Warp) (t : TrapInfo), s.warp c k = some w → w.isRegrouped = true → h.isRegrouped = false →
    (s.dissolve w.block).warp c (w.homeOf k t.lane) = some h →
    s.takeTrap c k t = ((s.dissolve w.block).setWarp c (w.homeOf k t.lane) (h.faultAt w (w.homeOf k t.lane))).takeTrap c (w.homeOf k t.lane) t) ∧
  (∀ (x : Word64) (f : RI), decodeWarp x = .ok (.trap f) ∨ decodeWarp x = .ok (.bkpt f) → f.dst = 0 ∧ f.sa = 0 ∧ f.us = 0 ∧ f.imm.extractLsb' 16 16 = 0) ∧
  decodeWarp 0x581C0000000000A8 = .ok (.trap { g := 7, dst := 0, sa := 0, imm := 0x2A, us := 0 }) ∧
  Cause.code .software = 0x30 ∧ Cause.code .breakpoint = 0x31

/-- R269, R270, R448: RFT in trap mode, with TRAP.NPC aligned, leaves TRAP for READY with the active mask of TRAP.MASK but for lanes that have exited, and continues at TRAP.NPC: inside the saved clause at CLS where TRAP.NPC is as it was at entry, else at a clause header. Outside trap mode it traps ILLEGAL; with TRAP.NPC not aligned the context ends with reason 2. R268, R271, R277, R279, R290, R449 (GETCTL, SETCTL of a warp): with an active lane taking part in a warp that is not regrouped and a uniform guard, GETCTL writes the control register to its s register at once; SETCTL writes the rounding mode, the seed, the block's watchdog, and in trap mode TRAP.NPC and the two scratch registers; 1 to CTL.TERM ends the context with reason 4; a reserved value, and outside trap mode any trap register, traps ILLEGAL. -/
def Obligations.TrapReturnAndControlRegisters : Prop :=
  (∀ (s : State) (c k : Nat) (w : Warp) (f : BR), s.Acting c k w →
    (w.st = .trap → w.traps.npc.toNat % 8 = 0 → ∃ u, exec (.rft f) s = .next ((s.setWarp c k u).jumped c k) ∧
      u.st = .ready ∧ u.active = (w.traps.mask.extractLsb' 0 32 &&& ~~~ w.exited) ∧ u.pc = w.traps.npc ∧
      (w.traps.npc = w.traps.entryNpc → u.clause = w.traps.clause ∧ u.pos = (w.traps.mask.extractLsb' 32 4).toNat) ∧
      (w.traps.npc ≠ w.traps.entryNpc → u.clause = none ∧ u.pos = 0) ∧
      u.sregs = w.sregs ∧ u.preds = w.preds ∧ u.stack = w.stack ∧ u.traps = w.traps) ∧
    (w.st ≠ .trap → exec (.rft f) s = .next ((s.takeTrap c k { cause := .illegal, lane := lowLane w.active }).draw)) ∧
    (w.st = .trap → w.traps.npc.toNat % 8 ≠ 0 → exec (.rft f) s = .next ((s.terminate (s.ctxOf w) 2).jumped c k))) ∧
  (∀ (s : State) (c k : Nat) (w : Warp) (f : RI), s.Acting c k w → s.Unhindered c k w { g := f.g, sdst := true } → s.taking c k w f.g ≠ 0 →
    let n := (f.imm.extractLsb' 0 12).toNat
    let v := s.readS c k w (lowLane (s.taking c k w f.g)) f.sa.toNat
    let gets := fun (x : Word64) => exec (.getctl f) s = .next ((s.writeNow c k [.sreg f.dst.toNat x]).retired c k)
    let sets := fun (u : Warp) => exec (.setctl f) s = .next ((s.setWarp c k u).retired c k)
    let illegal := exec (.setctl f) s = .next ((s.takeTrap c k { cause := .illegal, lane := lowLane w.active }).draw)
    (n = 0 → gets (BitVec.ofNat 64 w.rm)) ∧ (n = 1 → gets w.seed) ∧ (n = 0x10 → gets w.traps.pc) ∧ (n = 0x11 → gets w.traps.npc) ∧
    (n = 0x12 → gets w.traps.cause) ∧ (n = 0x13 → gets w.traps.mask) ∧ (n = 0x14 → gets w.traps.addr) ∧ (n = 0x15 → gets w.traps.scr0) ∧ (n = 0x16 → gets w.traps.scr1) ∧
    (∀ b, s.block w.block = some b → (n = 2 → gets (BitVec.ofNat 64 b.wdog)) ∧
      (b.hasSeq = true → (n = 0x20 → gets b.fpc) ∧ (n = 0x21 → gets b.finfo) ∧ (n = 0x22 → gets b.faddr)) ∧
      (b.hasSeq = false → n = 0x20 ∨ n = 0x21 ∨ n = 0x22 → gets 0) ∧
      (n = 2 → v.toNat < 32 → exec (.setctl f) s = .next ((s.setBlock w.block { b with wdog := v.toNat }).retired c k))) ∧
    (n = 0 → v.toNat ≤ 4 → sets { w with rm := v.toNat }) ∧ (n = 1 → sets { w with seed := v }) ∧
    (w.st = .trap → (n = 0x11 → sets { w with traps := { w.traps with npc := v } }) ∧ (n = 0x15 → sets { w with traps := { w.traps with scr0 := v } }) ∧
      (n = 0x16 → sets { w with traps := { w.traps with scr1 := v } })) ∧
    (n = 3 → v = 1 → exec (.setctl f) s = .next ((s.terminate (s.ctxOf w) 4).jumped c k)) ∧
    (n = 0 → 4 < v.toNat → illegal) ∧ (n = 2 → 32 ≤ v.toNat → illegal) ∧ (0x10 ≤ n → w.st ≠ .trap → illegal))

/-- R450, R451 (FELRD, CLOCK): with an active lane taking part, CLOCK writes the count of cycles, or device time, a 64th of it; the count is 0 after a reset and grows by one with every cycle of the clock, which stops where R460 stops the clocks; FELRD, once every result of the warp has landed, writes the log's address and its second word, whose fields are the code (0 when the log is empty), the lane, the element and the summary, and with CLR leaves the log empty; with SEQ it reads the log of the block's sequencer, and is ILLEGAL in a block without one. -/
def Obligations.LogAndClock : Prop :=
  (∀ s : State, s.tick.clock = (if s.clocked then s.clock + 1 else s.clock) ∧ ∀ t, exec .reset s = .next t → t.clock = 0) ∧
  ∀ (s : State) (c k : Nat) (w : Warp) (f : RR), s.Acting c k w → s.Unhindered c k w { g := f.g, sdst := true } → s.taking c k w f.g ≠ 0 →
    (f.md.getLsbD 0 = false → exec (.clock f) s = .next ((s.writeNow c k [.sreg f.dst.toNat (BitVec.ofNat 64 s.clock)]).retired c k)) ∧
    (f.md.getLsbD 0 = true → exec (.clock f) s = .next ((s.writeNow c k [.sreg f.dst.toNat (BitVec.ofNat 64 (s.clock / 64))]).retired c k)) ∧
    (f.md.getLsbD 1 = false → w.flights = [] →
      let t := if f.md.getLsbD 0 then s.setWarp c k { w with fel := {} } else s
      exec (.felrd f) s = .next ((t.writeNow c k [.sreg f.dst.toNat w.fel.pc, .sreg (f.dst.toNat + 1) (w.fel.word false)]).retired c k)) ∧
    (∀ b q, f.md.getLsbD 1 = true → w.flights = [] → s.block w.block = some b → b.hasSeq = true → s.seq c = some q →
      let t := if f.md.getLsbD 0 then s.setSeq c { q with fel := {}, felKey := [] } else s
      exec (.felrd f) s = .next ((t.writeNow c k [.sreg f.dst.toNat q.fel.pc, .sreg (f.dst.toNat + 1) (q.fel.word true)]).retired c k)) ∧
    (∀ b, f.md.getLsbD 1 = true → s.block w.block = some b → b.hasSeq = false → exec (.felrd f) s = s.sysTrap c k w .illegal) ∧
    (f.md.getLsbD 1 = false → w.flights ≠ [] → exec (.felrd f) s = s.sysAgain c k w) ∧
    (∀ x : Fel, x.code < 256 → x.lane < 32 → x.elem < 65536 →
      (x.word false).extractLsb' 0 8 = (if x.sum = 0 then 0 else BitVec.ofNat 8 x.code) ∧ (x.word false).extractLsb' 8 5 = BitVec.ofNat 5 x.lane ∧
      (x.word false).extractLsb' 16 16 = BitVec.ofNat 16 x.elem ∧ (x.word false).extractLsb' 32 32 = x.sum)

/-- R57, R97, R104, R105, R122, R429, R430 (FENCE, XFENCE): with a guard true in every active lane, and with none of the accesses they order outstanding (stores posted to a peer before it, at every scope; for XFENCE from CP, copies of the warp), the fence completes: every write that the warp sees is from then on performed at the fence's scope for the paths it names (LS for FENCE), beyond CORE scope the core's L1 keeps no line of the context, and nothing else changes but the warp's place. With such accesses outstanding the warp waits and tries again; with a guard true in no active lane nothing happens; with a guard that differs among them it traps. R277, R278, R427, R428 (BARA, BARW, BAR and the barrier watchdog): an arrival that is not the expected last counts; the last begins the next phase, empties the barrier and releases the warps of the block that wait there with status 0; BARW and BAR wait for the phase after the warp's latest arrival, or retire at once where it has passed; in an abandoned block the status is 1 and nothing counts; a BAR that is issued again after its wait was dropped does not arrive a second time. An arrival is a release at CORE scope: while posted stores it follows are not acknowledged it waits. A watchdog that has run its full period ends the context with reason 1. -/
def Obligations.FencesAndBarriers : Prop :=
  (∀ (s : State) (c k : Nat) (w : Warp) (f : RR), s.Acting c k w → s.Unhindered c k w { g := f.g } →
    let scope := (f.md.extractLsb' 0 3).toNat
    let ends := fun (paths : List Path) => ((s.show (s.warpAgt c k w) scope paths).acquireAt c (s.ctxOf w) scope).retired c k
    (s.taking c k w f.g = w.active → w.active ≠ 0 →
      (s.postedOut c k = false → exec (.fence f) s = .next (ends [.ls])) ∧
      (s.postedOut c k = false → (f.md.getLsbD 4 = false ∨ s.copiesOf c k = false) → exec (.xfence f) s = .next (ends (fencePaths f.ty))) ∧
      (s.postedOut c k = true → exec (.fence f) s = s.heldBack c k w) ∧
      (s.postedOut c k = true → (f.md.getLsbD 4 = false ∨ s.copiesOf c k = false) → exec (.xfence f) s = s.heldBack c k w) ∧
      (f.md.getLsbD 4 = true → s.copiesOf c k = true → exec (.xfence f) s = s.sysAgain c k w)) ∧
    (s.taking c k w f.g = 0 → exec (.fence f) s = .next (s.retired c k) ∧ exec (.xfence f) s = .next (s.retired c k)) ∧
    (s.taking c k w f.g ≠ 0 → s.taking c k w f.g ≠ w.active → exec (.fence f) s = s.sysTrap c k w .nonuniform ∧ exec (.xfence f) s = s.sysTrap c k w .nonuniform) ∧
    (∀ paths, let t := (s.show (s.warpAgt c k w) scope paths).acquireAt c (s.ctxOf w) scope
      (∀ r ∈ s.recent, s.sees r ⟨.ls, 0, c⟩ = true → ∃ q ∈ t.recent, q.num = r.num ∧ q.pa = r.pa ∧ q.old = r.old ∧ ∀ p ∈ paths, (⟨p, scope, c⟩ : Shown) ∈ q.seen) ∧
      (scope ≠ 0 → ∀ a l, (t.core c).l1.find a = some l → l.ctx ≠ s.ctxOf w) ∧ s.sameBytes t ∧ s.sameRest t ∧ t.warps = s.warps) ∧
    (∀ p, p ∈ fencePaths f.ty ↔ (p = .ls ∧ f.ty.getLsbD 0 = true) ∨ (p = .cp ∧ f.ty.getLsbD 1 = true) ∨ (p = .se ∧ f.ty.getLsbD 2 = true) ∨ (p = .co ∧ f.ty.getLsbD 3 = true))) ∧
  ((∀ (s : State) (c k : Nat) (w : Warp) (f : RR) (b : Block), s.SysActing c k w f.g → s.block w.block = some b → w.wait = none → s.warps.find (homeKey c k) = none →
    let n := (f.md.extractLsb' 0 4).toNat
    let d := f.dst.toNat
    let x := b.bar n
    let exp := if x.arr = 0 then f.ty.toNat + 1 else x.exp
    let phase := x.phase
    let counts := fun (u : State) => ∃ y, u.block w.block = some y ∧ y.bar n = { x with arr := x.arr + 1, exp := exp, arrived := x.arrived ||| (1#32 <<< w.idx) } ∧ ∀ m, m ≠ n → y.bar m = b.bar m
    let passes := fun (u : State) => ∃ y, u.block w.block = some y ∧ y.bar n = { phase := phase + 1, arr := 0, exp := exp, arrived := 0 } ∧ (∀ m, m ≠ n → y.bar m = b.bar m) ∧
      ∀ j v p r, s.warp c j = some v → (c, j) ≠ (c, k) → j < 48 → k < 48 → v.block = w.block → v.wait = some (.barrier n p r) →
        ∃ z, u.warp c j = some z ∧ z.wait = none ∧ z.sreg r = 0 ∧ z.pc = v.pc + 8
    let fresh := ∀ e ∈ w.barHeld, e.1 ≠ w.pc
    let dropped : Warp := { w with barHeld := w.barHeld.filter fun e => e.1 != w.pc }
    (s.postedOut c k = true → exec (.bara f) s = s.heldBack c k w ∧ (fresh → exec (.bar f) s = s.heldBack c k w)) ∧
    (s.postedOut c k = false → b.abandoned = false → x.arr + 1 ≠ exp →
      (∃ u v, exec (.bara f) s = .next u ∧ counts u ∧ u.warp c k = some v ∧ v.lastPh.find n = some phase ∧ v.pc = w.pc + 8 ∧ s.sameBytes u) ∧
      (fresh → ∃ u v, exec (.bar f) s = .next u ∧ counts u ∧ u.warp c k = some v ∧ v.wait = some (.barrier n phase d) ∧ v.pc = w.pc ∧ s.sameBytes u)) ∧
    (s.postedOut c k = false → b.abandoned = false → x.arr + 1 = exp →
      (∃ u v, exec (.bara f) s = .next u ∧ passes u ∧ u.warp c k = some v ∧ v.lastPh.find n = some phase ∧ v.pc = w.pc + 8 ∧ s.sameBytes u) ∧
      (fresh → ∃ u v, exec (.bar f) s = .next u ∧ passes u ∧ u.warp c k = some v ∧ v.wait = none ∧ v.sreg d = 0 ∧ v.pc = w.pc + 8 ∧ s.sameBytes u)) ∧
    (b.abandoned = false → ∀ p, (w.lastPh.find n).getD phase = p →
      (p < phase → exec (.barw f) s = (s.setWarp c k dropped).ctlDone c k [(d, 0)] ∧ (¬ fresh → exec (.bar f) s = (s.setWarp c k dropped).ctlDone c k [(d, 0)])) ∧
      (phase ≤ p → exec (.barw f) s = .next ((s.setWarp c k (w.sleep (.barrier n p d))).draw) ∧
        (¬ fresh → exec (.bar f) s = .next ((s.setWarp c k (({ dropped with barHeld := (w.pc, n) :: dropped.barHeld } : Warp).sleep (.barrier n p d))).draw)))) ∧
    (b.abandoned = true → (s.postedOut c k = false → exec (.bara f) s = .next ((s.coreReleased c k w).retired c k)) ∧
      exec (.barw f) s = (s.setWarp c k dropped).ctlDone c k [(d, 1)] ∧
      (s.postedOut c k = false → fresh → exec (.bar f) s = ((s.coreReleased c k w).setWarp c k dropped).ctlDone c k [(d, 1)]) ∧
      (¬ fresh → exec (.bar f) s = (s.setWarp c k dropped).ctlDone c k [(d, 1)]))) ∧
  (∀ (s : State) (b : Block) (x : Ctx) (t : Nat), s.clocked = true → s.block s.arg.id = some b → s.ctx b.ctx = some x → x.terminating = none →
    b.st = .resident → b.wdog / 16 % 2 = 1 → b.wdogStart = some t → t + 65536 * 2 ^ b.wdogPeriod ≤ s.clock →
    ∃ u y, exec .barrierWatchdogExpiry s = .next u ∧ u.ctx b.ctx = some y ∧ y.terminating = some ⟨1, s.clock⟩))

/-- R364, R365, R366, R369 (LD, LDC, PREF, CCTL): with the operands at hand and every access reaching bytes of this package, LD puts in flight, for each lane that takes part, the bytes at its address into the DATA group, lowest register least significant, LDC the bytes at the lowest such lane's address into s registers, PREF changes nothing but the place in the program, and CCTL drops the line of each lane's address, or with a DATA of 1 every line of the context, from the core's L1. No byte of memory changes. A plain LD of a warp that is not regrouped may yet be performed until it lands (R128, log entry 5). -/
def Obligations.WarpLoads : Prop :=
  ∀ (s : State) (c k : Nat) (w : Warp) (f : MEM), s.Acting c k w →
    let n := MEM.bytes f
    let rs := dataGroup f.data.toNat n
    let lanes := lanesOf (s.taking c k w f.g)
    let l0 := lowLane (s.taking c k w f.g)
    let plain := !(MEM.wideAcquire f)
    let calm := fun (t : State) => s.sameData t ∧ s.sameRest t ∧ t.warps = s.warps ∧ ∀ e, (t.core e).tiles = (s.core e).tiles
    (∀ st : Nat → Store, s.taking c k w f.g ≠ 0 → s.Unhindered c k w { g := f.g, srcs := (baseSrc f.base).toList, dsts := rs } → s.Reaches c k w f .read false st →
      ∃ t u : State, exec (.ld f) s = .next (u.retired c k) ∧ calm t ∧
        let lands := t.writeLater c k f.sbd.toNat (lanes.flatMap fun l => s.groupWrites c k w l rs (s.bytesWithPoison (s.laneAgt c k w l) plain (st l) n))
        (MEM.ordered f = true ∨ w.isRegrouped = true → u = lands) ∧
        (MEM.ordered f = false → w.isRegrouped = false → u = lands.noteLate c k n rs (lanes.map fun l => (s.laneAcc c k w f .read false n l, st l)))) ∧
    (∀ st b, s.taking c k w f.g ≠ 0 → w.pxRes = [] → s.Unhindered c k w { g := f.g, srcs := (baseSrc f.base).toList, sdst := true } →
      s.meet (s.laneAgt c k w l0) .read f.sp.toNat (MEM.ordered f) (s.laneAddr c k w f false l0) n = .ok st → st.peers = [] → s.storeBusy st = false →
      s.loadBytes (s.laneAgt c k w l0) plain st n = (b, none) →
      ∃ t : State, exec (.ldc f) s = .next ((t.writeLater c k f.sbd.toNat (ldcWrites f b)).retired c k) ∧ calm t) ∧
    (s.Unhindered c k w { g := f.g, srcs := (baseSrc f.base).toList } →
      exec (.pref f) s = .next (s.retired c k) ∧
      (s.taking c k w f.g ≠ 0 → f.data = 1 → exec (.cctl f) s = .next ((s.l1Drop c (s.ctxOf w)).retired c k)) ∧
      (∀ st : Nat → Store, f.data ≠ 1 → (∀ l ∈ lanes, s.meet (s.laneAgt c k w l) .read f.sp.toNat (MEM.ordered f) (s.laneAddr c k w f false l) 1 = .ok (st l)) →
        ∃ t : State, exec (.cctl f) s = .next (t.retired c k) ∧ s.sameBytes t ∧ calm t ∧
          (∀ l ∈ lanes, ∀ p, st l = .mem [p] → (t.core c).l1.find (if p.isPeer then podLine (ptePkg p.pte) p.pa else p.pa / 128) = none) ∧
          ∀ e, e ≠ c → t.core e = s.core e))

/-- R57, R89, R164, R364, R367 (ST): with the operands at hand and every access reaching bytes of this package, each lane that takes part writes its DATA group at its address, base plus offset; where the places of lanes meet, the highest lane's bytes stand. A lane's store whose read-modify-write of a sector meets INTEGRITY is not performed. Every byte outside the places the lanes store to, in memory, in scratch and in shared storage, reads as before, and so do all registers; the warp moves on. -/
def Obligations.WarpStores : Prop :=
  ∀ (s : State) (c k : Nat) (w : Warp) (f : MEM) (st : Nat → Store), s.Acting c k w → s.memWf → s.wholeLines →
    let n := MEM.bytes f
    let rs := dataGroup f.data.toNat n
    let lanes := lanesOf (s.taking c k w f.g)
    let lost := fun (p : Piece) => s.writeLost (pteKey p.pte) (s.migTarget p.pa) p.len
    s.Unhindered c k w { g := f.g, srcs := (baseSrc f.base).toList ++ groupSrcs rs } → s.Reaches c k w f .write false st →
    ∃ t : State, exec (.st f) s = .next t ∧
      t.warps = ((s.fixMeeting c k n (lanes.map fun l => (s.laneAcc c k w f .write false n l, st l))).retired c k).warps ∧
      s.sameRest t ∧ (∀ e, (t.core e).tiles = (s.core e).tiles) ∧
      (∀ a, (∀ l ∈ lanes, ¬ s.inStore (st l) a) → t.physByte a = s.physByte a) ∧
      (∀ o, (∀ l ∈ lanes, (∀ d b, st l = .scratch d b → o < d * 2 ^ 26 + b ∨ d * 2 ^ 26 + b + n ≤ o) ∧
          ∀ b m b1, st l = .edge b m b1 → (o < b ∨ b + m ≤ o) ∧ (o < 2 ^ 26 + b1 ∨ 2 ^ 26 + b1 + (n - m) ≤ o)) → byteOf t.scratch o = byteOf s.scratch o) ∧
      (∀ e o, (∀ l ∈ lanes, ∀ b, st l = .shared e b → o < b ∨ b + n ≤ o) → byteOf (t.core e).shared o = byteOf (s.core e).shared o) ∧
      (∀ l ∈ lanes, ∀ p, st l = .mem [p] → p.len = n → (∀ m ∈ lanes, l < m → ∀ a, s.inStore (st m) a → ¬ s.inStore (st l) a) →
        (∀ m ∈ lanes, ∀ ps, st m = .mem ps → ∀ q ∈ ps, pteKey q.pte = pteKey p.pte ∧ lost q = []) →
        ∀ i < n, t.physByte (s.migTarget p.pa + i) = (leBytes n (s.groupVal c k w l rs)).getD i 0) ∧
      (∀ l p, lanes = [l] → st l = .mem [p] → p.len = n → lost p ≠ [] →
        (∀ a, t.physByte a = s.physByte a) ∧ t.tagFails = (s.noteTags (pteKey p.pte) (lost p) true).tagFails)

/-- R90, R154, R368 (RED, ATOM, ATOMC): with the operands at hand and every access reaching bytes of this package, each completes where its atomic unit is on the warp's die: a single lane's word, not poisoned, becomes what the operation makes of its old value and the lane's DATA group (for ATOMC the group, where the old value is the compare group's), and ATOM and ATOMC put the old value in flight to the group. Every byte outside the places of the lanes reads as before; RED changes no register. Where a single lane's unit is on the other die, an ATM with the operands goes there: RED moves on, ATOM and ATOMC wait for the answer. -/
def Obligations.WarpAtomics : Prop :=
  ∀ (s : State) (c k : Nat) (w : Warp) (f : MEM) (st : Nat → Store), s.Acting c k w → s.memWf → s.wholeLines → s.taking c k w f.g ≠ 0 →
    let n := MEM.bytes f
    let rs := dataGroup f.data.toNat n
    let cs := dataGroup (f.data.toNat + n / 4) n
    let lanes := lanesOf (s.taking c k w f.g)
    let op := (f.off.extractLsb' 16 4).toNat
    let old := fun (p : Piece) => (List.range n).map fun i => s.underKey (pteKey p.pte) (s.migTarget p.pa + i) (s.physByte (s.migTarget p.pa + i))
    s.Reaches c k w f .atomic true st →
    let near := ∀ l ∈ lanes, s.crosses (s.laneAgt c k w l) (st l) = false
    let outside := fun (t : State) => s.sameRest t ∧ (∀ a, (∀ l ∈ lanes, ¬ s.inStore (st l) a) → t.physByte a = s.physByte a)
    let one := fun (l : Nat) (p : Piece) => lanes = [l] ∧ st l = .mem [p] ∧ p.len = n ∧ ∀ i < n, s.poisonFor (s.laneAgt c k w l) false (pteKey p.pte) (s.migTarget p.pa + i) 1 = none
    let becomes := fun (t : State) (p : Piece) (v : Nat) => ∀ i < n, t.physByte (s.migTarget p.pa + i) = (leBytes n v).getD i 0
    let result := fun (l : Nat) (p : Piece) => s.groupWrites c k w l rs ((old p).map fun b => (b, none))
    let told := fun (t : State) (l : Nat) (cmp : Option Nat) (posted : Bool) =>
      t.wire = s.wire ++ [(.atm, { plainMsg (1 - dieOf c) 0 (BitVec.ofNat 16 s.ids) with
        paddr := BitVec.ofNat 64 (s.msgAddr (st l)), opa := BitVec.ofNat 128 (s.groupVal c k w l rs), opb := BitVec.ofNat 128 (cmp.getD 0),
        opx := (AtomOp.mk op (s.groupVal c k w l rs) cmp f.ord.toNat f.scope.toNat).opx n posted })] ∧ ∀ a, t.physByte a = s.physByte a
    let waits := fun (t : State) => ∃ v, t.warp c k = some v ∧ v.wait = some .peer ∧ v.pc = w.pc ∧ v.pos = w.pos ∧ v.sregs = w.sregs
    (s.Unhindered c k w { g := f.g, srcs := (baseSrc f.base).toList ++ groupSrcs rs } →
      (near → ∃ t : State, exec (.red f) s = .next t ∧ outside t ∧ t.warps = (s.retired c k).warps ∧
        ∀ l p, one l p → becomes t p (atomOp op n (leNat (old p)) (s.groupVal c k w l rs))) ∧
      (∀ l, lanes = [l] → s.crosses (s.laneAgt c k w l) (st l) = true →
        ∃ t : State, exec (.red f) s = .next t ∧ told t l none true ∧ s.sameRest t ∧ t.warps = (s.retired c k).warps)) ∧
    (s.Unhindered c k w { g := f.g, srcs := (baseSrc f.base).toList ++ groupSrcs rs, dsts := rs } →
      (near → ∃ t ws, exec (.atom f) s = .next t ∧ outside t ∧ t.warps = ((s.writeLater c k f.sbd.toNat ws).retired c k).warps ∧
        ∀ l p, one l p → becomes t p (atomOp op n (leNat (old p)) (s.groupVal c k w l rs)) ∧ ws = result l p) ∧
      (∀ l, lanes = [l] → s.crosses (s.laneAgt c k w l) (st l) = true →
        ∃ t : State, exec (.atom f) s = .next t ∧ told t l none false ∧ s.sameRest t ∧ waits t)) ∧
    (s.Unhindered c k w { g := f.g, srcs := (baseSrc f.base).toList ++ groupSrcs (rs ++ cs), dsts := rs } →
      (near → ∃ t ws, exec (.atomc f) s = .next t ∧ outside t ∧ t.warps = ((s.writeLater c k f.sbd.toNat ws).retired c k).warps ∧
        ∀ l p, one l p → ws = result l p ∧
          (leNat (old p) = s.groupVal c k w l cs → becomes t p (s.groupVal c k w l rs)) ∧
          (leNat (old p) ≠ s.groupVal c k w l cs → ∀ a, t.physByte a = s.physByte a)) ∧
      (∀ l, lanes = [l] → s.crosses (s.laneAgt c k w l) (st l) = true →
        ∃ t : State, exec (.atomc f) s = .next t ∧ told t l (some (s.groupVal c k w l cs)) false ∧ s.sameRest t ∧ waits t))

/-- R44, R48, R49, R50, R52, R110, R155, R185, R371, R419-R423 (GIVE, GIVE.SEQ, TAKE, TAKE.ANY, TOWN, TFREE, TGRAB, and the device steps that complete a waiting TAKE, land a result (poisoned where an error is reported in an atomic's result) and put an SGIVE into effect). -/
def Obligations.TileExchange : Prop :=
  (∀ (s : State) (c k : Nat) (w : Warp) (f : RR) (b : Block), s.SysActing c k w f.g → s.block w.block = some b →
    let e := RR.entry f
    let d := f.dst.toNat
    let x := fun (t : Nat) => s.tile c t
    -- the tile t becomes y, the map entry becomes n; nothing else but the warp's place changes
    let only := fun (u : State) (t n : Nat) (y : Tile) => u.tile c t = y ∧ (∀ a i, (a, i) ≠ (c, t) → u.tile a i = s.tile a i) ∧ s.sameBytes u ∧ s.sameRest u ∧
      ∃ v, u.warp c k = some v ∧ v.tmap = w.tmap.set e n ∧ v.sregs = w.sregs ∧ v.preds = w.preds ∧ v.active = w.active
    -- GIVE and GIVE.SEQ, releases at CORE scope: the tile is GIVEN to the receiver, with the count of results in flight to it; TFREE: it is FREE
    (∀ t, w.entry e = t → t ≠ 0xFF → (x t).ownedBy b.ctx k = true →
      (s.postedOut c k = false → ∀ h, b.slots[f.ty.toNat]? = some h → ∃ u, exec (.give f) s = .next u ∧ only u t 0xFF { x t with st := .given, hold := h, pend := w.inFlightTo t, readyAt := s.clock + 1 }) ∧
      (b.slots[f.ty.toNat]? = none → exec (.give f) s = s.sysTrap c k w .giveTarget) ∧
      (s.postedOut c k = true → (∀ h, b.slots[f.ty.toNat]? = some h → exec (.give f) s = s.heldBack c k w) ∧ (b.hasSeq = true → exec (.giveSeq f) s = s.heldBack c k w)) ∧
      (s.postedOut c k = false → b.hasSeq = true → ∃ u, exec (.giveSeq f) s = .next u ∧ only u t 0xFF { x t with st := .given, hold := 48, pend := w.inFlightTo t, readyAt := s.clock + 1 }) ∧
      (b.hasSeq = false → exec (.giveSeq f) s = s.sysTrap c k w .giveTarget) ∧
      (w.inFlightTo t = 0 → ∃ u, exec (.tfree f) s = .next u ∧ only u t 0xFF
        { x t with st := .free, hold := 63, pend := 0, giving := none, kept := false, lastCtx := some b.ctx })) ∧
    (w.entry e = 0xFF → exec (.give f) s = s.sysTrap c k w .regRange ∧ exec (.giveSeq f) s = s.sysTrap c k w .regRange ∧ exec (.tfree f) s = s.sysTrap c k w .regRange) ∧
    -- TAKE: a tile given to the warp with no write outstanding becomes its own, else the warp waits; an abandoned block gets status 1
    (w.entry e = 0xFF → b.abandoned = false → ∀ t, s.sysArg c k w f.g f.sa = BitVec.ofNat 64 t → t < 128 → (x t).st ≠ .free → (x t).ctx = b.ctx →
      ((x t).takeable b.ctx k s.clock = true → ∃ t1 : State, exec (.take f) s = t1.sysDone c k f [(d, BitVec.ofNat 64 (t * 256))] ∧ t1.tile c t = { x t with st := .owned } ∧
        (∀ a i, (a, i) ≠ (c, t) → t1.tile a i = s.tile a i) ∧ s.sameBytes t1 ∧ s.sameRest t1 ∧ t1.warp c k = some { w with tmap := w.tmap.set e t }) ∧
      ((x t).takeable b.ctx k s.clock = false → exec (.take f) s = .next ((s.setWarp c k (w.sleep (.take (some t) e d f.sbd.toNat))).draw))) ∧
    (w.entry e = 0xFF → b.abandoned = false → ∀ t, s.givenTo c b.ctx k = some t → (x t).takeable b.ctx k s.clock = true →
      ∃ t1 : State, exec (.takeAny f) s = t1.sysDone c k f [(d, BitVec.ofNat 64 (t * 256))] ∧ t1.tile c t = { x t with st := .owned } ∧
        (∀ a i, (a, i) ≠ (c, t) → t1.tile a i = s.tile a i) ∧ t1.warp c k = some { w with tmap := w.tmap.set e t }) ∧
    (w.entry e = 0xFF → b.abandoned = false → s.givenTo c b.ctx k = none → exec (.takeAny f) s = .next ((s.setWarp c k (w.sleep (.take none e d f.sbd.toNat))).draw)) ∧
    (w.entry e = 0xFF → b.abandoned = false → ∀ t, s.givenTo c b.ctx k = some t → (x t).takeable b.ctx k s.clock = false → exec (.takeAny f) s = .next ((s.setWarp c k (w.sleep (.take none e d f.sbd.toNat))).draw)) ∧
    (w.entry e = 0xFF → b.abandoned = true → exec (.takeAny f) s = s.sysDone c k f [(d, 1)] ∧ ((s.sysArg c k w f.g f.sa).toNat < 128 → exec (.take f) s = s.sysDone c k f [(d, 1)])) ∧
    -- TOWN reads an owner field of the context's own, or that of a FREE tile
    (∀ t, s.sysArg c k w f.g f.sa = BitVec.ofNat 64 t → t < 128 →
      exec (.town f) s = s.sysDone c k f [(d, BitVec.ofNat 64 (if (x t).st = .free ∨ (x t).ctx ≠ b.ctx then 0x3F0 else (x t).ctx * 1024 + (x t).hold * 16 + (x t).st.code))]) ∧
    -- TGRAB takes the first free tile of a bank that is on, waits for one that is gated, or gives status 6
    (w.entry e = 0xFF → s.freeTiles c = [] → exec (.tgrab f) s = s.sysDone c k f [(d, 6)]) ∧
    (w.entry e = 0xFF → ∀ t r, s.freeTiles c = t :: r → (s.bank c (t / 8)).st = .on →
      ∃ t1 : State, exec (.tgrab f) s = t1.sysDone c k f [(d, BitVec.ofNat 64 (t * 256))] ∧ (∀ a i, (a, i) ≠ (c, t) → t1.tile a i = s.tile a i) ∧
        t1.warp c k = some { w with tmap := w.tmap.set e t } ∧
        t1.tile c t = { x t with ctx := b.ctx, hold := k, st := .owned, pend := 0, giving := none, gated := false, elems := if (x t).gated ∨ (x t).lastCtx ≠ some b.ctx then [] else (x t).elems }) ∧
    (w.entry e = 0xFF → ∀ t r, s.freeTiles c = t :: r → (s.bank c (t / 8)).st = .gated → (s.bank c (t / 8)).backAt = none →
      exec (.tgrab f) s = (s.setBank c (t / 8) { s.bank c (t / 8) with backAt := some (s.clock + 64) }).sysAgain c k w) ∧
    (w.entry e ≠ 0xFF → exec (.take f) s = s.sysTrap c k w .illegal ∧ exec (.takeAny f) s = s.sysTrap c k w .illegal ∧ exec (.tgrab f) s = s.sysTrap c k w .illegal)) ∧
  -- the device steps
  (∀ s : State, s.clocked = true → ∀ c, s.arg.core = c →
    (∀ k w tl e d sbd t, s.arg.slot = k → s.warp c k = some w → w.st ≠ .suspended → w.wait = some (.take tl e d sbd) → s.takeNow c (s.ctxOf w) k tl = some t →
      ∃ u v, exec .takeCompletion s = .next u ∧ u.tile c t = { s.tile c t with st := .owned } ∧ u.warp c k = some v ∧ v.tmap = w.tmap.set e t ∧ v.wait = none ∧
        v.pc = w.pc + 8 ∧ (∃ id due, v.flights = w.flights ++ [⟨id, sbd, due, [.sreg d (BitVec.ofNat 64 (t * 256))]⟩]) ∧ s.sameBytes u) ∧
    (∀ k w (fl : Flight), s.arg.slot = k → s.warp c k = some w → s.warps.find (homeKey c k) = none → (w.flights.find? fun y => y.id == s.arg.id && decide (y.due ≤ s.clock)) = some fl →
      ∃ u v, exec .warpResultLands s = .next u ∧ u.warp c k = some v ∧ v.flights = (w.flights.filter fun y => y.id != s.arg.id) ∧
        ((∀ z ∈ w.late, z.flight ≠ fl.id) → ∀ t i y, s.arg.ecc0 ≠ {} → fl.writes = [.elem t i y] → (u.tile c t).elems.getD i {} = { y with poison := some (s.arg.addr / 64 * 64) }) ∧
        ((∀ z ∈ w.late, z.flight ≠ fl.id) → s.arg.ecc0 = {} → s.sameBytes u ∧ s.sameRest u ∧
        (∀ n y, fl.writes = [.sreg n y] → v.sreg n = y ∧ ∀ m, m ≠ n → v.sreg m = w.sreg m) ∧
        (∀ t i y, fl.writes = [.elem t i y] → (u.tile c t).elems.getD i {} = y ∧ (u.tile c t).st = (s.tile c t).st ∧
          ((s.tile c t).st = .given → 0 < (s.tile c t).pend → (u.tile c t).pend = (s.tile c t).pend - 1)))) ∧
    (∀ t h n, s.arg.id = t → (s.tile c t).giving = some (h, n) → s.sgiveReady c n = true →
      ∃ u, exec .tileBecomesGiven s = .next u ∧ u.tile c t = { s.tile c t with st := .given, hold := h, giving := none, readyAt := s.clock + 1 } ∧
        (∀ a i, (a, i) ≠ (c, t) → u.tile a i = s.tile a i) ∧ s.sameBytes u))

/-- R63, R64, R65, R66, R67, R371, R424, R425, R426 (CPY, CPYL, CPYL.ST, CWANY, CWALL, CFIND, and the completion of a copy): a copy whose operands pass the checks joins the core's copies under its tag, which counts one more and is no longer ready; the tile of a load fills; a wait for tags answers which of its tags are ready, or tries again while none is and one has copies in flight. A copy that completes moves its bytes, leaves the core's copies, and its tag is ready when it was the last; one whose bytes have left for a peer does so once the peer has acknowledged them. -/
def Obligations.CopiesAndTags : Prop :=
  (∀ (s : State) (c k : Nat) (w : Warp) (f : RR) (b : Block), s.SysActing c k w f.g → s.block w.block = some b →
    let tag := (f.md.extractLsb' 0 6).toNat
    let n := b.tagBase + tag
    let A := s.sysArg c k w f.g f.sa
    let B := s.sysArg c k w f.g f.sb
    let len := (s.sysArg c k w f.g f.sc).toNat
    let xp := (f.ty.extractLsb' 0 2).toNat
    let g := s.copyIssueAgt c k w
    let joins := fun (u : State) (work : CopyWork) => (∃ id due, s.clock < due ∧ (u.core c).copies = (s.core c).copies ++ [⟨id, w.block, b.ctx, k, n, due, work, false⟩]) ∧
      u.tag c n = { count := (s.tag c n).count + 1, ready := false } ∧ (∀ m, m ≠ n → u.tag c m = s.tag c m) ∧ s.sameBytes u ∧ s.sameRest u
    (w.active = w.live → tag < b.tagCount → (s.tag c n).count < 255 → (s.core c).copies.length < 256 →
      (len ≤ 2 ^ 24 → worstRange (s.regions g) [⟨B, len, .read⟩, ⟨A, len, .write⟩] = none → s.firstPages c k g [⟨B, len, .read⟩, ⟨A, len, .write⟩] = .ok () →
        ∃ u, exec (.cpy f) s = .next u ∧ joins u (.bytes B A len) ∧ ∀ t, u.tile c t = s.tile c t) ∧
      (∀ t, s.entryTile c k w f.dst.toNat = .ok t → s.wakeBanks c [t] = none →
        (s.tileRange c k w tag xp A B .read = .ok () → ∃ u, exec (.cpyl f) s = .next u ∧ joins u (.load t xp A B) ∧ u.tile c t = { s.tile c t with st := .filling, hold := 49 }) ∧
        (s.tileRange c k w tag xp A B .write = .ok () → ∃ u es, exec (.cpylSt f) s = .next u ∧ joins u (.store t es A B) ∧ u.tile c t = s.tile c t ∧
          ∀ i < 1024, es.find i = some (s.readElem c w t i)))) ∧
    (w.active = w.live → len ≤ 2 ^ 24 → b.tagCount ≤ tag → exec (.cpy f) s = s.sysTrap c k w .tagRange) ∧
    (w.active ≠ w.live → exec (.cpy f) s = s.sysTrap c k w .memberMask ∧ exec (.cpyl f) s = s.sysTrap c k w .memberMask ∧ exec (.cpylSt f) s = s.sysTrap c k w .memberMask) ∧
    ((∀ i, A.getLsbD i = true → i < b.tagCount) →
      let r := s.readyMap c w &&& A
      ((r ≠ 0 ∨ s.tagsIdle c w A = true) → exec (.cwany f) s = s.sysDone c k f [(f.dst.toNat, r)]) ∧
      (r = 0 → s.tagsIdle c w A = false → exec (.cwany f) s = s.sysAgain c k w) ∧
      (s.tagsIdle c w A = true → exec (.cwall f) s = .next (s.retired c k)) ∧
      (s.tagsIdle c w A = false → exec (.cwall f) s = s.sysAgain c k w) ∧
      (r = 0 → exec (.cfind f) s = s.sysDone c k f [(f.dst.toNat, 64)]) ∧
      (∀ i, r.getLsbD i = true → (∀ j < i, r.getLsbD j = false) → exec (.cfind f) s = s.sysDone c k f [(f.dst.toNat, BitVec.ofNat 64 i)])) ∧
    (∀ i < 64, i < b.tagCount → (s.readyMap c w).getLsbD i = (s.tag c (b.tagBase + i)).ready) ∧
    (∀ i, A.getLsbD i = true → b.tagCount ≤ i → exec (.cwany f) s = s.sysTrap c k w .tagRange ∧ exec (.cwall f) s = s.sysTrap c k w .tagRange ∧ exec (.cfind f) s = s.sysTrap c k w .tagRange)) ∧
  (∀ (s : State) (c : Nat) (x : Copy), s.clocked = true → s.arg.core = c → s.memWf → s.wholeLines →
    ((s.readyCopies c).find? fun y => y.id == s.arg.id) = some x →
    let g := x.agt c
    ∀ ss ds bs, s.reachAll g .read x.work.parts.1 = .ok ss → s.reachAll g .write x.work.parts.2 = .ok ds → s.pull g x.id true ss = .bytes bs →
      (∀ y ∈ ds, s.severed g y.2 = false ∧ y.2.peers = []) → x.sent = false → s.workOut x.id = false →
      ∃ u, exec .copyCompletion s = .next u ∧ (u.core c).copies = ((s.core c).copies.filter fun y => y.id != x.id) ∧
        u.tag c x.tag = { count := (s.tag c x.tag).count - 1, ready := (s.tag c x.tag).ready || (s.tag c x.tag).count == 1 } ∧
        (∀ t xp base stride, x.work = .load t xp base stride → (s.tile c t).st = .filling → (s.tile c t).hold = 49 →
          u.tile c t = { s.tile c t with elems := tileFromBytes xp bs, st := .owned, hold := x.slot }) ∧
        (∀ src dst n p q, x.work = .bytes src dst n → ds = [(p, .mem [q])] → q.len = n → bs.length = n → s.writeLost (pteKey q.pte) (s.migTarget q.pa) n = [] →
          (src.toNat + n ≤ dst.toNat ∨ dst.toNat + n ≤ src.toNat) → ∀ i < n, u.physByte (s.migTarget q.pa + i) = (bs.getD i (0, none)).1)) ∧
  (∀ (s : State) (c : Nat) (x : Copy), s.clocked = true → s.arg.core = c → ((s.readyCopies c).find? fun y => y.id == s.arg.id) = some x → x.sent = true →
    ∃ u, exec .copyCompletion s = .next u ∧ (u.core c).copies = ((s.core c).copies.filter fun y => y.id != x.id) ∧
      u.tag c x.tag = { count := (s.tag c x.tag).count - 1, ready := (s.tag c x.tag).ready || (s.tag c x.tag).count == 1 } ∧ s.sameBytes u)

/-- R208, R209, R417, R445, R452, R453 (WAITEV, POSTEV, QPUSH, and the device steps behind them): WAITEV whose word differs from the compared value returns status 0 and the word, else the warp waits with its timeout counted in 64 cycles; a POSTEV asks every warp of the context that waits on the line to read again; a waiting WAITEV returns 0 when its word differs, 0x12 when a POSTEV asked, 0x13 when its timeout has passed. QPUSH claims the queue's next position with its record, or gives 8 when the ring is full and 9 when the queue is not the context's or is disabled; the record at the tail, once written, moves the tail on. -/
def Obligations.EventsAndPushes : Prop :=
  (∀ (s : State) (c k : Nat) (w : Warp) (f : RR) (b : Block), s.SysActing c k w f.g → s.block w.block = some b → s.warps.find (homeKey c k) = none → k < 48 →
    let d := f.dst.toNat
    let l := lowLane (s.taking c k w f.g)
    let A := s.sysArg c k w f.g f.sa
    let B := s.sysArg c k w f.g f.sb
    let T := (s.sysArg c k w f.g f.sc).toNat
    let scope := (f.md.extractLsb' 0 3).toNat
    (∀ st s0 bs, s.eventAt c k w l A = .ok st → s.warpPull c k w (decide (scope = 0)) (s.laneAgt c k w l) A 8 st = .ok (s0, bs) →
      let v := wordOf bs
      (v ≠ B → ∃ u x, exec (.waitev f) s = .next u ∧ u.warp c k = some x ∧ x.sreg d = 0 ∧ x.sreg (d + 1) = v ∧ x.pc = w.pc + 8 ∧ s.sameData u) ∧
      (v = B → ∃ u x, exec (.waitev f) s = .next u ∧ u.warp c k = some x ∧ x.pc = w.pc ∧ s.sameData u ∧
        x.wait = some (.event A.toNat st B d scope (if T = 0 then none else some (s.clock + 64 * T)) (if farWord st = true then some (s.clock + 4096) else none) false))) ∧
    (∀ st, s.eventAt c k w l A = .ok st → ∃ u, exec (.postev f) s = .next u ∧ s.sameBytes u ∧ s.sameRest u ∧
      ∀ e j v, j < 48 → (e, j) ≠ (c, k) → s.warp e j = some v →
        (∀ va p y dst sc dl poll po, v.wait = some (.event va p y dst sc dl poll po) → s.ctxOf v = b.ctx → lineOf p = lineOf st →
          u.warp e j = some { v with wait := some (.event va p y dst sc dl poll true) }) ∧
        ((∀ va p y dst sc dl poll po, v.wait = some (.event va p y dst sc dl poll po) → s.ctxOf v ≠ b.ctx ∨ lineOf p ≠ lineOf st) → u.warp e j = some v)) ∧
    (let q := B.toNat
     let x := s.queues.getD q {}
     ((4096 ≤ q ∨ x.ctx ≠ b.ctx ∨ x.st = .disabled) → exec (.qpush f) s = s.sysDone c k f [(d, 9)]) ∧
     (q < 4096 → x.ctx = b.ctx → x.st ≠ .disabled → x.ringsize ≤ x.reserve - x.head → exec (.qpush f) s = s.sysDone c k f [(d, 8)]) ∧
     (q < 4096 → x.ctx = b.ctx → x.st ≠ .disabled → x.reserve - x.head < x.ringsize → s.postedOut c k = true → exec (.qpush f) s = s.heldBack c k w) ∧
     (q < 4096 → x.ctx = b.ctx → x.st ≠ .disabled → x.reserve - x.head < x.ringsize → s.postedOut c k = false →
       ∃ t : State, exec (.qpush f) s = t.sysDone c k f [(d, 0)] ∧ t.queues.find q = some { x with reserve := x.reserve + 1 } ∧ (∀ p, p ≠ q → t.queues.find p = s.queues.find p) ∧
         s.sameBytes t ∧ t.warps = s.warps ∧ t.qpushes = s.qpushes ++ [⟨q, x.reserve, b.ctx,
           leBytes 8 (s.readS c k w l f.sa.toNat).toNat ++ leBytes 8 (s.readS c k w l (f.sa.toNat + 1)).toNat ++ leBytes 8 (s.readS c k w l (f.sa.toNat + 2)).toNat ++
           leBytes 8 (s.readS c k w l (f.sa.toNat + 3)).toNat ++ List.replicate 32 0, false⟩]))) ∧
  (∀ (s : State) (c k : Nat) (w : Warp) (va : Nat) (st : Store) (y : Word64) (d sc : Nat) (dl poll : Option Nat) (po : Bool), s.clocked = true →
    s.arg.core = c → s.arg.slot = k → s.warp c k = some w → s.warps.find (homeKey c k) = none → w.isRegrouped = false → w.st ≠ .suspended →
    w.wait = some (.event va st y d sc dl poll po) →
    let returns := fun (i : Instr) (code : Nat) (v : Word64) => ∃ u x, exec i s = .next u ∧ u.warp c k = some x ∧ x.wait = none ∧ x.sreg d = BitVec.ofNat 64 code ∧ x.sreg (d + 1) = v ∧
      x.pc = w.pc + 8 ∧ s.sameData u
    (∀ t, dl = some t → t ≤ s.clock → returns .waitevTimeout 0x13 y) ∧
    (∀ here bs, s.eventStirs c k w = true → s.check (s.eventAgt c k w) .read 0 (BitVec.ofNat 64 va) 8 = .ok here →
      s.pull (s.eventAgt c k w) (warpWork c k) false [(⟨0, BitVec.ofNat 64 va, 8⟩, here)] = .bytes bs →
      bs.findSome? Prod.snd = none →
      (wordOf (bs.map Prod.fst) ≠ y → returns .waitevPoll 0 (wordOf (bs.map Prod.fst))) ∧
      (wordOf (bs.map Prod.fst) = y → po = true → returns .waitevPoll 0x12 y))) ∧
  (∀ (s : State) (r : QPushRec) (st : Store), s.clocked = true → (s.qpushes.find? fun x => x.queue == s.arg.id && x.pos == s.arg.addr && !x.written) = some r →
    let x := s.queues.getD r.queue {}
    s.tkRange r.ctx .write (x.slotAt r.pos) 64 false = .ok st → r.pos = x.tail →
    ∃ u, exec .qpushRecordWrite s = .next u ∧ r.pos < (u.queues.getD r.queue {}).tail ∧ (u.queues.getD r.queue {}).reserve = x.reserve ∧ ∀ q, q ≠ r.queue → u.queues.find q = s.queues.find q)

/-- R80, R81, R82, R417, R441, R442, R443 (SLOTGET, SLOTPOST, SLOTPOST.END, CCINC, and the steps of a ring's atomic unit): a claim takes the next position and moves its counter on, waits while there is none, and answers 7 at the end of the ring; a post is held until its position's turn and then moves FILL or DRAIN past it; the last end token closes the ring at FCLAIM; CCINC adds to the low 63 bits of a counter. What is written to a ring's field is read back. -/
def Obligations.Rings : Prop :=
  (∀ (s : State) (c k : Nat) (w : Warp) (f : RR) (b : Block), s.SysActing c k w f.g → s.block w.block = some b →
    let d := f.dst.toNat
    let l := lowLane (s.taking c k w f.g)
    let A := s.sysArg c k w f.g f.sa
    let P := (s.sysArg c k w f.g f.sb).toNat
    (∀ st, s.structAt c k w l A 64 true .atomic = .ok st →
      let cons := f.md.getLsbD 0
      (s.rangePoison b.ctx [(A.toNat, 64)] = none →
        (∀ t n, s.ringClaim b.ctx st cons = (t, .pos n) → exec (.slotget f) s = (t.l1Drop c b.ctx).sysDone c k f [(d, 0), (d + 1, BitVec.ofNat 64 n)]) ∧
      (∀ t, s.ringClaim b.ctx st cons = (t, .closed) → exec (.slotget f) s = (t.l1Drop c b.ctx).sysDone c k f [(d, 7), (d + 1, 0)]) ∧
      (∀ t, s.ringClaim b.ctx st cons = (t, .wait) → exec (.slotget f) s = .next ((s.setWarp c k (w.sleep (.ring A.toNat st cons d f.sbd.toNat))).draw))) ∧
      (s.postedOut c k = true → exec (.slotpost f) s = s.heldBack c k w ∧ exec (.slotpostEnd f) s = s.heldBack c k w) ∧
      (s.postedOut c k = false →
        let op : RingOp := if cons then .release else .publish
        let t := (s.showAll (s.warpAgt c k w)).unitTurns b.ctx st
        (t.postVoid b.ctx st op P = true → exec (.slotpost f) s = .next (t.retired c k)) ∧
        (t.postVoid b.ctx st op P = false → exec (.slotpost f) s = .next (({ t with ringHeld := t.ringHeld ++ [⟨b.ctx, A.toNat, st, op, P⟩] } : State).retired c k)) ∧
        exec (.slotpostEnd f) s = .next (({ t with ringHeld := t.ringHeld ++ [⟨b.ctx, A.toNat, st, .endToken, 0⟩] } : State).retired c k))) ∧
    (∀ st, s.structAt c k w l A 8 false .atomic = .ok st → s.postedOut c k = true → exec (.ccinc f) s = s.heldBack c k w) ∧
    (∀ st, s.structAt c k w l A 8 false .atomic = .ok st → s.postedOut c k = false → ∃ t : State, exec (.ccinc f) s = .next (t.retired c k) ∧ t.warps = s.warps ∧ s.sameRest t ∧
      ∀ p, st = .mem [p] → p.len = 8 → s.memWf → s.wholeLines → s.severed (homeAgt b.ctx st) st = false → (s.loadBytes (homeAgt b.ctx st) false (st.part 0 8) 8).2 = none →
        let old := s.fieldIn b.ctx st 0 8
        t.fieldIn b.ctx st 0 8 = old / 2 ^ 63 * 2 ^ 63 + (old + P) % 2 ^ 63)) ∧
  (∀ (s : State) (ctx : Nat) (st : Store), s.raced.contains st = false →
    let F := fun off => s.fieldIn ctx st off 8
    (F 0x30 ≠ 2 ^ 64 - 1 → s.ringClaim ctx st false = (s, .closed)) ∧
    (F 0x30 = 2 ^ 64 - 1 → s.fieldIn ctx st 0x08 4 ≤ (F 0x10 + 2 ^ 64 - F 0x28) % 2 ^ 64 → s.ringClaim ctx st false = (s, .wait)) ∧
    (F 0x30 = 2 ^ 64 - 1 → (F 0x10 + 2 ^ 64 - F 0x28) % 2 ^ 64 < s.fieldIn ctx st 0x08 4 → F 0x10 + 1 ≠ 2 ^ 63 →
      s.ringClaim ctx st false = (s.setFieldIn ctx st 0x10 8 (F 0x10 + 1), .pos (F 0x10))) ∧
    (F 0x20 = F 0x30 → s.ringClaim ctx st true = (s, .closed)) ∧
    (F 0x20 ≠ F 0x30 → F 0x18 ≤ F 0x20 → s.ringClaim ctx st true = (s, .wait)) ∧
    (F 0x20 ≠ F 0x30 → F 0x20 < F 0x18 → F 0x20 + 1 ≠ 2 ^ 63 → s.ringClaim ctx st true = (s.setFieldIn ctx st 0x20 8 (F 0x20 + 1), .pos (F 0x20))) ∧
    (∀ p off n v, st = .mem [p] → 0 < n → off + n ≤ p.len → s.memWf → s.wholeLines → s.severed (homeAgt ctx st) (st.part off n) = false → (s.loadBytes (homeAgt ctx st) false (st.part off n) n).2 = none →
      (s.setFieldIn ctx st off n v).fieldIn ctx st off n = v % 2 ^ (8 * n))) ∧
  (∀ s : State, s.clocked = true →
    (∀ c k w desc st (cons : Bool) d sbd t n, s.arg.ring.who = .warp c k → s.warp c k = some w → w.st ≠ .suspended → w.wait = some (.ring desc st cons d sbd) →
      s.arg.ring.desc.toNat = desc → s.rangePoison (s.ctxOf w) [(desc, 64)] = none → s.ringClaim (s.ctxOf w) st cons = (t, .pos n) →
      ∃ u v id due, exec (if cons then .ringConsumerClaim else .ringProducerClaim) s = .next u ∧ u.warp c k = some v ∧ v.wait = none ∧ v.pc = w.pc + 8 ∧
        v.flights = w.flights ++ [⟨id, sbd, due, [.sreg d 0, .sreg (d + 1) (BitVec.ofNat 64 n)]⟩] ∧ u.mem = t.mem) ∧
    (∀ e r st t n, s.arg.ring.who = .engine e → s.claimReady e = some r → s.ringPlace r = .ok st → s.ringClaim r.ctx st r.stores = (t, .pos n) →
      ∃ u y, exec (if r.stores then .ringConsumerClaim else .ringProducerClaim) s = .next u ∧ y ∈ u.engine e ∧ y.id = r.id ∧ y.claimed = r.claimed ++ [n] ∧ y.item = r.item ∧ u.mem = t.mem) ∧
    (∀ (op : RingOp) x, (s.ringHeld.find? fun y => y.ctx == s.arg.ring.ctx && y.desc == s.arg.ring.desc.toNat && y.op == op && (op == .endToken || y.pos == s.arg.ring.pos.toNat)) = some x → s.raced.contains x.place = false →
      let left := s.ringHeld.filter fun y => !(y.ctx == x.ctx && y.desc == x.desc && y.op == op && y.pos == x.pos)
      (op = .publish → s.fieldIn x.ctx x.place 0x18 8 = x.pos → exec .ringPublish s = .next (({ s with ringHeld := left } : State).setFieldIn x.ctx x.place 0x18 8 (x.pos + 1))) ∧
      (op = .release → s.fieldIn x.ctx x.place 0x28 8 = x.pos → exec .ringConsumerRelease s = .next (({ s with ringHeld := left } : State).setFieldIn x.ctx x.place 0x28 8 (x.pos + 1))) ∧
      (op = .endToken →
        let n := (s.fieldIn x.ctx x.place 0x3A 2 + 65535) % 65536
        let t := ({ s with ringHeld := s.ringHeld.erase x } : State).setFieldIn x.ctx x.place 0x3A 2 n
        exec .ringEndToken s = .next (if n = 0 then t.setFieldIn x.ctx x.place 0x30 8 (t.fieldIn x.ctx x.place 0x10 8) else t))))

/-- R75, R76, R78, R79, R82, R177, R446 (STREAM and the engines' steps): a record that passes the checks of R79 joins the named engine's records, or those of the die's engine with the fewest, and the result names the engine with status 0; one that does not joins none, and the result holds the first check that fails beside 0x11; a full engine makes the warp try again. An item delivered moves the running record to its next item, into a handle's tile with the bytes of its rows and FP past it, or into a ring's slot; a record whose items are all delivered leaves its engine, and its counter counts one more. -/
def Obligations.Streams : Prop :=
  (∀ (s : State) (c k : Nat) (w : Warp) (f : RR) (b : Block), s.SysActing c k w f.g → s.block w.block = some b →
    let A := s.sysArg c k w f.g f.sa
    let l := lowLane (s.taking c k w f.g)
    let e := if f.ty = 31 then s.leastEngine (dieOf c) else f.ty.toNat
    ∀ st, A.toNat % 64 = 0 → s.reachOne c k (s.laneAgt c k w l) .read 0 false A 64 l = .ok st →
      (64 ≤ (s.engine e).length → exec (.stream f) s = s.sysAgain c k w) ∧
      (∀ s0 bs, (s.engine e).length < 64 → s.warpPull c k w true (s.laneAgt c k w l) A 64 st = .ok (s0, bs) →
        let r : StreamRec := { id := s0.ids, ctx := b.ctx, block := some w.block, fields := bs }
        let s1 := s0.newId.2
        let n := s1.recordStatus r
        (∀ u, s1.recordHeld r = some u → exec (.stream f) s = u.sysAgain c k w) ∧
        (s1.recordHeld r = none → n = 0 → ∃ t : State, exec (.stream f) s = t.sysDone c k f [(f.dst.toNat, BitVec.ofNat 64 (e * 65536))] ∧
          (∃ due o g d, t.engine e = s.engine e ++ [{ r with due := due, owner := o, geom := g, desc := d }]) ∧
          (∀ x, x ≠ e → t.engine x = s.engine x) ∧ t.warps = s.warps ∧ s.sameData t) ∧
        (s1.recordHeld r = none → n ≠ 0 → ∃ t : State, exec (.stream f) s = t.sysDone c k f [(f.dst.toNat, BitVec.ofNat 64 (e * 65536 + n * 256 + 0x11))] ∧ t.engines = s.engines ∧ t.warps = s.warps ∧ s.sameData t))) ∧
  (∀ (s : State) (e : Nat) (r : StreamRec), s.clocked = true → s.arg.id = e →
    (s.itemReady e = some r →
      (∀ p rest st ss ds bs, r.toHandle = false → r.stores = false → r.sent = false → r.claimed = p :: rest → s.ringPlace r = .ok st → s.reachAll (r.agt e) .read (r.parts r.item) = .ok ss →
        s.reachAll (r.agt e) .write (r.slotParts p (List.replicate r.shape.1 r.shape.2)) = .ok ds → s.pull (r.agt e) r.id false ss = .bytes bs →
        (∀ y ∈ ds, y.2.peers = [] ∧ s.severed (r.agt e) y.2 = false) → s.workOut r.id = false →
        ∃ u y, exec .streamItemDelivery s = .next u ∧ y ∈ u.engine e ∧ y.id = r.id ∧ y.item = r.item + 1 ∧ y.claimed = rest ∧ u.warps = s.warps) ∧
      (∀ p rest st, r.toHandle = false → r.sent = true → r.claimed = p :: rest → s.ringPlace r = .ok st →
        ∃ u y, exec .streamItemDelivery s = .next u ∧ y ∈ u.engine e ∧ y.id = r.id ∧ y.item = r.item + 1 ∧ y.claimed = rest ∧ u.warps = s.warps) ∧
      (∀ q h n, r.toHandle = true → r.stores = false → r.claimed = [] → s.targetHandle r = some (q, h) → s.nextSlot r h = some n →
        ∃ u y, exec .streamItemDelivery s = .next u ∧ y ∈ u.engine e ∧ y.id = r.id ∧ y.item = r.item ∧ y.claimed = [n] ∧
          u.tile r.core (h.tileAt n) = { s.tile r.core (h.tileAt n) with st := .filling, hold := 50 }) ∧
      (∀ q h n rest ss bs, r.toHandle = true → r.stores = false → r.claimed = n :: rest → s.targetHandle r = some (q, h) →
        Config.freeNew s.free r.id = false ∨ s.nextSlot r h = none →
        (s.tile r.core (h.tileAt h.fp)).st = .filling → (s.tile r.core (h.tileAt h.fp)).hold = 50 →
        s.reachAll (r.agt e) .read (r.parts r.item) = .ok ss → s.pull (r.agt e) r.id false ss = .bytes bs →
        ∃ u y p g, exec .streamItemDelivery s = .next u ∧ y ∈ u.engine e ∧ y.id = r.id ∧ y.item = r.item + 1 ∧ y.claimed = rest ∧ u.seq r.core = some p ∧ p.handles.find r.handle = some g ∧
          g.fp = (h.fp + 1) % (2 * h.n) ∧ g.dp = h.dp ∧
          u.tile r.core (h.tileAt h.fp) = { s.tile r.core (h.tileAt h.fp) with elems := tileOfRows (r.targetRows r.item bs), st := .owned, hold := 48 })) ∧
    (∀ st, s.recordOver e = some r → s.endPlace r = .ok st →
      (r.done = 0 → ∃ u, exec .streamRecordCompletion s = .next u ∧ u.engine e = ((s.engine e).filter fun x => x.id != r.id) ∧ u.warps = s.warps) ∧
      (∀ dn p, r.done ≠ 0 → s.placeAt r.ctx .atomic r.done.toNat 8 true = .ok dn → dn = .mem [p] → p.len = 8 → s.memWf → s.wholeLines → s.raced.contains st = false →
        s.severed (homeAgt r.ctx dn) dn = false → (s.loadBytes (homeAgt r.ctx dn) false (dn.part 0 8) 8).2 = none →
        ∃ u, exec .streamRecordCompletion s = .next u ∧ u.engine e = ((s.engine e).filter fun x => x.id != r.id) ∧ u.fieldIn r.ctx dn 0 8 = countUp (s.fieldIn r.ctx dn 0 8) false)))

/-- R222-R228, R417, R434-R437 (SIGCLAIM, SIGDONE, SIGYIELD, SIGSTAGE, SIGSWAP, SIGREAD) in a launch of KIND 1: SIGCLAIM hands out the block's next cached leaf, or answers DONE in an abandoned block, in a cancelled launch and on a core outside the mask; with no leaf cached it claims a chunk, and answers RETRY while cells are still claimed and DONE when none is. SIGDONE and SIGYIELD of a box whose cells are all claimed recode them to done or open and forget that the box was handed out, SIGDONE with its timing record where the signature asks for one, of any other box they answer 5; SIGSTAGE writes the staged record, SIGSWAP makes a staged record that keeps R223 the signature of the next generation, SIGREAD reads the current one: each with the structures it reads and writes reached. In a launch of another kind they are ILLEGAL, and so are staging and swapping in a block that is no tuner. -/
def Obligations.Signatures : Prop :=
  ∀ (s : State) (c k : Nat) (w : Warp) (f : RR) (b : Block) (l : Launch), s.SysActing c k w f.g → s.block w.block = some b → s.launches.find b.launch = some l →
    let d := f.dst.toNat
    let lane := lowLane (s.taking c k w f.g)
    let x := s.groupBox c k w lane f.sa.toNat
    let zeros := (List.range 7).map fun i => (d + 1 + i, (0 : Word64))
    let recoded := fun (code : Nat) => (l.leafCells x).foldl (fun (s : State) i => s.setCell l i code) s
    let back := (s.sigOf l).position l ((List.range 6).map fun i => x.org.getD i 0 / l.grain i)
    (l.kind = 1 →
      (s.sigFree c k w f.g (l.recRange :: if b.chunk.isEmpty then [l.mapRange] else []) [] →
      ((b.abandoned = true ∨ l.cancelled = true) → exec (.sigclaim f) s = (s.setBlock w.block { b with gotDone := true }).sysDone c k f ((d, 2) :: zeros)) ∧
      (b.abandoned = false → l.cancelled = false → (s.maskNow l).getLsbD b.core = false →
        exec (.sigclaim f) s = ((s.dropChunk w.block).noteDone w.block).sysDone c k f ((d, 2) :: zeros)) ∧
      (b.abandoned = false → l.cancelled = false → (s.maskNow l).getLsbD b.core = true →
        (∀ h rest, b.chunk = h :: rest → exec (.sigclaim f) s =
          (s.setBlock w.block { b with chunk := rest, handed := b.handed ++ [{ h with since := s.clock }] }).sysDone c k f (leafGroup l d (.leaf { h with since := s.clock }))) ∧
        (∀ t, b.chunk = [] → s.claimRow b.launch (s.sigOf l) (s.chunkCount b.launch l (s.sigOf l)) = (t, []) →
          ((∃ i < l.cellCount, t.cell l i = 1) → exec (.sigclaim f) s = t.sysDone c k f ((d, 3) :: zeros)) ∧
          ((∀ i < l.cellCount, t.cell l i ≠ 1) → ∃ u : State, exec (.sigclaim f) s = u.sysDone c k f ((d, 2) :: zeros) ∧ u.mem = t.mem)) ∧
        (∀ t h rest, b.chunk = [] → s.claimRow b.launch (s.sigOf l) (s.chunkCount b.launch l (s.sigOf l)) = (t, h :: rest) →
          ∃ (u : State) (y : Block), exec (.sigclaim f) s = u.sysDone c k f (leafGroup l d (.leaf { h with since := s.clock })) ∧ u.mem = t.mem ∧
            u.block w.block = some y ∧ y.chunk = rest ∧ { h with since := s.clock } ∈ y.handed))) ∧
      (l.boxOk x = false → exec (.sigdone f) s = s.sysDone c k f [(d, 5)] ∧ exec (.sigyield f) s = s.sysDone c k f [(d, 5)]) ∧
      (l.boxOk x = true → s.sigFree c k w f.g (l.recRange :: l.boxRanges x) [] →
        (s.boxClaimed l x = true → s.sigFree c k w f.g (s.timingRanges l).dropLast (s.timingRanges l) →
          exec (.sigdone f) s = (((recoded 2).timeLeaf c b.launch l x).forgetLeaf c b.launch x).sysDone c k f [(d, 0)]) ∧
        (s.boxClaimed l x = true → s.timingRanges l = [] → ((recoded 2).sigOf l).timing = false →
          exec (.sigdone f) s = ((recoded 2).forgetLeaf c b.launch x).sysDone c k f [(d, 0)]) ∧
        (s.boxClaimed l x = true → exec (.sigyield f) s = (((recoded 0).setLaunch b.launch { l with cursor := min l.cursor back }).forgetLeaf c b.launch x).sysDone c k f [(d, 0)]) ∧
        (s.boxClaimed l x = false → exec (.sigdone f) s = s.sysDone c k f [(d, 5)] ∧ exec (.sigyield f) s = s.sysDone c k f [(d, 5)])) ∧
      (b.header.getLsbD 23 = true →
        (s.sigFree c k w f.g [] [(l.sigstg, 64)] → exec (.sigstage f) s = .next ((s.tkWrite l.ctx l.sigstg ((List.range 8).flatMap fun i => leBytes 8 (s.readS c k w lane (f.sa.toNat + i)).toNat)).retired c k)) ∧
        (∀ r, s.sigFree c k w f.g [(l.sigstg, 64)] [l.recRange, (l.lpb.toNat + 0xE4, 4)] → s.tkRead l.ctx l.sigstg 64 = some r → Sig.ok ⟨r⟩ l = true → ∃ (u : State) (y : Launch),
          exec (.sigswap f) s = u.sysDone c k f [(d, BitVec.ofNat 64 ((l.generation + 1) % 2 ^ 32 * 2 ^ 16))] ∧ u.launches.find b.launch = some y ∧
          y.generation = l.generation + 1 ∧ y.cursor = 0 ∧ y.fields = l.fields ∧ u.warps = s.warps) ∧
        (∀ r, s.sigFree c k w f.g [(l.sigstg, 64)] [l.recRange, (l.lpb.toNat + 0xE4, 4)] → s.tkRead l.ctx l.sigstg 64 = some r → Sig.ok ⟨r⟩ l = false → exec (.sigswap f) s = s.sysDone c k f [(d, 4)])) ∧
      (b.header.getLsbD 23 = false → exec (.sigstage f) s = s.sysTrap c k w .illegal ∧ exec (.sigswap f) s = s.sysTrap c k w .illegal) ∧
      (s.sigFree c k w f.g [l.recRange] [] → exec (.sigread f) s = s.sysDone c k f ((List.range 8).map fun i => (d + i, BitVec.ofNat 64 (fieldAt (s.sigOf l).bytes (8 * i) 8))))) ∧
    (l.kind ≠ 1 → ∀ i ∈ [Instr.sigclaim f, .sigdone f, .sigyield f, .sigstage f, .sigswap f, .sigread f], exec i s = s.sysTrap c k w .illegal)

/-- R231-R235, R417, R438-R440 (TASKPUT, TASKGET, TASKEND, and the carafe's two steps): TASKPUT queues a record that keeps R231, answers 9 for a queue that is not the context's and 10 for a bad record; TASKGET takes the ready task that no other ready task comes before; without state tiles it returns at once, LATE past its deadline, with them the tiles fill from the carafe and it returns when they are in place; TASKEND ends the task, at once, or when its state is back in the carafe. -/
def Obligations.TasksAndCarafe : Prop :=
  (∀ (s : State) (c k : Nat) (w : Warp) (f : RR) (b : Block), s.SysActing c k w f.g → s.block w.block = some b →
    let d := f.dst.toNat
    let lane := lowLane (s.taking c k w f.g)
    (let n := (s.sysArg c k w f.g f.sa).toNat
     let B := s.sysArg c k w f.g f.sb
     let q := s.taskQueue n
     ((512 ≤ n ∨ q.ctx ≠ some b.ctx) → exec (.taskput f) s = s.sysDone c k f [(d, 9)]) ∧
     (n < 512 → q.ctx = some b.ctx → B.toNat % 64 ≠ 0 → exec (.taskput f) s = s.sysDone c k f [(d, 10)]) ∧
     (∀ st, n < 512 → q.ctx = some b.ctx → B.toNat % 64 = 0 → B.toNat < windowsBase → s.reachOne c k (s.tkIssueAgt c k w) .read 0 false B 64 lane = .ok st → placeOk false st = false →
       exec (.taskput f) s = s.sysDone c k f [(d, 10)]) ∧
     (∀ st t bs, n < 512 → q.ctx = some b.ctx → B.toNat % 64 = 0 → B.toNat < windowsBase → s.reachOne c k (s.tkIssueAgt c k w) .read 0 false B 64 lane = .ok st → placeOk false st = true →
       s.warpPull c k w true (s.laneAgt c k w lane) B 64 st = .ok (t, bs) →
       (taskRecordOk bs = false → exec (.taskput f) s = s.sysDone c k f [(d, 10)]) ∧
       (taskRecordOk bs = true → 4096 ≤ q.records.length → exec (.taskput f) s = s.sysAgain c k w) ∧
       (taskRecordOk bs = true → q.records.length < 4096 → t.postedOut c k = false →
         ∃ u : State, exec (.taskput f) s = u.sysDone c k f [(d, 0)] ∧ u.taskQueue n = { q with records := q.records ++ [B] } ∧ (∀ m, m ≠ n → u.taskQueue m = s.taskQueue m) ∧ s.sameData u ∧ u.warps = s.warps))) ∧
    (w.active = w.live →
      (∀ l, s.launches.find b.launch = some l → b.header.getLsbD 22 = true → w.task = none →
        let first := fieldAt l.fields 0xDE 2
        let count := fieldAt l.fields 0xE0 2
        let ranges := (s.queuedRecords b.ctx first count).map fun (r : Word64) => (r.toNat, 64)
        s.structsAt c k w lane .read ranges = none → s.rangePoison b.ctx ranges = none →
        (s.chooseTask b.ctx first count = none → exec (.taskget f) s = s.sysAgain c k w) ∧
        (∀ t, s.chooseTask b.ctx first count = some t →
          (t ∈ s.readyTasks b.ctx first count ∧ ∀ u ∈ s.readyTasks b.ctx first count, t.before u = true) ∧
          (s.badTask b t = true → exec (.taskget f) s = (s.dequeue t).sysDone c k f (taskGroup d 10 t.record t.fields)) ∧
          (s.badTask b t = false → fieldAt t.fields 0x24 1 = 0 → ∃ (u : State) (v : Warp) (h : TaskHeld), exec (.taskget f) s = u.sysDone c k f (taskGroup d
              (if fieldAt t.fields 0x28 8 ≠ 0 ∧ fieldAt t.fields 0x28 8 < s.deviceTime then 0x0B else 0) t.record t.fields) ∧
            u.warp c k = some v ∧ v.task = some h ∧ h.record = t.record ∧ h.phase = .held ∧ u.taskQueue t.queue = (s.dequeue t).taskQueue t.queue ∧
            u.taskRun = s.taskRun ++ [⟨b.ctx, fieldAt t.fields 0x20 4, w.block, w.idx⟩] ∧ s.sameBytes u) ∧
          (∀ ts, s.badTask b t = false → fieldAt t.fields 0x24 1 ≠ 0 → s.stateTiles c k w (fieldAt t.fields 0x24 1) = .ok ts → ∃ (u : State) (v : Warp) (h : TaskHeld),
            exec (.taskget f) s = .next u ∧ u.warp c k = some v ∧ v.task = some h ∧ h.record = t.record ∧ h.phase = .loading ∧ v.wait = some .task ∧ v.pc = w.pc ∧ s.sameBytes u ∧
            ∀ n ∈ ts, (u.tile c n).st = .filling ∧ (u.tile c n).hold = 50))) ∧
      (∀ l, s.launches.find b.launch = some l → b.header.getLsbD 22 = false → exec (.taskget f) s = s.sysTrap c k w .illegal) ∧
      (∀ l h, s.launches.find b.launch = some l → b.header.getLsbD 22 = true → w.task = some h →
        exec (.taskget f) s = if h.phase = .writing then s.sysAgain c k w else s.sysTrap c k w .illegal) ∧
      (∀ h, w.task = some h → h.phase ≠ .held → exec (.taskend f) s = s.sysTrap c k w .illegal) ∧
      (∀ h ts, w.task = some h → h.phase = .held → s.stateTiles c k w h.stiles = .ok ts → (∀ n ∈ ts, w.inFlightTo n = 0) → s.postedOut c k = false → s.warps.find (homeKey c k) = none →
        ∃ (u : State) (v : Warp), exec (.taskend f) s = .next u ∧ u.warp c k = some v ∧ v.pc = w.pc + 8 ∧ s.sameBytes u ∧
          (h.stiles = 0 → h.field 0x18 8 = 0 → v.task = none ∧ u.taskRun = s.taskRun.filter fun r => !(r.block == w.block && r.warp == w.idx)) ∧
          (¬(h.stiles = 0 ∧ h.field 0x18 8 = 0) → (∃ due, v.task = some { h with phase := .writing, due := due }) ∧ ∀ n ∈ ts, (u.tile c n).st = .filling ∧ (u.tile c n).hold = 50)) ∧
      (w.task = none → exec (.taskend f) s = s.sysTrap c k w .illegal))) ∧
  (∀ (s : State) (c k : Nat) (w : Warp) (h : TaskHeld), s.clocked = true → s.arg.core = c → s.arg.slot = k → s.warps.find (homeKey c k) = none →
    let g := carafeAgt c (s.ctxOf w)
    (∀ sts bs, s.taskMoving c k .loading = some (w, h) → s.reachAll g .read (s.carafeParts (s.ctxOf w) h) = .ok sts → s.pull g (warpWork c k) false sts = .bytes bs →
      ∃ (u : State) (v : Warp) (id due : Nat), exec .carafeStateLoadComplete s = .next u ∧ u.warp c k = some v ∧ v.task = some { h with phase := .held } ∧ v.wait = none ∧ v.pc = w.pc + 8 ∧ s.sameData u ∧
        v.flights = w.flights ++ [⟨id, h.sbd, due, (taskGroup h.dst (if h.deadline ≠ 0 ∧ h.deadline < s.deviceTime then 0x0B else 0) h.record h.fields).map fun x => .sreg x.1 x.2⟩] ∧
        ∀ t, h.stiles = 1 → w.entry 0 = t → u.tile c t = { s.tile c t with elems := tileFromBytes 0 (bs.take 4096), st := .owned, hold := k }) ∧
    (∀ sts, let o := { g with work := warpWork c k }
      s.taskMoving c k .writing = some (w, h) → h.sent = false → s.reachAll o .write (s.carafeParts (s.ctxOf w) h) = .ok sts →
      (∀ y ∈ sts, y.2.peers = [] ∧ s.severed o y.2 = false) → s.workOut (warpWork c k) = false → h.field 0x18 8 = 0 →
      ∃ (u : State) (v : Warp), exec .carafeWritebackComplete s = .next u ∧ u.warp c k = some v ∧ v.task = none ∧
        (u.taskRun = s.taskRun.filter fun r => !(r.block == w.block && r.warp == w.idx)) ∧ ∀ n ∈ w.taskTiles h, (u.tile c n).st = .owned ∧ (u.tile c n).hold = k))

/-- R243, R245, R250, R417, R431, R432, R433 (COLL, COLLW, COLLQ, COLLX): COLL of a defined domain adds the collective of its descriptor to the domain's and sends SIGHT to the collator; with the domain not defined and no counter its record is written UNDEFINED-DOMAIN; COLLW and COLLQ answer a record's status and number once it is not pending, while it is COLLW tries again and COLLQ answers it so; COLLX sends CANCEL and waits for the reply, and answers at once in a domain that is not defined or is closed. -/
def Obligations.CollectiveWords : Prop :=
  ∀ (s : State) (c k : Nat) (w : Warp) (f : RR) (b : Block), s.SysActing c k w f.g → s.block w.block = some b →
    let l := lowLane (s.taking c k w f.g)
    let A := s.sysArg c k w f.g f.sa
    let d := f.dst.toNat
    (∀ t bs st, s.globalRead c k w false l A 64 = .ok (t, bs) → t.globalAt c k w l .write (BitVec.ofNat 64 (fieldAt bs 0x30 8)) 16 = .ok st → t.postedOut c k = false →
      let key := BitVec.ofNat 64 (fieldAt bs 0 8)
      let g := s.laneAgt c k w l
      (t.dom b.ctx (fieldAt bs 0x20 2) = none → fieldAt bs 0x28 8 = 0 →
        exec (.coll f) s = .next (((((t.showAll (t.warpAgt c k w)).l1Drop c b.ctx).storeOut g st (BitVec.ofNat 64 (fieldAt bs 0x30 8)).toNat (resultBytes 0 4 0)).showAll g).retired c k)) ∧
      (∀ m, t.dom b.ctx (fieldAt bs 0x20 2) = some m → m.closed = false → (∀ y ∈ m.members, y.key ≠ key) → (∀ y ∈ m.closing, y.key ≠ key) →
        let x := issueMember bs (some b.launch) none (dieOf c) (m.issueStatus bs)
        ∃ u : State, exec (.coll f) s = .next (u.retired c k) ∧ u.dom b.ctx m.domid = some { m with members := m.members ++ [x] } ∧ u.warps = s.warps ∧
          (m.collator ≠ m.rank → st.peers = [] → ∃ msg, u.stoxia = t.stoxia ++ [.coll (m.rtab.getD m.collator 0) .sight msg] ∧ msg.key = key ∧ msg.present = true ∧ msg.params = collParams bs ∧ msg.rank = m.rank))) ∧
    (∀ t bs, s.globalRead c k w false l A 16 = .ok (t, bs) →
      let answer := [(d, BitVec.ofNat 64 (fieldAt bs 6 1 + 256 * fieldAt bs 0 6))]
      (fieldAt bs 6 1 ≠ 0xFF → exec (.collw f) s = (t.l1Drop c b.ctx).sysDone c k f answer ∧ exec (.collq f) s = (t.l1Drop c b.ctx).sysDone c k f answer) ∧
      (fieldAt bs 6 1 = 0xFF → exec (.collw f) s = t.sysAgain c k w ∧ exec (.collq f) s = t.sysDone c k f answer)) ∧
    (∀ t bs, s.globalRead c k w true l A 64 = .ok (t, bs) →
      let key := BitVec.ofNat 64 (fieldAt bs 0 8)
      (t.dom b.ctx (fieldAt bs 0x20 2) = none → exec (.collx f) s = t.sysDone c k f [(d, 0x0D)]) ∧
      (∀ m, t.dom b.ctx (fieldAt bs 0x20 2) = some m → m.closed = true → exec (.collx f) s = t.sysDone c k f [(d, 0x0E)]) ∧
      (∀ m, t.dom b.ctx (fieldAt bs 0x20 2) = some m → m.closed = false → ∃ (u : State) (v : Warp), exec (.collx f) s = .next u ∧ u.warp c k = some v ∧
        v.wait = some (.collx m.domid key d f.sbd.toNat) ∧ v.pc = w.pc ∧ u.dom b.ctx m.domid = some { m with cancels := m.cancels ++ [(key, some (c, k))] } ∧ s.sameData u))

/-- R344, R372, R373, R377-R380, R203, R204, R384-R391, R449 (the S slot's words but for memory, and the B slot), where the word's guard holds: S-slot words leave their result to be seen by the next bundle; a B-slot branch that is taken sets the next bundle's address, one that is not leaves the bundle after; a count that reaches 0, a full or empty return stack, mixed mask bits, CMPT's difference, and handle operations that find no room are the faults named. Where the guard is false nothing happens. -/
def Obligations.ScalarSlot : Prop :=
  ∀ (s : State) (c : Nat) (sl : Slot) (q : Seq), s.cur = .slot c sl → s.seq c = some q →
    let b := q.before
    (∀ f : RR, s.qGuard b f.g = true →
      let x := fun (code : BitVec 8) => s.xReg b code.toNat
      let n := tyWidth f.ty
      let src := fun (code : BitVec 8) => truncTo n (s.xlReg b code)
      let gives := fun (v : Word64) => (s.later c 1 1 (xlWrite f.dst (extendS f.ty (ty64 f.ty) (truncTo n v)))).draw
      let flag := fun (v : Bool) => Host.Outcome.next ((s.later c 1 1 (qWrite (f.dst.toNat - 0x40) v)).draw)
      (∀ e ∈ ([(.iadd, opAdd), (.isub, opSub), (.imul, opMul), (.imulh, opMulh), (.imad, opMad), (.imin, opMin), (.imax, opMax), (.iabs, opAbs), (.and, opAnd), (.or, opOr),
          (.xor, opXor), (.not, opNot), (.shl, opShl), (.shr, opShr), (.sha, opSha), (.rot, opRot), (.popc, opPopc), (.clz, opClz), (.ctz, opCtz), (.brev, opBrev), (.bfe, opBfe),
          (.bfi, opBfi), (.lea, opLea)] : List ((RR → Instr) × IntOp)),
        exec (e.1 f) s = .next (gives (e.2 n (tySigned f.ty) (src f.sa) (src f.sb) (src f.sc)))) ∧
      exec (.sel f) s = .next (gives (if s.qReg b (f.sc.toNat - 0x40) = true then s.xlReg b f.sa else s.xlReg b f.sb)) ∧
      exec (.icmp f) s = flag (intCmp n (tySigned f.ty) f.cc (src f.sa) (src f.sb)) ∧
      exec (.anym f) s = flag (s.mReg b (f.sa.toNat - 0x48) != 0) ∧
      exec (.allm f) s = flag (s.mReg b (f.sa.toNat - 0x48) == BitVec.allOnes 1024) ∧
      (xOk f.sa = true → f.sa ≠ f.sb → (x f.sa = x f.sb → exec (.cmpt f) s = .next s.draw) ∧ (x f.sa ≠ x f.sb → exec (.cmpt f) s = s.slotFaults c sl .cmpt 0)) ∧
      (xOk f.sa = true → f.sa = f.sb → (x f.sa = 0 → exec (.cmpt f) s = .next s.draw) ∧ (x f.sa ≠ 0 → exec (.cmpt f) s = s.slotFaults c sl .cmpt 0)) ∧
      (let qv := fun (code : BitVec 8) => s.qReg b (code.toNat - 0x40)
       let mv := fun (code : BitVec 8) => s.mReg b (code.toNat - 0x48)
       let same := if qOk f.sa then (if f.sa = f.sb then !qv f.sa else qv f.sa == qv f.sb) else if f.sa = f.sb then mv f.sa == 0 else mv f.sa == mv f.sb
       xOk f.sa = false → exec (.cmpt f) s = if same then .next s.draw else s.slotFaults c sl .cmpt 0) ∧
      (xOk f.dst = true → qOk f.dst = false → (∀ h, b.handles.find (f.sa.toNat - 0x50) = some h → exec (.hqry f) s = .next ((s.later c 1 1 [.x f.dst.toNat (Handle.word h)]).draw)) ∧
        (b.handles.find (f.sa.toNat - 0x50) = none → exec (.hqry f) s = .next ((s.later c 1 1 [.x f.dst.toNat 0]).draw))) ∧
      (qOk f.dst = true → exec (.hqry f) s = flag (match b.handles.find (f.sa.toNat - 0x50) with | some h => decide (1 ≤ h.filled) && h.eos.getLsbD (h.dp % h.n) | none => false)) ∧
      (let v := x f.sa
       let h : Handle := { base := (v.extractLsb' 0 7).toNat, n := (v.extractLsb' 8 6).toNat, prodEng := v.getLsbD 16, consEng := v.getLsbD 17 }
       let m := f.dst.toNat - 0x50
       (1 ≤ h.n → h.n ≤ 32 → h.base + h.n ≤ 128 → (∀ t ∈ h.tiles, s.seqOwns c (s.seqCtx b) t = true ∧ t ∉ b.ringTiles (some m)) → b.claimsOn m = 0 → b.mloop = none →
         exec (.hset f) s = .next ((s.later c 1 1 [.hset m h]).draw)) ∧
       ((h.n = 0 ∨ 32 < h.n ∨ 128 < h.base + h.n) → exec (.hset f) s = s.slotFaults c sl .handleSet 0)) ∧
      exec (.scalew f) s = .next ((s.later c 1 1 ((List.range 8).map fun i =>
        .latch (if (x f.sb).getLsbD 2 then 1 else 0) (8 * ((x f.sb).extractLsb' 0 2).toNat + i) ((x f.sa).extractLsb' (8 * i) 8).toNat)).draw) ∧
      (∃ v : Word64, exec (.scaleg f) s = .next ((s.later c 1 1 [.x f.dst.toNat v]).draw) ∧ ((∀ p e, b.latch p e < 256) →
        ∀ i < 8, (v.extractLsb' (8 * i) 8).toNat = b.latch (if (x f.sa).getLsbD 2 then 1 else 0) (8 * ((x f.sa).extractLsb' 0 2).toNat + i)))) ∧
    (∀ f : RI, s.qGuard b f.g = true →
      let imm := f.imm.signExtend 64
      (∀ e ∈ ([(.iaddi, opAdd), (.imuli, opMul), (.andi, opAnd), (.ori, opOr), (.xori, opXor)] : List ((RI → Instr) × IntOp)),
        exec (e.1 f) s = .next ((s.later c 1 1 (xlWrite f.dst (e.2 64 true (s.xlReg b f.sa) imm 0))).draw)) ∧
      exec (.icmpi f) s = .next ((s.later c 1 1 (qWrite (f.dst.extractLsb' 0 3).toNat (intCmp 64 true (f.dst.extractLsb' 4 4).toNat (s.xlReg b f.sa) imm))).draw) ∧
      (f.imm.extractLsb' 0 12 = 0 → exec (.getctl f) s = .next ((s.later c 1 1 [.x f.dst.toNat (BitVec.ofNat 64 b.rm)]).draw) ∧
        ((s.xReg b f.sa.toNat).toNat ≤ 4 → exec (.setctl f) s = .next ((s.later c 1 1 [.rm (s.xReg b f.sa.toNat).toNat]).draw)) ∧
        (4 < (s.xReg b f.sa.toNat).toNat → exec (.setctl f) s = s.slotFaults c sl .illegal 0)) ∧
      (f.imm.extractLsb' 0 12 = 1 → exec (.getctl f) s = .next ((s.later c 1 1 [.x f.dst.toNat b.seed]).draw) ∧
        exec (.setctl f) s = .next ((s.later c 1 1 [.seed (s.xReg b f.sa.toNat)]).draw)) ∧
      (∀ y, s.block b.block = some y → y.hasSeq = true →
        (f.imm.extractLsb' 0 12 = 0x20 → exec (.getctl f) s = .next ((s.later c 1 1 [.x f.dst.toNat y.fpc]).draw)) ∧
        (f.imm.extractLsb' 0 12 = 0x21 → exec (.getctl f) s = .next ((s.later c 1 1 [.x f.dst.toNat y.finfo]).draw)) ∧
        (f.imm.extractLsb' 0 12 = 0x22 → exec (.getctl f) s = .next ((s.later c 1 1 [.x f.dst.toNat y.faddr]).draw))) ∧
      (f.imm.extractLsb' 0 12 = 0x23 → exec (.getctl f) s = .next ((s.later c 1 1 [.x f.dst.toNat (BitVec.ofNat 64 (
        (b.c0.filter fun e => match e.work with | .xload _ _ _ _ _ _ _ => true | _ => false).length * 2 ^ 16 + b.c1.length * 2 ^ 8 + b.c0.length))]).draw)) ∧
      (∀ h, b.handles.find (f.dst.toNat - 0x50) = some h →
        let k := f.imm.toNat
        (h.prodEng = false → b.claimsOn (f.dst.toNat - 0x50) = 0 → k ≤ h.free → exec (.hadvp f) s = .next ((s.later c 1 1 [.hadvp (f.dst.toNat - 0x50) k]).draw)) ∧
        (h.prodEng = false → b.claimsOn (f.dst.toNat - 0x50) = 0 → h.free < k → exec (.hadvp f) s = s.slotFaults c sl .handleOverrun 0) ∧
        (h.prodEng = true → exec (.hadvp f) s = s.slotFaults c sl .handleRole 0) ∧
        (h.consEng = false → k ≤ h.filled → exec (.hadvc f) s = .next ((s.later c 1 1 [.hadvc (f.dst.toNat - 0x50) k]).draw)) ∧
        (h.consEng = false → h.filled < k → exec (.hadvc f) s = s.slotFaults c sl .handleUnderrun 0) ∧
        (h.consEng = true → exec (.hadvc f) s = s.slotFaults c sl .handleRole 0)) ∧
      (b.handles.find (f.dst.toNat - 0x50) = none → exec (.hadvp f) s = s.slotFaults c sl .handleSet 0 ∧ exec (.hadvc f) s = s.slotFaults c sl .handleSet 0) ∧
      (∀ y t, s.block b.block = some y → (f.imm.extractLsb' 0 7).toNat = t →
        let wi := (f.imm.extractLsb' 8 5).toNat
        (∀ h, s.seqOwns c y.ctx t = true → t ∉ b.ringTiles none → y.slots[wi]? = some h → exec (.sgive f) s = .next ((s.later c 1 1 [.give t h]).draw)) ∧
        (s.seqOwns c y.ctx t = false → exec (.sgive f) s = s.slotFaults c sl .tileOwner 0) ∧
        (y.abandoned = false → (s.tile c t).st ≠ .free → s.seqOwns c y.ctx t = false → exec (.stake f) s = .next ((s.later c 1 1 [.take t]).draw)) ∧
        (y.abandoned = false → s.seqOwns c y.ctx t = true → exec (.stake f) s = .next s.draw) ∧
        (y.abandoned = true → exec (.stake f) s = .next s.draw) ∧
        (y.abandoned = false → (s.tile c t).st = .free → exec (.stake f) s = s.slotFaults c sl .tileOwner 0))) ∧
    (∀ f : BR, s.qGuard b f.g = true →
      let dest := q.pc + f.tgt.signExtend 64
      let goes := Host.Outcome.next ((s.setSeq c { q with next := some dest }).draw)
      let l := (f.md.extractLsb' 16 2).toNat
      exec (.sbr f) s = goes ∧
      (s.qReg b (f.md.extractLsb' 0 3).toNat ≠ f.md.getLsbD 3 → exec (.sbrq f) s = goes) ∧
      (s.qReg b (f.md.extractLsb' 0 3).toNat = f.md.getLsbD 3 → exec (.sbrq f) s = .next s.draw) ∧
      (s.mReg b (f.md.extractLsb' 0 3).toNat = BitVec.allOnes 1024 → exec (.sbrm f) s = goes) ∧
      (s.mReg b (f.md.extractLsb' 0 3).toNat = 0 → exec (.sbrm f) s = .next s.draw) ∧
      (s.mReg b (f.md.extractLsb' 0 3).toNat ≠ BitVec.allOnes 1024 → s.mReg b (f.md.extractLsb' 0 3).toNat ≠ 0 → exec (.sbrm f) s = s.slotFaults c sl .nonuniform 0) ∧
      (f.md.extractLsb' 0 16 ≠ 0 → exec (.loopi f) s = .next ((s.later c 0 1 [.l l ((f.md.extractLsb' 0 16).setWidth 32)]).draw)) ∧
      (f.md.extractLsb' 0 16 = 0 → ∃ u y, exec (.loopi f) s = .next u ∧ u.seq c = some y ∧ y.next = some dest ∧ ∃ p, y.pend = q.pend ++ [p] ∧ p.writes = [.l l 0]) ∧
      (b.lReg l = 0 → exec (.loopb f) s = .next s.draw) ∧
      (b.lReg l = 1 → exec (.loopb f) s = .next ((s.later c 0 1 [.l l 0]).draw)) ∧
      (b.lReg l ≠ 0 → b.lReg l ≠ 1 → ∃ u y, exec (.loopb f) s = .next u ∧ u.seq c = some y ∧ y.next = some dest ∧ ∃ p, y.pend = q.pend ++ [p] ∧ p.writes = [.l l (b.lReg l - 1)]) ∧
      ((q.arrived.isSome = true ∨ q.hdr.getLsbD 31 = true) → exec (.syncl f) s = .next ((s.setSeq c { q with syncing := true }).draw)) ∧
      (q.arrived = none → q.hdr.getLsbD 31 = false → exec (.syncl f) s = s.slotFaults c sl .illegal 0) ∧
      exec (.shalt f) s = .next ((s.setSeq c { q with st := .shalted }).draw) ∧
      (q.rstack.length < 8 → exec (.scall f) s = .next ((s.setSeq c { q with rstack := (q.pc + 64) :: q.rstack, next := some dest }).draw)) ∧
      (8 ≤ q.rstack.length → exec (.scall f) s = s.slotFaults c sl .illegal 0) ∧
      (∀ a rest, q.rstack = a :: rest → exec (.sret f) s = .next ((s.setSeq c { q with rstack := rest, next := some a }).draw)) ∧
      (q.rstack = [] → exec (.sret f) s = s.slotFaults c sl .illegal 0)) ∧
    (∀ f : RR, s.qGuard b f.g = false → ∀ i ∈ [Instr.iadd f, .sel f, .icmp f, .anym f, .cmpt f, .hqry f, .hset f, .scalew f, .scaleg f], exec i s = .next s) ∧
    (∀ f : BR, s.qGuard b f.g = false → ∀ i ∈ [Instr.sbr f, .sbrq f, .sbrm f, .loopi f, .loopb f, .syncl f, .shalt f, .scall f, .sret f], exec i s = .next s)

/-- R67, R111, R112, R382, R405-R412 (XLD, XST, XLDG, TLD, TST, TSLD, TSST, TLDX, TCPY, CFENCE, and the steps that perform an entry and complete a claim): accesses of SHARED in fixed time leave their effect for their cycle; the others enter queue C0 or C1 behind its entries, with data and elements read at issue; an entry that is performed leaves its queue; a load claim whose data is in place makes its tile the sequencer's and moves FP on. -/
def Obligations.ScalarMemoryAndCopies : Prop :=
  (∀ (s : State) (c : Nat) (sl : Slot) (q : Seq) (f : MEM), s.SlotActing c sl q f.g →
    let b := q.before
    let ea := s.xReg b f.base.toNat + f.off.signExtend 64
    let queue := fun (y : Seq) => if sl = .c1 then y.c1 else y.c0
    -- one more entry in the slot's queue, at the bundle being issued
    let enters := fun (i : Instr) (p : QWork → Prop) => ∃ (u : State) (y : Seq) (e : QEntry), exec i s = .next u ∧ u.seq c = some y ∧ queue y = queue q ++ [e] ∧ e.bundle = q.bundles ∧ e.pc = q.pc ∧
      p e.work ∧ s.sameBytes u ∧ y.xs = q.xs ∧ y.st = q.st
    (∀ d o, s.xWhere c b f .read = .ok (.shared d o) → (((s.sharedAhead c b (s.clock + 4)).loadBytes (s.seqAgt c b) false (.shared d o) (xSize f)).2) = none →
      exec (.xld f) s = .next ((s.later c 1 4 [.xread f.data.toNat (xSize f) o (f.ord == 1) f.scope.toNat]).draw) ∧
      (inSharedWindow f.sp.toNat ea = true → exec (.xldg f) s = .next ((s.later c 1 4 [.xread f.data.toNat (xSize f) o (f.ord == 1) f.scope.toNat]).draw))) ∧
    (∀ d o, s.xWhere c b f .write = .ok (.shared d o) → inSharedWindow f.sp.toNat ea = true → f.ord = 0 →
      exec (.xst f) s = .next ((s.later c 1 4 [.shStore o ((s.xBytes b f).map fun x => (x, none))]).draw)) ∧
    (∀ ps, sl = .s → q.c0.length < 128 →
      (s.xWhere c b f .write = .ok (.mem ps) → enters (.xst f) fun w => w = .xstore (s.xBytes b f) (.mem ps) ea (f.ord != 0) f.scope.toNat) ∧
      (s.xWhere c b f .read = .ok (.mem ps) → inSharedWindow f.sp.toNat ea = false → enters (.xldg f) fun w => ∃ again, w = .xload f.data.toNat (xSize f) (.mem ps) ea (f.ord != 0) f.scope.toNat again)) ∧
    (q.c0.length < 128 → q.c1.length < 128 →
      enters (.cfence f) (fun w => w = .fence f.scope.toNat) ∧
      (∀ rows ls, s.copyRows c b f = .ok (rows, ls) →
        (∀ t cl ws, s.loadDest c b f.data s.ids = .ok (t, cl, ws) → enters (.tld f) fun w => w = .load f.sz.toNat f.sp.toNat t cl rows) ∧
        (∀ t u, s.srcTile c b f.data 0 = .ok t → s.reserve c [(s.clock, t)] [] = .ok u → enters (.tst f) fun w => w = .store (compressFrom 0 (s.seqTile c b t)) f.sp.toNat rows)) ∧
      (∀ o, f.sp ≠ 4 → ea.toNat % 8 = 0 → s.resolve (s.seqAgt c b) 2 ea 128 = .ok (.shared c o) →
        let table := (s.afterSlotWrites c b).bytesWithPoison (s.seqAgt c b) false (.shared c o) 128
        let rows := (List.range 16).map fun i => wordOf (((table.map Prod.fst).drop (8 * i)).take 8)
        (∀ x ∈ table, x.2 = none) → s.gatherRows (s.seqAgt c b) f.sp.toNat rows = .ok () →
        ∀ t cl ws, s.loadDest c b f.data s.ids = .ok (t, cl, ws) → enters (.tldx f) fun w => w = .load 0 f.sp.toNat t cl rows)) ∧
    (∀ rows ls, s.copyRows c b f = .ok (rows, ls) →
      (∀ d u, s.dstTile c b f.data 0 = .ok d → s.reserve c [] [(s.clock + 7, d)] = .ok u → exec (.tsld f) s = u.slotLeaves c sl 8 [.tread d f.sz.toNat (sharedOffs ls)]) ∧
      (∀ t u, s.srcTile c b f.data 0 = .ok t → s.reserve c [(s.clock, t)] [] = .ok u → exec (.tsst f) s = u.slotLeaves c sl 8
        ((sharedOffs ls).zipIdx.map fun x => .shStore x.1 (((tileToBytes (compressFrom 0 (s.seqTile c b t))).drop (256 * x.2)).take 256))))) ∧
  (∀ (s : State) (c : Nat) (sl : Slot) (q : Seq) (f : TILE) (a d : Nat) (u : State), s.SlotActing c sl q f.g → s.srcTile c q.before f.ta f.hd.toNat = .ok a →
    s.dstTile c q.before f.dt f.hd.toNat = .ok d → s.reserve c [(s.clock, a)] [(s.clock + 3, d)] = .ok u →
    exec (.tcpy f) s = u.slotLeaves c sl 4 [.elems d (numberFrom 0 (s.seqTile c q.before a))]) ∧
  (∀ (s : State) (c n : Nat) (q : Seq), s.clocked = true → s.arg.core = c → s.arg.id = n → s.seq c = some q →
    (∀ e, s.readyEntry c n = some e → e.sent = false → s.workOut e.id = false →
      let g := { s.queueAgt c n q with work := e.id }
      let gone := fun (u : State) => ∃ y, u.seq c = some y ∧ (y.c0 = q.c0.filter fun x => x.id != e.id) ∧ (y.c1 = q.c1.filter fun x => x.id != e.id)
      (∀ scope, e.work = .fence scope → ∃ u, exec .seqQueueEntryComplete s = .next u ∧ gone u ∧ s.sameBytes u) ∧
      (∀ data p addr rel scope, e.work = .xstore data (.mem [p]) addr rel scope → p.isPeer = false → p.len = data.length → s.memWf → s.wholeLines → s.severed g (.mem [p]) = false →
        s.writeLost (pteKey p.pte) (s.migTarget p.pa) p.len = [] →
        ∃ u, exec .seqQueueEntryComplete s = .next u ∧ gone u ∧ (∀ i < data.length, u.physByte (s.migTarget p.pa + i) = data.getD i 0) ∧
          ∀ x, (x < s.migTarget p.pa ∨ s.migTarget p.pa + p.len ≤ x) → u.physByte x = s.physByte x) ∧
      (∀ reg size st addr acq scope bs, e.work = .xload reg size st addr acq scope false → size ≤ 8 → (if acq then s.acquireAt c g.ctx scope else s).pull g e.id (!acq || scope == 0) [(⟨0, addr, size⟩, st)] = .bytes bs →
        bs.findSome? Prod.snd = none → ∃ u y, exec .seqQueueEntryComplete s = .next u ∧ gone u ∧ u.seq c = some y ∧ y.xs.find reg = some (BitVec.ofNat 64 (leNat ((bs.map Prod.fst).take 8))) ∧ s.sameData u) ∧
      (∀ xp sp t rows sts bs, e.work = .load xp sp t false rows → s.reachAll g .read (rows.map fun a => ⟨sp, a, (tileRowsOf xp).2⟩) = .ok sts →
        s.pull g e.id true sts = .bytes bs →
        ∃ u, exec .seqQueueEntryComplete s = .next u ∧ gone u ∧ u.tile c t = { s.tile c t with elems := tileFromBytes xp bs, st := .owned, hold := 48 } ∧ s.sameData u)) ∧
    (∀ k h, (q.claims.find? fun x => x.handle == n) = some k → q.handles.find n = some h → k.done = true →
      ∃ u y g, exec .loadClaimComplete s = .next u ∧ u.seq c = some y ∧ (y.claims = q.claims.filter fun x => x.id != k.id) ∧ y.handles.find n = some g ∧ g.fp = (h.fp + 1) % (2 * h.n) ∧
        g.dp = h.dp ∧ u.tile c k.tile = { s.tile c k.tile with st := .owned, hold := 48 }))

/-- R71, R304, R305, R345, R373, R375, R392-R398 (every word of the V slots): the operation on the elements the mask selects, of the tiles the operands name, written with their events to the destination's tile after the word's latency; a comparison's outcomes go to an m register; VMAXE's largest exponents go to the slot's own latch; a word whose pipeline is taken is ILLEGAL, and one that reads poison stops the sequencer. -/
def Obligations.VectorSlot : Prop :=
  ∀ (s : State) (c : Nat) (sl : Slot) (q : Seq) (f : TILE), s.SlotActing c sl q f.g →
    let b := q.before
    let sel := s.selects q f
    let el := fun (t i : Nat) => s.elAt c q t i
    -- words over the elements of n tiles
    (∀ ta tb tc d u, s.VReady c sl q f [f.ta, f.tb, f.tc] 4 [ta, tb, tc] d u →
      exec (.vfma f) s = u.vWritesTo c sl 4 d (sel.map fun i => (i, fltEl f (fun fm r x y z => fFma fm r false false x y z) b i (el ta i) (el tb i) (el tc i)))) ∧
    (∀ ta tb d u, s.VReady c sl q f [f.ta, f.tb] 4 [ta, tb] d u →
      let gives := fun (op : VEl) => u.vWritesTo c sl 4 d (sel.map fun i => (i, op i (el ta i) (el tb i) 0))
      (∀ e ∈ ([(.vadd, fun fm r x y _ => fAdd fm r x y), (.vsub, fun fm r x y _ => fSub fm r x y), (.vmul, fun fm r x y _ => fMul fm r x y),
          (.vscale, fun fm r x y _ => fScale fm r x (BitVec.ofNat 32 y).toInt)] : List ((TILE → Instr) × (Fmt → Rnd → Nat → Nat → Nat → FRes))),
        exec (e.1 f) s = gives (fltEl f e.2 b)) ∧
      (∀ e ∈ ([(.viadd, fun _ x y => x + y), (.vimul, fun _ x y => x * y), (.vshr, fun _ x y => x / 2 ^ ((y % 32).toNat))] : List ((TILE → Instr) × (Bool → Int → Int → Int))),
        exec (e.1 f) s = gives (intEl f e.2 b)) ∧
      (∀ e ∈ ([(.vmin, fun fm _ x y _ => fMin fm x y, fun _ x y => min x y), (.vmax, fun fm _ x y _ => fMax fm x y, fun _ x y => max x y)] :
          List ((TILE → Instr) × (Fmt → Rnd → Nat → Nat → Nat → FRes) × (Bool → Int → Int → Int))),
        (tyFlt f.ty = true → exec (e.1 f) s = gives (fltEl f e.2.1 b)) ∧ (tyFlt f.ty = false → exec (e.1 f) s = gives (intEl f e.2.2 b))) ∧
      (∀ e ∈ ([(.vand, (· &&& ·)), (.vor, (· ||| ·)), (.vxor, (· ^^^ ·)), (.vshl, fun x y => x * 2 ^ (y % 32))] : List ((TILE → Instr) × (Nat → Nat → Nat))),
        exec (e.1 f) s = gives (fun _ x y _ => ⟨e.2 x y % 2 ^ 32, []⟩)) ∧
      exec (.vsel f) s = gives (fun i x y _ => ⟨if (s.mReg b (f.tc.toNat - 0x88)).getLsbD i = true then x else y, []⟩)) ∧
    (∀ ta d u, s.VReady c sl q f [f.ta] 4 [ta] d u →
      (tyFlt f.ty = true →
        exec (.vabs f) s = u.vWritesTo c sl 4 d (sel.map fun i => (i, fltEl f (fun fm _ x _ _ => fAbsBits fm x) b i (el ta i) 0 0)) ∧
        exec (.vrelu f) s = u.vWritesTo c sl 4 d (sel.map fun i => (i, fltEl f (fun fm _ x _ _ => fRelu fm x) b i (el ta i) 0 0))) ∧
      (tyFlt f.ty = false →
        exec (.vabs f) s = u.vWritesTo c sl 4 d (sel.map fun i => (i, intEl f (fun _ x _ => (x.natAbs : Int)) b i (el ta i) 0 0)) ∧
        exec (.vrelu f) s = u.vWritesTo c sl 4 d (sel.map fun i => (i, intEl f (fun _ x _ => max x 0) b i (el ta i) 0 0))) ∧
      exec (.vmov f) s = u.vWritesTo c sl 4 d (sel.map fun i => (i, ⟨el ta i, []⟩)) ∧
      exec (.vrotr f) s = u.vWritesTo c sl 4 d (sel.map fun i => (i, ⟨el ta (i / 64 * 64 + (i % 64 + f.tb.toNat) % 64), []⟩)) ∧
      exec (.vbcr f) s = u.vWritesTo c sl 4 d (sel.map fun i => (i, ⟨el ta (i / 64 * 64 + f.tb.toNat), []⟩))) ∧
    (∀ ta d u, s.VReady c sl q f [f.ta] 12 [ta] d u →
      ∀ e ∈ ([(.vexp2, fun fm r x _ _ => fExp2 fm r x), (.vtanh, fun fm r x _ _ => fTanh fm r x), (.vrcp, fun fm r x _ _ => fRcp fm r x), (.vrsq, fun fm r x _ _ => fRsq fm r x)] :
          List ((TILE → Instr) × (Fmt → Rnd → Nat → Nat → Nat → FRes))),
        exec (e.1 f) s = u.vWritesTo c sl 12 d (sel.map fun i => (i, fltEl f e.2 b i (el ta i) 0 0))) ∧
    (∀ d u, s.VReady c sl q f [] 4 [] d u → exec (.viota f) s = u.vWritesTo c sl 4 d (sel.map fun i => (i, ⟨if f.ax = 1 then i / 64 else i % 64, []⟩))) ∧
    -- across columns and rows
    (∀ ta d u, s.VReady c sl q f [f.ta] 8 [ta] d u →
      exec (.vrotc f) s = u.vWritesTo c sl 8 d (sel.map fun i => (i, ⟨el ta ((i / 64 + f.tb.toNat) % 16 * 64 + i % 64), []⟩)) ∧
      exec (.vbcc f) s = u.vWritesTo c sl 8 d (sel.map fun i => (i, ⟨el ta (f.tb.toNat * 64 + i % 64), []⟩))) ∧
    (∀ ta d u, s.VReady c sl q f [f.ta] 6 [ta] d u →
      exec (.vredr f) s = u.vWritesTo c sl 6 d (sel.map fun i => (i, VOut.of (reduceEls f.ty f.sub ((List.range 64).map fun j => el ta (i / 64 * 64 + j)))))) ∧
    (∀ ta d u, s.VReady c sl q f [f.ta] 10 [ta] d u →
      exec (.vredc f) s = u.vWritesTo c sl 10 d (sel.map fun i => (i, VOut.of (reduceEls f.ty f.sub ((List.range 16).map fun j => el ta (j * 64 + i % 64)))))) ∧
    -- conversions between a 32-bit tile and a part of a packed view
    (let part := (f.tb.extractLsb' 5 3).toNat
     let st := f.tb.extractLsb' 0 5
     let elemOf := fun (n : Nat) (i : Nat) => i / 64 * 64 + (64 * part + i % 64) / n
     let posOf := fun (n : Nat) (i : Nat) => (64 * part + i % 64) % n
     -- the words a narrowing conversion leaves: each selected element replaces its position
     let narrowed := fun (d : Nat) (conv : Nat → Nat → Nat → FRes) =>
       let n := positions f.ty
       let of_ := fun (e : Nat) => sel.filter fun i => elemOf n i == e
       let r := fun (ta i : Nat) => conv i (16 * elemOf n i + posOf n i) (el ta i)
       fun (ta : Nat) => ((List.range 1024).filter fun e => !(of_ e).isEmpty).map fun e =>
         (e, (⟨(of_ e).foldl (fun w i => setPacked f.ty w (posOf n i) (r ta i).bits) (el d e), (of_ e).map fun i => (posOf n i, (r ta i).ev)⟩ : VOut))
     (∀ ta d u, ty32 f.ty = true → s.VReady c sl q f [f.ta] 4 [ta] d u →
       exec (.vcvt f) s = u.vWritesTo c sl 4 d (sel.map fun i =>
         (i, VOut.of (cvtElem (numTyOf f.ty) (numTyOf st) (b.rnd f.rm (16 * i)) f.nsat (packedAt st (el ta (elemOf (positions st) i)) (posOf (positions st) i)))))) ∧
     (∀ ta d u, ty32 f.ty = false → (if pipeOf sl = 0 then q.busyV0 else q.busyV1) ≤ s.clock → s.srcTile c b f.ta f.hd.toNat = .ok ta → s.dstTile c b f.dt f.hd.toNat = .ok d →
       s.reserve c (readsAt s.clock [ta, d]) [(s.clock + 3, d)] = .ok u → (∀ t ∈ [ta, d], ∀ x ∈ s.seqTile c b t, x.poison = none) →
       exec (.vcvt f) s = u.vWritesTo c sl 4 d (narrowed d (fun _ e x => cvtElem (numTyOf f.ty) (numTyOf st) (b.rnd f.rm e) f.nsat x) ta) ∧
       exec (.vcvtq f) s = u.vWritesTo c sl 4 d (narrowed d (fun i e x => cvtScaled (numTyOf f.ty) (b.rnd f.rm e) f.nsat (b.latch (pipeOf sl) (2 * (i / 64) + i % 64 / 32)) x) ta))) ∧
    -- comparisons and largest exponents
    (∀ ta tb u, (if pipeOf sl = 0 then q.busyV0 else q.busyV1) ≤ s.clock → s.vSrcs c b f.hd.toNat [f.ta, f.tb] = .ok [ta, tb] → s.reserve c (readsAt s.clock [ta, tb]) [] = .ok u →
      (∀ t ∈ [ta, tb], ∀ x ∈ s.seqTile c b t, x.poison = none) →
      ∃ mask bits : BitVec 1024, exec (.vcmp f) s = (u.vOccupy c sl).slotLeaves c sl 4 [.m (f.dt.toNat - 0x88) mask bits] ∧
        (∀ i < 1024, mask.getLsbD i = decide (i ∈ sel) ∧
          (i ∈ sel → bits.getLsbD i = if f.ty = 8 then fCmp .f32 f.sub (el ta i) (el tb i) else intCmp 32 (f.ty == 0) f.sub (BitVec.ofNat 64 (el ta i)) (BitVec.ofNat 64 (el tb i))))) ∧
    (∀ ta u y, (if pipeOf sl = 0 then q.busySU0 else q.busySU1) ≤ s.clock → s.srcTile c b f.ta f.hd.toNat = .ok ta → s.reserve c (readsAt s.clock [ta]) [] = .ok u → u.seq c = some y →
      (∀ x ∈ s.seqTile c b ta, x.poison = none) →
      exec (.vmaxe f) s = (u.setSeq c (if pipeOf sl = 0 then { y with busySU0 := s.clock + 1 } else { y with busySU1 := s.clock + 1 })).slotLeaves c sl 3
        ((List.range 32).map fun n => .latch (pipeOf sl) n (maxeEntry (emaxOf f.ty) ((List.range 32).map fun j => el ta (32 * n + j))))) ∧
    -- a pipeline still taken, and poison
    (s.clock < (if pipeOf sl = 0 then q.busyV0 else q.busyV1) → ∀ i ∈ [Instr.vadd f, .vfma f, .vcmp f, .vsel f, .vcvt f, .vcvtq f, .vrotr f, .vredr f, .vmov f, .viota f], exec i s = s.slotFaults c sl .illegal 0) ∧
    (∀ ta d u n, (if pipeOf sl = 0 then q.busyV0 else q.busyV1) ≤ s.clock → s.srcTile c b f.ta f.hd.toNat = .ok ta → s.dstTile c b f.dt f.hd.toNat = .ok d → s.reserve c (readsAt s.clock [ta]) [(s.clock + 3, d)] = .ok u →
      (sel.findSome? fun i => ((s.seqTile c b ta).getD i {}).poison) = some n → exec (.vmov f) s = .next ((s.seqHalt c (Slot.code sl) q.pc n).draw))

/-- R71, R300-R303, R374, R399-R403 (every word of the M slot, and a loop's later steps): element (i, j) of the accumulator takes one K-step of row i of A and column j of B, with their scales; a loop performs one step every four cycles with quarters and depths as the loop counts, and leaves its accumulator after the last; MZERO clears, MSTAT marks NaNs and infinities; a word issued while the engine is taken is ILLEGAL. -/
def Obligations.MatrixSlot : Prop :=
  (∀ (s : State) (c : Nat) (sl : Slot) (q : Seq) (f : TILE), s.SlotActing c sl q f.g →
    let b := q.before
    let tile := fun (t : Nat) => (s.mTile c b t).toArray
    let clean := fun (t : Nat) => ∀ x ∈ s.mTile c b t, x.poison = none
    let scaled := f.ty == 15
    -- one K-step of quarter kq over tiles a, b and, for E2M1, scales
    let kstep := fun (tern : Bool) (kq ta tb : Nat) (sc : Option Nat) (d : Nat) =>
      let k := kShape tern f.ty
      (List.range 1024).map fun e =>
        let i := e / 64
        let j := e % 64
        let colB := if tern then colTri k (tile tb) j else colFields f.ty k (tile tb) j
        (e, VOut.of (kElem tern f.ty (elAt (tile d) i j).bits.toNat (rowFields f.ty k (tile ta) kq i) colB
          (match sc with | some m => (List.range 4).map fun n => scaleAt (tile m) i (4 * kq + n) | none => [])
          (match sc with | some m => (List.range 4).map fun n => scaleAt (tile m) (4 * kq + n) (64 + j) | none => [])))
    (b.mloop = none → q.busyM ≤ s.clock →
      (∀ ta tb d u, s.vSrcs c b f.hd.toNat [f.ta, f.tb] = .ok [ta, tb] → s.needOwn c b f.dt.toNat = .ok d → s.reserve c (readsAt s.clock [ta, tb]) [(s.clock + 7, d)] = .ok u →
        clean ta → clean tb → clean d →
        (scaled = false → exec (.mma f) s = (u.mOccupy c 4).slotLeaves c sl 8 (vResult d (kstep false f.kq ta tb none d))) ∧
        exec (.mtrn f) s = (u.mOccupy c 4).slotLeaves c sl 8 (vResult d (kstep true f.kq ta tb none d))) ∧
      (∀ ta tb tc d u, scaled = true → s.vSrcs c b f.hd.toNat [f.ta, f.tb, f.tc] = .ok [ta, tb, tc] → s.needOwn c b f.dt.toNat = .ok d →
        s.reserve c (readsAt s.clock [ta, tb, tc]) [(s.clock + 7, d)] = .ok u → clean ta → clean tb → clean tc → clean d →
        exec (.mma f) s = (u.mOccupy c 4).slotLeaves c sl 8 (vResult d (kstep false f.kq ta tb (some tc) d))) ∧
      (∀ d u, s.dstTile c b f.dt f.hd.toNat = .ok d → s.reserve c [] [(s.clock + 3, d)] = .ok u →
        exec (.mzero f) s = (u.mOccupy c 1).slotLeaves c sl 4 [.elems d ((List.range 1024).map fun i => (i, {}))]) ∧
      (∀ ta u, s.srcTile c b f.ta f.hd.toNat = .ok ta → s.reserve c (readsAt s.clock [ta]) [] = .ok u → clean ta →
        ∃ bits : BitVec 1024, exec (.mstat f) s = (u.mOccupy c 1).slotLeaves c sl 4 [.m (f.dt.toNat - 0x88) (BitVec.allOnes 1024) bits] ∧
          ∀ i < 1024, bits.getLsbD i = decide (((s.mTile c b ta).getD i {}).bits.toNat / 2 ^ 23 % 256 = 255)) ∧
      -- loops of n steps
      (∀ tern : Bool, (tern = true ∨ scaled = false) →
        let word := if tern then Instr.mloopt f else Instr.mloop f
        let n := TILE.steps f
        let k := kShape tern f.ty
        ∀ aT bT d u, aT.length = n → bT.length = n →
          (∀ i < n, s.srcTile c b f.ta ((f.hd.extractLsb' 2 2).toNat * ((f.kq + i) / k.quarters)) = .ok (aT.getD i 0)) →
          (∀ i < n, s.srcTile c b f.tb ((f.hd.extractLsb' 0 2).toNat * i) = .ok (bT.getD i 0)) →
          s.needOwn c b f.dt.toNat = .ok d →
          s.reserve c ((List.range n).flatMap fun i => readsAt (s.clock + 4 * i) [aT.getD i 0, bT.getD i 0]) [(s.clock + 4 * n + 3, d)] = .ok u →
          clean (aT.getD 0 0) → clean (bT.getD 0 0) → clean d →
          let rs := kstep tern (f.kq % k.quarters) (aT.getD 0 0) (bT.getD 0 0) none d
          let acc : Assoc Elem := rs.map fun r => (r.1, { bits := BitVec.ofNat 32 r.2.bits })
          (n = 1 → exec word s = ((u.mOccupy c 4).later c 4 4 ((vResult d rs).drop 1)).slotLeaves c .m 8 [.elems d acc]) ∧
          (1 < n → ∃ t y l, exec word s = .next t ∧ t.seq c = some y ∧ y.busyM = s.clock + 4 * n ∧ y.mloop = some l ∧ l.word = f ∧ l.ternary = tern ∧ l.next = 1 ∧
            l.nextCycle = s.clock + 4 ∧ l.accTile = d ∧ l.aTiles = aT ∧ l.bTiles = bT ∧ l.acc = acc ∧ s.sameBytes t ∧ y.xs = q.xs))) ∧
    ((s.clock < q.busyM ∨ b.mloop.isSome = true) → ∀ i ∈ [Instr.mma f, .mtrn f, .mloop f, .mloopt f, .mzero f, .mstat f], exec i s = s.slotFaults c sl .illegal 0)) ∧
  (∀ (s : State) (c : Nat) (q : Seq) (l : MLoop), s.clocked = true → s.arg.core = c → s.seq c = some q → q.mloop = some l → l.nextCycle ≤ s.clock → s.loopHeld q l = false → l.released = [] →
    (l.ternary = true ∨ l.word.ty ≠ 15) →
    let f := l.word
    let k := kShape l.ternary f.ty
    let other : Seq := { q with pend := q.pend.filter fun p => p.slot != 4 }
    let ta := l.aTiles.getD l.next 0
    let tb := l.bTiles.getD l.next 0
    let kq := (f.kq + l.next) % k.quarters
    (∀ t ∈ [ta, tb], ∀ x ∈ s.seqTile c other t, x.poison = none) → (∀ x ∈ expand l.acc, x.poison = none) →
    let acc : Assoc Elem := (List.range 1024).map fun e =>
      let A := (s.seqTile c other ta).toArray
      let B := (s.seqTile c other tb).toArray
      (e, { bits := BitVec.ofNat 32 (kElem l.ternary f.ty (elAt (expand l.acc).toArray (e / 64) (e % 64)).bits.toNat (rowFields f.ty k A kq (e / 64))
        (if l.ternary then colTri k B (e % 64) else colFields f.ty k B (e % 64)) [] []).bits })
    ∃ t y, exec .mloopStep s = .next t ∧ t.seq c = some y ∧
      (l.next + 1 < TILE.steps f → (∃ fin, y.mloop = some { l with next := l.next + 1, nextCycle := l.nextCycle + 4, acc := acc, final := fin }) ∧ y.pend = q.pend) ∧
      (TILE.steps f ≤ l.next + 1 → y.mloop = none ∧ ∃ p, y.pend = q.pend ++ [p] ∧ p.due = s.clock + 8 ∧ p.writes = [.elems l.accTile acc]))

/-- R201, R204, R271-R274, R309, R324, R372, R373, R388 (SEQUENCER_BUNDLE_ISSUE, SEQ_RESULT_WRITE, SYNCL_RESTART, SEQUENCER_FAULT_DELIVERY): a bundle whose waits are met runs its slots and the sequencer goes on at the address its branch or the next bundle gives; a bundle that meets a fault has no effect but the sequencer's fault, which stops it with its cause, slot and address; a result is written in its cycle; SYNCL's line starts a stalled sequencer again; a fault is delivered to the block's lowest live warp as a trap. -/
def Obligations.SequencerSteps : Prop :=
  (∀ (s : State) (c : Nat) (q : Seq) (b : Block), s.clocked = true → s.arg.core = c → s.seq c = some q → q.st = .running → q.syncing = false → q.haltNext = none → q.mpoison = none →
    s.block q.block = some b → b.st = .resident → b.stopping = false →
    ∀ ws t, (s.setSeq c q).fetchWords c q 8 q.pc.toNat [] = .words ws t →
      let h := ws.getD 0 0
      bundleHeaderOk h (slotWord ws .s) = true → (∀ w ∈ headerWaits h, (q.handles.find (waitHandle w)).isSome = true) →
      ((headerWaits h).all q.waitMet = false → exec .sequencerBundleIssue s = .next ((t.setSeq c { q with taking := false }).draw)) ∧
      ((headerWaits h).all q.waitMet = true → t.stakeHolds c q ws = false → (t.sMisses c q ws).1 = [] →
        (∀ n, staticFault h ws = some n → exec .sequencerBundleIssue s = .next ((t.seqFault c .illegal n 0).draw)) ∧
        (staticFault h ws = none →
          let slots := Slot.all.filterMap fun sl => (slotInstr ws sl).map fun i => (sl, i)
          let r := (t.setSeq c { q with next := none, hdr := h }).runSlots c slots
          slots.length = 7 ∧
          (∀ y, r.seq c = some y → y.st ≠ .halted → ∃ u z, exec .sequencerBundleIssue s = .next u ∧ u.seq c = some z ∧ z.pc = y.next.getD (y.pc + 64) ∧ z.bundles = y.bundles + 1 ∧ z.pend = y.pend ∧ z.xs = y.xs ∧ u.mem = r.mem) ∧
          (∀ y, r.seq c = some y → y.st = .halted → exec .sequencerBundleIssue s = .next ((t.stopBundle r c q).draw))))) ∧
  (∀ (s : State) (c : Nat) (q : Seq) (b : Block) (cause : Cause) (sl addr : Nat), s.seq c = some q → s.block q.block = some b → sl < 8 → s.engines.flatMap Prod.snd = [] →
    ∃ y v, (s.seqFault c cause sl addr).seq c = some y ∧ y.st = .halted ∧ y.xs = q.xs ∧ y.bundles = q.bundles ∧ (s.seqFault c cause sl addr).block q.block = some v ∧
      (v.finfo.extractLsb' 0 8).toNat = cause.code ∧ (v.finfo.extractLsb' 8 3).toNat = sl ∧ v.fpc = q.pc ∧ v.faddr = BitVec.ofNat 64 addr ∧ v.abandoned = true) ∧
  (∀ (s : State) (c : Nat) (q : Seq) (p : SeqPend), s.clocked = true → s.arg.core = c → s.seq c = some q → (q.pend.find? fun x => x.id == s.arg.id) = some p →
    (s.clock + 1 < p.due → exec .seqResultWrite s = .next s) ∧
    (p.due ≤ s.clock + 1 → q.savesLatch p = false → ∃ u y, exec .seqResultWrite s = .next u ∧ u.seq c = some y ∧ (y.pend = q.pend.filter fun x => x.id != p.id) ∧ y.pc = q.pc ∧
      (∀ n v, p.writes = [.x n v] → y.xs.find n = some v ∧ s.sameBytes u) ∧
      (∀ n v, p.writes = [.q n v] → y.qs.find n = some v) ∧
      (∀ n mask bits, p.writes = [.m n mask bits] → y.ms.find n = some ((q.ms.getD n 0 &&& ~~~ mask) ||| (bits &&& mask))) ∧
      (∀ n v, p.writes = [.l n v] → y.ls.find n = some v) ∧
      (∀ n h, p.writes = [.hset n h] → y.handles.find n = some h) ∧
      (∀ n k h, p.writes = [.hadvp n k] → q.handles.find n = some h → y.handles.find n = some { h with fp := (h.fp + k) % (2 * h.n) }) ∧
      (∀ n k h, p.writes = [.hadvc n k] → q.handles.find n = some h → ∃ g, y.handles.find n = some g ∧ g.dp = (h.dp + k) % (2 * h.n) ∧ g.fp = h.fp ∧ g.base = h.base ∧ g.n = h.n) ∧
      (∀ t, p.writes = [.take t] → (u.tile c t).st = .owned ∧ (u.tile c t).hold = 48 ∧ (u.tile c t).elems = (s.tile c t).elems) ∧
      (∀ t es, p.writes = [.elems t es] → (s.tile c t).st ≠ .free → (u.tile c t).elems = overlayTile es (s.tile c t).elems ∧ ∀ t', t' ≠ t → u.tile c t' = s.tile c t'))) ∧
  (∀ (s : State) (c : Nat) (q : Seq) (n : Nat), s.clocked = true → s.arg.core = c → s.seq c = some q → q.restart = some n →
    (n ≤ s.clock → ∃ u, exec .synclRestart s = .next u ∧ u.seq c = some { q with restart := none, arrived := none, raised := false, syncing := false } ∧ s.sameBytes u) ∧
    (s.clock < n → exec .synclRestart s = .next s)) ∧
  (∀ (s : State) (c k : Nat) (q : Seq) (b : Block) (r : SeqFaultRec) (w : Warp), s.clocked = true → s.arg.core = c → s.seq c = some q → q.fault = some r → s.block q.block = some b → q.landed = true → r.readyAt ≤ s.clock →
    s.faultTarget b = some k → s.deliverable b k = true → (s.warps.find (homeKey c k)).isSome = false → (s.setSeq c { q with fault := none }).warp c k = some w →
    exec .sequencerFaultDelivery s = .next (((s.setSeq c { q with fault := none }).takeTrap c k
      { cause := .sequencerFault, lane := lowLane w.active, addr := r.pc.toNat, scause := r.cause, sslot := r.slot }).draw))

/-- R240, R241, R246-R251, R256-R258 (DOMAIN_DEFINITION, SIGHT, PRESENT, CANCEL, DONE, CNRES, KEEPALIVE, COLLATOR_REPLICATION, REPLICATION_ACK, COLLATOR_TAKEOVER, STANDBY_SEARCH): a descriptor that keeps R240 defines its domain; the collator gives an unseen key the next number and tells every member, marks presences, and decides GO with the last; a cancelled number stays cancelled and a key past GO is too late; a number is retired with its last DONE; a reservation takes consecutive numbers; every change goes first to the standby, which acknowledges it; a standby that hears nothing for 2 ms becomes the collator under the next term. That a message comes from the package itself as an input, and the messages' order in a decision, are the model's choices (log entries 8 and 10). -/
def Obligations.CollatorDecides : Prop :=
  (∀ (s : State) (x : Ctx) (t : List (Byte × Option Nat)), s.clocked = true → s.ctx s.arg.ctx = some x → s.arg.flag = false → s.arg.bytes.length = 64 →
    let b := s.arg.bytes
    let domid := fieldAt b 0x04 2
    let m := fieldAt b 0x06 2
    let rank := fieldAt b 0x08 2
    let ids := (List.range m).map fun i => fieldAt (t.map Prod.fst) (2 * i) 2
    (domid < 4096 → 1 ≤ m → m ≤ 32768 → rank < m → fieldAt b 0x0A 6 = 0 → fieldAt b 0x20 32 = 0 → s.rankTable s.arg.ctx (fieldAt b 0x10 8) (2 * m) = .bytes t → (∀ y ∈ t, y.2 = none) →
      (∀ i ∈ ids, i < 32768) → ids.Nodup → ids.getD rank 32768 = s.pkgid →
      let a := (fieldAt b 0x00 4 * 0x9E3779B1 + domid * 0x85EBCA77) % 2 ^ 32 % m
      ∃ u : State, exec .domainDefinition s = .next u ∧ u.hostReply = .ok ∧
        u.dom s.arg.ctx domid = some { ctx := s.arg.ctx, domid := domid, jobid := fieldAt b 0x00 4, m := m, rank := rank, rtab := ids, digest := BitVec.ofNat 64 (fieldAt b 0x18 8), term := 1, collator := a, standby := if m = 1 then none else some ((a + 1) % m), turn := 1, nextCn := 1, lastHeard := s.clock } ∧
        (∀ c n, (c, n) ≠ (s.arg.ctx, domid) → u.dom c n = s.dom c n) ∧ s.sameBytes u ∧ u.queues = s.queues) ∧
    ((4096 ≤ domid ∨ m = 0 ∨ 32768 < m ∨ m ≤ rank ∨ fieldAt b 0x0A 6 ≠ 0) → exec .domainDefinition s = .next { ({ s with defining := s.defining.filter fun y => y.1 != s.arg.ctx } : State).pxDrop (rankWork s.arg.ctx) with hostReply := .rejected 0 })) ∧
  (∀ (s : State) (m : CollMsg) (d : Domain), s.Asked m d → 1 ≤ d.m →
    let seen := (m.rank, m.bad, m.params)
    -- a number as its presences leave it
    let settle := fun (n : Number) => if n.presences.length = d.m then ({ n with st := .goSent, outcome := n.verdict } : Number) else n
    (d.latest m.key = none → d.number d.nextCn = none → d.numbers.length < 65536 → ∃ (u : State) (D : Domain), exec .sight s = .next u ∧ u.dom m.ctx m.domid = some D ∧
      D.nextCn = cnSucc d.nextCn ∧ D.numbers = d.numbers ++ [settle { cn := d.nextCn, key := m.key, presences := if m.present then [seen] else [] }] ∧
      u.decided d D (d.everyone .assigned (d.assignedMsg m.key d.nextCn 1)) ∧ D.members = d.members ∧ D.turn = d.turn ∧ s.sameBytes u) ∧
    (d.latest m.key = none → d.number d.nextCn = none → d.numbers.length < 65536 → ∃ (u : State) (D : Domain), exec .collationCancel s = .next u ∧ u.dom m.ctx m.domid = some D ∧
      D.nextCn = cnSucc d.nextCn ∧ D.numbers = d.numbers ++ [{ cn := d.nextCn, key := m.key, st := .cancelled, outcome := .cancel }]) ∧
    (∀ n, d.latest m.key = none → 65536 ≤ d.numbers.length → n = { d with held := [(Instr.sight, m)] } → ∃ (u : State) (D : Domain), exec .sight s = .next u ∧ u.dom m.ctx m.domid = some D ∧
      D.held = n.held ∧ D.numbers = d.numbers ∧ D.nextCn = d.nextCn) ∧
    (∀ n, d.number m.cn = some n → n.st = .assigned → n.has m.rank = false → ∃ (u : State) (D : Domain), exec .present s = .next u ∧ u.dom m.ctx m.domid = some D ∧
      (let n1 := settle { n with presences := n.presences ++ [seen] }
       D.number m.cn = some n1 ∧ (∀ c, c ≠ m.cn → D.number c = d.number c) ∧ D.nextCn = d.nextCn ∧
       (n.presences.length + 1 = d.m → u.decided d D (d.everyone .go (d.goMsg n1))))) ∧
    (∀ n, d.number m.cn = some n → (n.st = .goSent ∨ (n.st = .assigned ∧ n.has m.rank = true)) → ∃ (u : State) (D : Domain), exec .present s = .next u ∧ u.dom m.ctx m.domid = some D ∧
      D.numbers = d.numbers ∧ u.stoxia = s.stoxia ∧ u.inbox = s.inbox) ∧
    (∀ n, d.latest m.key = some n → ∃ (u : State) (D : Domain), exec .collationCancel s = .next u ∧ u.dom m.ctx m.domid = some D ∧
      (n.st = .assigned → (let n1 : Number := { n with st := .cancelled, outcome := .cancel }
        D.number n.cn = some n1 ∧ u.decided d D (d.everyone .go (d.goMsg n1) ++ [d.replyTo m .honoured]))) ∧
      (n.st = .cancelled → D.numbers = d.numbers ∧ u.decided d D [d.replyTo m .honoured]) ∧
      (n.st = .goSent → D.numbers = d.numbers ∧ u.decided d D [d.replyTo m .tooLate])) ∧
    (∀ n, d.number m.cn = some n → ∃ (u : State) (D : Domain), exec .done s = .next u ∧ u.dom m.ctx m.domid = some D ∧
      (let ranks := if n.done.contains m.rank then n.done else m.rank :: n.done
       (n.st ≠ .assigned → ranks.length = d.m → D.number m.cn = none) ∧
       ((n.st = .assigned ∨ ranks.length ≠ d.m) → D.number m.cn = some { n with done := ranks }))) ∧
    (s.arg.flag = true → d.numbers.length + m.range ≤ 65536 → ∃ (u : State) (D : Domain), exec .cnres s = .next u ∧ u.dom m.ctx m.domid = some D ∧
      D.nextCn = cnAfter d.nextCn m.range ∧ D.numbers.length = d.numbers.length + m.range ∧
      (∀ i < m.range, D.numbers[d.numbers.length + i]? = some { cn := cnAfter d.nextCn i, key := m.key + BitVec.ofNat 64 i }) ∧
      u.decided d D (d.everyone .assigned { d.assignedMsg m.key d.nextCn m.range with present := true, bad := m.rank }))) ∧
  (∀ (n : Number), n.presences ≠ [] →
    (n.verdict = .run ↔ ∀ p ∈ n.presences, p.2.1 = 0 ∧ ∀ q ∈ n.presences, q.2.2 = p.2.2) ∧
    ((∃ p ∈ n.presences, p.2.1 ≠ 0) → ∃ p ∈ n.presences, p.2.1 ≠ 0 ∧ n.verdict = .fail p.2.1 ∧ ∀ q ∈ n.presences, q.2.1 = 0 ∨ p.2.1 ≤ q.2.1) ∧
    ((∀ p ∈ n.presences, p.2.1 = 0) → (∃ p ∈ n.presences, ∃ q ∈ n.presences, p.2.2 ≠ q.2.2) → n.verdict = .fail 5)) ∧
  (∀ (s : State) (d : Domain), s.clocked = true → s.arg.flag = false → s.dom s.arg.ctx s.arg.dom = some d →
    ((s.arg.len = 0 ∨ 4096 < s.arg.len ∨ s.arg.bits ≠ 0) → exec .cnres s = .next { s with cnresDone := 0 }) ∧
    (1 ≤ s.arg.len → s.arg.len ≤ 4096 → s.arg.bits = 0 → d.collator ≠ d.rank → 
      exec .cnres s = .next { s with stoxia := s.stoxia ++ [.coll (d.rtab.getD d.collator 0) .cnres { d.msg with key := s.arg.value, range := s.arg.len }] })) ∧
  (∀ (s : State) (m : CollMsg) (d : Domain), s.Hears m d →
    (let h := d.heard m.rank s.clock
     exec .keepalive s = .next (s.setDom (if d.rank = d.collator then h else h.noteTop m.cn))) ∧
    (m.digest ≠ d.digest → d.rank = d.collator → ∃ u : State, exec .sight s = .next u ∧ u.domains = s.domains ∧ u.told d m.rank .refused { d.msg with key := m.key, cn := m.cn, answer := .badDomain }) ∧
    (d.rank ≠ d.collator → exec .sight s = .next s ∧ exec .present s = .next s ∧ exec .done s = .next s) ∧
    (d.rank ≠ d.collator → ∃ (u : State) (D : Domain), exec .collatorReplication s = .next u ∧ u.dom m.ctx m.domid = some D ∧ D.standby = some d.rank ∧ D.lastHeard = s.clock ∧
      u.told D d.collator .replicationAck { d.msg with rank := d.rank } ∧
      (d.standby = some d.rank → m.range = 1 → m.present = false → d.number m.cn = none → D.nextCn = cnSucc m.cn ∧ D.numbers = d.numbers ++ [{ cn := m.cn, key := m.key }])) ∧
    (∀ x rest, d.rank = d.collator → d.standby = some m.rank → d.decisions = x :: rest → ∃ (u : State) (D : Domain), exec .replicationAck s = .next u ∧ u.dom m.ctx m.domid = some D ∧ D.decisions = rest ∧
      D.numbers = d.numbers ∧ ∀ y ∈ x, u.told d y.dest y.step y.msg)) ∧
  (∀ (s : State) (m : CollMsg) (d : Domain), s.clocked = true → s.arg.coll = m → s.dom m.ctx m.domid = some d → termPrecedes m.term d.term = true →
    ∀ i ∈ [Instr.sight, .present, .collationCancel, .done, .assigned, .go, .refused, .cancelReply, .keepalive, .collatorReplication, .replicationAck, .takeover], exec i s = .next s) ∧
  (∀ (s : State) (d : Domain), s.clocked = true → s.dom s.arg.ctx s.arg.dom = some d → d.held = [] →
    (d.activeGone s.clock = true → ∃ (u : State) (D : Domain), exec .collatorTakeover s = .next u ∧ u.dom s.arg.ctx s.arg.dom = some D ∧ D.term = d.term + 1 ∧ D.collator = d.rank ∧ D.standby = none ∧
      D.numbers = d.numbers ∧ D.searching = decide (d.m ≠ 2) ∧ (d.m = 2 → ∀ r < d.m, u.told D r .takeover { D.msg with cn := d.top })) ∧
    (d.activeGone s.clock = false → exec .collatorTakeover s = .next s) ∧
    (d.asks = true → (∀ r, s.arg.rank = some r → r < d.m → r ≠ d.rank → ∃ (u : State) (D : Domain), exec .standbySearch s = .next u ∧ u.dom s.arg.ctx s.arg.dom = some D ∧ D.standby = some r ∧ D.searching = false ∧
        D.numbers = d.numbers ∧ (∀ row ∈ d.tableRows, u.told d r .collatorReplication row) ∧ u.told d r .keepalive { d.msg with cn := d.top } ∧ (d.searching = true → ∀ q < d.m, u.told d q .takeover { d.msg with cn := d.top })) ∧
      (s.arg.rank = none → d.askedAt + 6600000 ≤ s.clock → ∃ (u : State) (D : Domain), exec .standbySearch s = .next u ∧ u.dom s.arg.ctx s.arg.dom = some D ∧ D.standby = none ∧ D.askedAt = s.clock ∧ D.searching = false)))

/-- R245, R248, R252-R254, R257-R262, R433 (ASSIGNED, GO, REFUSED, CANCEL-REPLY, TAKEOVER, COLLATOR_LOST_TIMEOUT, COLLECTIVE_TURN, COLLECTIVE_DATA_PHASE_COMPLETE, MEMBER_SILENCE_TIMEOUT): a member gives its issue the number it is told, or keeps the number as known; a number's outcome reaches its entry once; the number at E completes with its outcome, or begins its data phase, and E advances with DONE; a data phase writes the outputs of the operation and then the record; a member silent for 2 ms completes MEMBER-LOST; a member that hears nothing for 10 ms completes what has not reached GO, COLLATOR-LOST, and closes the domain. R244, R261: what the operations of R244 write. An all-gather is the members' inputs one after the other, a broadcast the root's input at every member, an all-to-all at a member the pieces meant for it; an all-reduce is the same at every member; the piece a reduce-scatter leaves at a member is that member's part of the all-reduce of the same inputs. -/
def Obligations.MembersAndOutputs : Prop :=
  ((∀ (s : State) (m : CollMsg) (d : Domain), s.Hears m d →
    let h := d.heard m.rank s.clock
    (m.range = 1 → (d.members.any fun x => x.cn == some m.cn && !x.passed) = false → d.past m.cn = false →
      (∀ pre x post, d.members = pre ++ x :: post → x.key = m.key → x.unnumbered = true → (∀ y ∈ pre, ¬(y.key = m.key ∧ y.unnumbered = true)) →
        let D : Domain := { h with members := pre ++ { x with cn := some m.cn, cnDue := true } :: post }
        exec .assigned s = .next (((s.setDom D).noteReserved h m).fillDue d.ctx d.domid)) ∧
      ((∀ y ∈ d.members, ¬(y.key = m.key ∧ y.unnumbered = true)) → (∀ y ∈ d.members ++ d.closing, y.cnDue = false) → ∃ (u : State) (D : Domain), exec .assigned s = .next u ∧ u.dom m.ctx m.domid = some D ∧
        D.members = d.members ++ [{ key := m.key, cn := some m.cn }] ∧ D.turn = d.turn ∧ s.sameBytes u ∧ u.cnresDone = if m.present = true ∧ m.bad = d.rank then m.cn else s.cnresDone)) ∧
    (d.past m.cn = true → exec .go s = .next (s.setDom h)) ∧
    (d.past m.cn = false → (d.members.any fun x => x.cn == some m.cn && !x.passed) = true → (∀ x ∈ d.members, x.cn = some m.cn → x.used = false) → (∀ y ∈ d.members ++ d.closing, y.cnDue = false) →
      ∃ (u : State) (D : Domain), exec .go s = .next u ∧ u.dom m.ctx m.domid = some D ∧
      (D.members = d.members.map fun x => if x.cn = some m.cn ∧ x.outcome = none then { x with outcome := some (m.outcome, m.term) } else x) ∧ D.turn = d.turn ∧ s.sameBytes u) ∧
    (∀ x, (d.members.find? fun x => x.key == m.key && x.issued && !x.used && x.outcome.isNone) = some x → ∃ (u : State) (D : Domain), exec .refused s = .next u ∧ u.dom m.ctx m.domid = some D ∧
      D.closing = d.closing ++ [{ x with cn := none, finish := some 4 }] ∧ D.turn = d.turn ∧ s.sameBytes u) ∧
    (∀ (c k dst sbd : Nat) (w : Warp), (d.cancels.find? fun x => x.1 == m.key) = some (m.key, some (c, k)) → s.warp c k = some w → w.wait = some (.collx d.domid m.key dst sbd) → s.ctxOf w = d.ctx →
      let D : Domain := { h with cancels := dropFirst (fun x => x.1 == m.key) d.cancels }
      let code := match m.answer with | .honoured => 0 | .tooLate => 0x0C | .badDomain => 0x0D
      exec .cancelReply s = .next ((((s.setDom D).setWarp c k ((w.wake s.clock).advance s.clock)).writeLater c k sbd [.sreg dst (BitVec.ofNat 64 code)]).draw)) ∧
    (∃ (u : State) (D : Domain), exec .takeover s = .next u ∧ u.dom m.ctx m.domid = some D ∧ D.term = m.term ∧ D.collator = m.rank ∧ D.lastHeard = s.clock ∧ D.members = d.members ∧
      (∀ x ∈ d.members, x.issued = true → x.used = false → x.outcome = none →
        (x.cn = none → u.told D m.rank .sight { D.msg with key := x.key, params := x.params, bad := x.bad, present := true }) ∧
        (∀ n, x.cn = some n → u.told D m.rank .present { D.msg with key := x.key, params := x.params, bad := x.bad, present := true, cn := n })) ∧
      (∀ x ∈ d.cancels, u.told D m.rank .collationCancel { D.msg with key := x.1 }))) ∧
  (∀ (s : State) (d : Domain), s.clocked = true → s.dom s.arg.ctx s.arg.dom = some d →
    let gone := fun (x : Member) => x.issued && !x.used && x.outcome.isNone
    (d.closed = false → d.rank ≠ d.collator → d.lastHeard + 33000000 ≤ s.clock → ∃ (u : State) (D : Domain), exec .collatorLostTimeout s = .next u ∧ u.dom s.arg.ctx s.arg.dom = some D ∧ D.closed = true ∧
      (D.closing = d.closing ++ (d.members.filter gone).map fun x => { x with finish := some 9 }) ∧ (D.members = d.members.filter fun x => !gone x) ∧ u.msix = .domain d.ctx :: s.msix) ∧
    ((d.closed = true ∨ s.clock < d.lastHeard + 33000000) → exec .collatorLostTimeout s = .next s)) ∧
  (∀ (s : State) (d : Domain) (x : Member), s.clocked = true → s.dom s.arg.ctx s.arg.dom = some d → d.closing = [] → d.atTurn = some x →
    let g := { collAgt d x.die with work := collWork d }
    let t := s.arg.ctx
    -- x leaves the order with a status, and its record is written over the state r, where nothing is waited for
    let free := fun (r : State) (sts : List (Part × Store)) => r.ctxLives d.ctx = true ∧ r.waitsPage g = false ∧ r.workOut g.work = false ∧
      r.reachAll g .write [⟨1, x.result, 16⟩] = .ok sts ∧ ∀ y ∈ sts, r.severed g y.2 = false
    let leaves := fun (i : Instr) (status : Nat) (r : State) (sts : List (Part × Store)) => ∃ (u : State) (D : Domain), exec i s = .next u ∧ u.dom t s.arg.dom = some D ∧ D.turn = cnSucc d.turn ∧
      (D.members = dropFirst (fun y => y == x) d.members) ∧ u.told d d.collator .done { d.msg with cn := d.turn } ∧
      (let r1 := (r.showAll g).deposit g sts ((resultBytes ((x.cn.getD 0).toNat) status ((x.outcome.map Prod.snd).getD 0).toNat).map fun b => (b, none))
       u.mem = r1.mem ∧ u.lines = r1.lines ∧ u.scratch = r1.scratch)
    (x.outcome = none → exec .collectiveTurn s = .next s) ∧
    (∀ o, x.outcome = some o → o.1 ≠ .cancel → x.issued = false → exec .collectiveTurn s = .next s) ∧
    (∀ o, x.outcome = some o → o.1 = .run → x.issued = true → x.running = none → ∃ (u : State) (D : Domain), exec .collectiveTurn s = .next u ∧ u.dom t s.arg.dom = some D ∧ D.turn = d.turn ∧ s.sameBytes u ∧
      D.members = updateFirst (fun y => y == x) (fun y => { y with running := some s.clock }) d.members) ∧
    (∀ o, x.outcome = some o → o.1 = .cancel → x.issued = false → x.used = false → ∃ (u : State) (D : Domain), exec .collectiveTurn s = .next u ∧ u.dom t s.arg.dom = some D ∧ D.turn = cnSucc d.turn ∧
      D.members = updateFirst (fun y => y == x) (fun y => { y with passed := true }) d.members ∧ u.told d d.collator .done { d.msg with cn := d.turn }) ∧
    (∀ sts, free s sts → x.done = 0 → x.stage ≠ 2 → x.issued = true →
      (∀ o, x.outcome = some o → o.1 = .cancel → leaves .collectiveTurn 1 s sts) ∧
      (∀ o n, x.outcome = some o → o.1 = .fail n → leaves .collectiveTurn n s sts)) ∧
    -- a member is silent: what the output elements then hold is free
    (∀ v sts, x.running = some v → d.needsOthers x.params = true → x.finish = none → d.inputs = none → v + 6600000 ≤ s.clock → (s.partOut d x).dom t s.arg.dom = some d →
      free (s.partOut d x) sts → x.done = 0 → x.stage ≠ 2 → leaves .memberSilenceTimeout 7 (s.partOut d x) sts) ∧
    (∀ v, x.running = some v → s.clock < v + 6600000 → exec .memberSilenceTimeout s = .next s) ∧
    -- the data phase
    (∀ (v : Nat) (ins : List CollInput), x.running = some v → s.ctxLives d.ctx = true →
      (d.needsOthers x.params = false ∨ d.inputs = some ins ∨ (d.inputs = none ∧ s.arg.inputs = ins ∧ d.inputsFit x.params ins = true)) →
      let p := x.params
      let s1 := if d.needsOthers p = true ∧ d.inputs = none then s.setDom { d with inputs := some ins } else s
      let part := fun (a : Word64) (n : Nat) => if n = 0 then [] else [(⟨1, a, n * elemSize p⟩ : Part)]
      ∀ ss ds sts b, x.finish = none → s1.waitsPage g = false → s1.reachAll g .read (if usesSrc p d.rank then part x.src (srcElems p d.m) else []) = .ok ss → s1.reachAll g .write (part x.dst (dstElems p d.m)) = .ok ds →
        (∀ y ∈ ds, s1.severed g y.2 = false) → x.done = 0 → s1.pull g (collWork d) false ss = .bytes b →
        let own := ownInput (elemSize p) b
        let out := collOutput p d.m d.rank ((List.range d.m).map fun r => if r = d.rank then own else if d.needsOthers p = true then ins.getD r ⟨[], []⟩ else ⟨[], []⟩)
        let bytes := out.flatMap fun y => (leBytes (elemSize p) y.1).map fun z => (z, if y.2 then some ((b.findSome? Prod.snd).getD 0) else none)
        let status := if out.any Prod.snd then 6 else 0
        let r := ((s1.partsRead g false ss).deposit g ds bytes).remember d x { x with stage := 1, finish := some status }
        free r sts → leaves .collectiveDataPhaseComplete status r sts))) ∧
  (∀ (p : CollParams) (m rank : Nat) (ins : List CollInput), ins.length = m → rank < m →
    let el := fun (r e : Nat) => inputElem (ins.getD r ⟨[], []⟩) (elemSize p) e
    (p.op = 2 → 0 < p.count → collOutput p m rank ins = (List.range m).flatMap fun r => (List.range p.count).map (el r)) ∧
    (p.op = 3 → collOutput p m rank ins = (List.range p.count).map (el p.root)) ∧
    (p.op = 4 → 0 < p.count → collOutput p m rank ins = (List.range m).flatMap fun r => (List.range p.count).map fun e => el r (rank * p.count + e)) ∧
    (p.op = 0 → ∀ r < m, collOutput p m r ins = collOutput p m rank ins) ∧
    (p.op = 1 → collOutput p m rank ins = ((collOutput { p with op := 0, count := m * p.count } m rank ins).drop (rank * p.count)).take p.count))

/-- R177-R179, R208-R215, R222, R226, R243, R431 (LAUNCH, GRAPH, COPY, WAIT, SIGNAL, COLL, CANCEL and PHASE-END of a queue): the queue's next command, with nothing before it to wait for when it asks for that, starts and is consumed: a launch enters with the fields of its checked parameter block, a graph with its array, a copy's record goes to the least loaded engine of the queue's die, a collective is issued and counts as the queue's work until it is complete, WAIT starts once its counter has reached the value, SIGNAL adds to its counter, a phase receives its counter; a reserved flag or operand rejects it with code 1, noted in LASTERR with its interrupt, and a command that is not the next one does nothing. -/
def Obligations.QueueCommands : Prop :=
  (∀ (s : State) (i : Instr) (c : Cmd) (q : Queue), s.clocked = true → s.arg.cmd = c → s.queue c.q = q → s.nextCommand c.q = some (i, c) →
    (c.flags.getLsbD 0 = true → s.earlierDone q = false → i ∈ [Instr.launch, .graph, .copy, .wait, .signal, .collCommand, .cancelCommand, .phaseEnd] → exec i s = .next s) ∧
    ((c.flags.getLsbD 0 = false ∨ s.earlierDone q = true) →
      let plain := c.flags.toNat < 2 ∧ c.rsv1 = 0 ∧ c.rsv2 = 0
      (i = .wait → plain → c.c = 0 → ∀ st, s.operand q.ctx .read c.a 8 8 = .ok st →
        (c.b.toNat ≤ s.fieldIn q.ctx st 0 8 → exec .wait s = .next (s.consume c.q)) ∧ (s.fieldIn q.ctx st 0 8 < c.b.toNat → exec .wait s = .next s)) ∧
      (i = .signal → plain → c.c = 0 → ∀ st, s.operand q.ctx .atomic c.a 8 8 = .ok st →
        exec .signal s = .next ((s.setFieldIn q.ctx st 0 8 (s.fieldIn q.ctx st 0 8 + c.b.toNat)).consume c.q)) ∧
      (i = .cancelCommand → plain → c.b = 0 → c.c = 0 → ∀ st, s.operand q.ctx .read c.a 8 8 = .ok st → exec .cancelCommand s = .next ((s.consume c.q).cancelUnit q.ctx c.a).1) ∧
      (i = .phaseEnd → plain → c.b = 0 → c.c = 0 → ∀ st p, s.operand q.ctx .atomic c.a 8 8 = .ok st → q.phase = some p → c.graph = none → q.graph = none →
        ∃ (u : State) (y : Queue), exec .phaseEnd s = .next u ∧ u.phases.find p = some { ctx := q.ctx, queue := c.q, counter := some c.a } ∧ u.queue c.q = y ∧ y.phase = none ∧ y.head = q.head + 1 ∧ s.sameBytes u) ∧
      (i = .graph → plain → 1 ≤ c.b.toNat → c.b.toNat ≤ 65536 → c.graph = none → ∀ st st', s.operand q.ctx .read c.a 64 1 = .ok st → s.operand q.ctx .atomic c.c 8 8 = .ok st' →
        ∃ (u : State) (y : Queue) (g : Graph) (n : Nat), exec .graph s = .next u ∧ u.queue c.q = y ∧ y.graph = some n ∧ u.graphs.find n = some g ∧ g.ctx = q.ctx ∧ g.counter = c.c ∧ g.array = c.a ∧
          g.count = c.b.toNat ∧ g.next = 0 ∧ g.running = [] ∧ y.head = q.head ∧ s.sameBytes u) ∧
      (i = .graph → plain → c.graph.isSome = true → exec .graph s = .next (s.reject c.q (if 1 ≤ c.b.toNat ∧ c.b.toNat ≤ 65536 then 0x05 else 0x01) (some c.c))) ∧
      (i = .copy → plain → c.b = 0 → c.c = 0 → ∀ st, s.operand q.ctx .read c.a 64 64 = .ok st →
        let e := s.leastEngine (if c.q < 2048 then 0 else 1)
        let r : StreamRec := { id := s.ids, ctx := q.ctx, queue := some c.q, fields := (s.loadBytes (homeAgt q.ctx st) false st 64).1 }
        (∀ t, s.recordHeld r = some t → exec .copy s = .next t) ∧ (s.recordHeld r = none →
        (s.recordStatus r ≠ 0 → exec .copy s = .next (s.reject c.q 0x02 (fieldCounter 0x38 s q.ctx c))) ∧
        (s.recordStatus r = 0 → 64 ≤ (s.engine e).length → exec .copy s = .next s) ∧
        (s.recordStatus r = 0 → (s.engine e).length < 64 → ∃ (u : State) (x : StreamRec), exec .copy s = .next u ∧ u.engine e = s.engine e ++ [x] ∧ x.fields = r.fields ∧ x.ctx = q.ctx ∧
          (∀ n, n ≠ e → u.engine n = s.engine n) ∧ s.sameBytes u))) ∧
      (i = .launch → ∀ t, s.checkLaunch q.ctx c = .error (.hold t) → exec .launch s = .next t) ∧
      (i = .launch → ∀ l, s.checkLaunch q.ctx c = .ok l → exec .launch s = .next (s.startLaunch c l)) ∧
      (i = .launch → ∀ n, s.checkLaunch q.ctx c = .error (.bad n) → exec .launch s = .next (s.reject c.q n (launchCounter s q.ctx c))) ∧
      (i = .collCommand → plain → c.b = 0 → c.c = 0 → ∀ sts b res t, s.collPart c.q q.ctx .read c.a 64 = .ok sts → s.pull (queueAgtCo c.q q.ctx) (queueWork c.q) false sts = .bytes b →
        let desc := b.map Prod.fst
        s.collPart c.q q.ctx .write (BitVec.ofNat 64 (fieldAt desc 0x30 8)) 16 = .ok res →
        let u := (s.partsRead (queueAgtCo c.q q.ctx) false sts).pxDrop (queueWork c.q)
        ({ u with ids := u.ids + 1 }).issueColl q.ctx (if c.q < 2048 then 0 else 1) none (some u.ids) desc (fun t bs => t.deposit (queueAgtCo c.q q.ctx) res (bs.map fun x => (x, none))) = .made t →
        exec .collCommand s = .next (((t.begun c (.coll u.ids)).consume c.q).clearFails (queueAgtCo c.q q.ctx).who)) ∧
      (2 ≤ c.flags.toNat → (i = .launch → exec .launch s = .next (s.reject c.q 0x01 (launchCounter s q.ctx c))) ∧ (i = .wait → exec .wait s = .next (s.reject c.q 0x01 none)) ∧
        (i = .signal → exec .signal s = .next (s.reject c.q 0x01 (some c.a))) ∧ (i = .phaseEnd → exec .phaseEnd s = .next (s.reject c.q 0x01 (some c.a))) ∧
        (i = .cancelCommand → exec .cancelCommand s = .next (s.reject c.q 0x01 none))))) ∧
  (∀ (s : State) (i : Instr), s.clocked = true → i ∈ [Instr.launch, .graph, .copy, .wait, .signal, .collCommand, .cancelCommand, .phaseEnd] → s.nextCommand s.arg.cmd.q ≠ some (i, s.arg.cmd) → exec i s = .next s) ∧
  (∀ (s : State) (n : Nat), (s.queue n).graph = none →
    ((s.consume n).queue n = { s.queue n with head := (s.queue n).head + 1, running := (s.queue n).running.filter fun w => !s.workDone w }) ∧
    (∀ m, m ≠ n → (s.consume n).queue m = s.queue m) ∧ s.sameBytes (s.consume n) ∧
    (∀ code, let u := s.reject n code none
      (u.queue n).lasterr = code ∧ (u.queue n).st = .stopped ∧ (u.queue n).head = (s.queue n).head + 1 ∧ u.msix = .lasterr n :: s.msix)) ∧
  (∀ (s : State) (c : Cmd) (l : Launch), c.graph = none → (s.queue c.q).graph = none →
    let u := s.startLaunch c l
    ∃ y : Launch, u.launches.find s.ids = some y ∧ y.fields = l.fields ∧ y.header = l.header ∧ y.ctx = l.ctx ∧ y.lpb = l.lpb ∧ y.generation = 1 ∧ y.placed = l.placed ∧
      (u.queue c.q).head = (s.queue c.q).head + 1 ∧ (l.complete = false → Work.launch s.ids ∈ (u.queue c.q).running) ∧
      (l.kind ≠ 1 → s.sameBytes u ∧ y.want = []) ∧ (l.kind = 1 → y.want = (coresOf (s.maskNow l)).map fun x => (x, l.grid 0)))

/-- R177-R179, R237, R279, R280, R444, R479 (CANCEL, UNIT_COMPLETION, TERMINATE, TERMINATION_COMPLETE, PREEMPT, RESUME): CANCEL of a launch that is not complete stops its blocks and answers 0, of one that is complete answers 0x0F, of no unit 0x10; a unit that is over counts its counter once and is complete; TERMINATE stops the context's queues, ends its blocks, drops its records, releases its keys and completes its units, and TERMINATION_COMPLETE ends it with its register and interrupt; PREEMPT stops the context's resident blocks, RESUME makes those it stopped ready. -/
def Obligations.UnitsOfWork : Prop :=
  (∀ (s : State) (c k : Nat) (w : Warp) (f : RR), s.SysActing c k w f.g →
    let va := s.sysArg c k w f.g f.sa
    let ctx := s.ctxOf w
    let d := f.dst.toNat
    (∀ e, (s.launches.find? fun x => x.2.ctx == ctx && x.2.counter == va && !x.2.complete) = some e → exec (.cancel f) s = (s.cancelLaunch e.1).sysDone c k f [(d, 0)]) ∧
    ((∀ e ∈ s.launches, ¬(e.2.ctx = ctx ∧ e.2.counter = va ∧ e.2.complete = false)) → (∀ e ∈ s.graphs, ¬(e.2.ctx = ctx ∧ e.2.counter = va ∧ e.2.complete = false)) →
      (∀ e ∈ s.phases, ¬(e.2.ctx = ctx ∧ e.2.counter = some va ∧ e.2.complete = false)) → (va = 0 ∨ ∀ x, s.ctx ctx = some x → x.counter ≠ va) →
      ((∃ e ∈ s.launches, e.2.ctx = ctx ∧ e.2.counter = va) → exec (.cancel f) s = s.sysDone c k f [(d, 0x0F)]) ∧
      ((∀ e ∈ s.launches, ¬(e.2.ctx = ctx ∧ e.2.counter = va)) → (∀ e ∈ s.graphs, ¬(e.2.ctx = ctx ∧ e.2.counter = va)) → (∀ e ∈ s.phases, ¬(e.2.ctx = ctx ∧ e.2.counter = some va)) →
        exec (.cancel f) s = s.sysDone c k f [(d, 0x10)]))) ∧
  (∀ (s : State) (i : Nat) (l : Launch), s.blocks.sorted = true → s.launches.find i = some l → l.complete = false → l.cancelled = false →
    (∃ y, (s.cancelLaunch i).launches.find i = some y ∧ y.cancelled = true ∧ y.complete = false ∧ y.fields = l.fields ∧ y.placed = l.placed ∧ y.ended = l.ended) ∧ (s.cancelLaunch i).warps = s.warps ∧
    (∀ n b, s.block n = some b → b.launch ≠ i → (s.cancelLaunch i).block n = some b) ∧
    (∀ n b, s.block n = some b → b.launch = i → b.st = .resident → (s.cancelLaunch i).block n = some { b with stopping := true, cancelled := true }) ∧
    (∀ n b, s.block n = some b → b.launch = i → b.st = .suspended → (s.cancelLaunch i).block n = some { b with st := .draining, cancelled := true, handed := [], chunk := [] })) ∧
  (∀ s : State, s.clocked = true →
    (∀ i l st, s.arg.unit = .launch i → s.launches.find i = some l →
      (s.launchOver i l = true → s.counterAt l.ctx l.counter = .ok st → exec .unitCompletion s = .next ((s.countOne l.ctx st l.cancelled).markLaunch i)) ∧
      (∀ t, s.launchOver i l = true → s.counterAt l.ctx l.counter = .wait t → exec .unitCompletion s = .next t) ∧
      (s.launchOver i l = false → exec .unitCompletion s = .next s)) ∧
    (∀ i g st, s.arg.unit = .graph i → s.graphs.find i = some g → g.complete = false → g.count ≤ g.next → g.running.all s.workDone = true → s.counterAt g.ctx g.counter = .ok st →
      (let t := s.countOne g.ctx st g.cancelled
       exec .unitCompletion s = .next { t with graphs := t.graphs.put i { g with complete := true } })) ∧
    (∀ i p c st, s.arg.unit = .phase i → s.phases.find i = some p → p.complete = false → p.counter = some c → (∀ e ∈ s.graphs, e.2.phase = i → e.2.complete = true) → s.counterAt p.ctx c = .ok st →
      (let t := s.countOne p.ctx st p.cancelled
       exec .unitCompletion s = .next { t with phases := t.phases.put i { p with complete := true } })) ∧
    (∀ c x, s.arg.unit = .job c → s.ctx c = some x → x.ended = false → x.terminating = none → s.ctxBusy c = false → x.counter = 0 →
      exec .unitCompletion s = .next (s.setCtx c { x with ended := true })) ∧
    (∀ c x st, s.arg.unit = .job c → s.ctx c = some x → x.ended = false → x.terminating = none → s.ctxBusy c = false → x.counter ≠ 0 → s.counterAt c x.counter = .ok st →
      exec .unitCompletion s = .next ((s.countOne c st false).onCtx c fun y => { y with ended := true })) ∧
    (∀ c x, s.arg.unit = .job c → s.ctx c = some x → s.ctxBusy c = true → exec .unitCompletion s = .next s)) ∧
  (∀ (s : State) (x : Ctx), s.clocked = true → s.ctx s.arg.ctx = some x → x.terminating = none →
    let ctx := s.arg.ctx
    ∃ (u : State) (y : Ctx), exec .terminate s = .next u ∧ u.ctx ctx = some y ∧ y.terminating = some ⟨8, s.clock⟩ ∧
      (∀ n q, u.queues.find n = some q → q.ctx = ctx → q.st ≠ .running) ∧ (∀ n b, u.block n = some b → b.ctx = ctx → b.st = .ended) ∧
      (∀ e ∈ u.launches, e.2.ctx = ctx → e.2.complete = true) ∧ (∀ e ∈ u.graphs, e.2.ctx = ctx → e.2.complete = true) ∧ (∀ e ∈ u.phases, e.2.ctx = ctx → e.2.complete = true) ∧
      (∀ e ∈ u.keys, e.2 ≠ ctx)) ∧
  (∀ (s : State) (x : Ctx), s.clocked = true → s.ctx s.arg.ctx = some x →
    (x.terminating ≠ none → x.ended = false → ∃ (u : State) (y : Ctx), exec .terminationComplete s = .next u ∧ u.ctx s.arg.ctx = some y ∧ y.ended = true ∧ u.termDone = BitVec.ofNat 64 s.arg.ctx ∧
      u.msix = .termDone s.arg.ctx :: s.msix ∧ s.sameBytes u) ∧
    ((x.terminating = none ∨ x.ended = true) → exec .terminationComplete s = .next s) ∧
    (x.terminating ≠ none → exec .terminate s = .next s)) ∧
  (∀ s : State, s.clocked = true → ∃ u v : State, exec .preempt s = .next u ∧ exec .resume s = .next v ∧
    u = { s with blocks := u.blocks } ∧ v = { s with blocks := v.blocks } ∧
    (∀ n b, s.block n = some b → b.ctx = s.arg.ctx →
      (b.st = .resident → u.block n = some { b with stopping := true, byHost := true }) ∧ (b.st = .suspended → u.block n = some { b with byHost := true }) ∧
      (b.st ≠ .resident → b.st ≠ .suspended → u.block n = some b) ∧ v.block n = some { b with byHost := false }) ∧
    (∀ n b, s.block n = some b → b.ctx ≠ s.arg.ctx → u.block n = some b ∧ v.block n = some b))

/-- R53, R54, R181, R185, R187, R202, R214-R217, R236-R239, R327, R479 (BLOCK_PLACEMENT, BLOCK_END, DISTRIBUTOR_PREEMPTION, BLOCK_SUSPENSION, BLOCK_RESUME): a processor that has its place, with nothing of a higher rank before it, and its tickets below the block count places its blocks, each warp with its three registers, its tiles and the kernel's first clause; tickets at or beyond the count stop it; a block whose agents are done ends, its tiles free and its warps gone; a stopped block whose results have landed is suspended, its agents' state saved, and goes on with it when it resumes. -/
def Obligations.Blocks : Prop :=
  (∀ (s : State) (l : Launch), s.clocked = true → s.launches.find s.arg.id = some l →
    (s.placeDue s.arg.id l s.arg.die = false → exec .blockPlacement s = .next s) ∧
    (s.placeDue s.arg.id l s.arg.die = true → ∀ fs : List Fit, s.reserve_ s.arg.id l s.arg.die false = some fs →
      ((∃ f ∈ fs, s.grantWaits l f ≠ []) →
        exec .blockPlacement s = .next ((fs.flatMap fun f => (s.grantWaits l f).map fun b => (f.core, b)).foldl (fun s x => s.wakeBank x.1 x.2) s)) ∧
      ((∀ f ∈ fs, s.grantWaits l f = []) →
        (∀ t, s.claimTickets l s.arg.die fs.length = .wait t → exec .blockPlacement s = .next t) ∧
        (∀ t n, s.claimTickets l s.arg.die fs.length = .got t n →
          ((l.kind = 1 ∨ n + fs.length ≤ l.blockCount) →
            let v := fs.zipIdx.foldl (fun u x => u.placeBlock s.arg.id l x.1 (n + x.2)) t
            (l.kind ≠ 3 → exec .blockPlacement s = .next v) ∧ (l.kind = 3 → exec .blockPlacement s = .next (v.stopPlacing s.arg.id s.arg.die))) ∧
          (l.kind ≠ 1 → l.blockCount < n + fs.length → exec .blockPlacement s = .next (t.stopPlacing s.arg.id s.arg.die)))))) ∧
  (∀ (s : State) (li n : Nat) (l : Launch) (f : Fit), f.slots.Nodup → (f.all l).Nodup →
    let u := s.placeBlock li l f n
    let t := hdrTiles l.header
    (∃ b, u.block s.ids = some b ∧ b.st = .resident ∧ b.core = f.core ∧ b.ctx = l.ctx ∧ b.launch = li ∧ b.number = n ∧ b.slots = f.slots ∧ b.lpb = l.lpb ∧ b.param = l.param ∧
      b.shBase = f.shBase ∧ b.tagBase = f.tagBase) ∧
    (∀ i k, f.slots[i]? = some k → ∃ w, u.warp f.core k = some w ∧ w.block = s.ids ∧ w.idx = i ∧ w.pc = BitVec.ofNat 64 (l.kobj + 8) ∧ w.clause = none ∧
      w.sregs = [(0, l.param), (1, BitVec.ofNat 64 n), (2, l.lpb)] ∧ w.active = 0xFFFFFFFF ∧ w.st = .ready ∧
      (∀ x ∈ (f.tiles.drop (t * i)).take t, (u.tile f.core x).st = .owned ∧ (u.tile f.core x).ctx = l.ctx ∧ (u.tile f.core x).hold = k)) ∧
    (hdrSeq l.header = true → ∃ q, u.seq f.core = some q ∧ q.block = s.ids ∧ q.pc = BitVec.ofNat 64 (l.kobj + 64 * (l.header.extractLsb' 32 16).toNat) ∧
      q.xs = [(0, l.param), (1, BitVec.ofNat 64 n), (2, l.lpb)] ∧ q.st = .running ∧ ∀ x < l.seqTiles, (u.tile f.core x).st = .owned ∧ (u.tile f.core x).hold = 48) ∧
    u.mem = s.mem ∧ u.scratch = s.scratch ∧ ∀ c k, c ≠ f.core → c < 192 → k < 48 → f.core < 192 → (∀ x ∈ f.slots, x < 48) → u.warp c k = s.warp c k) ∧
  (∀ (s : State) (b : Block), s.clocked = true → s.block s.arg.id = some b →
    let drained : Block := { b with st := .draining }
    (s.endDue s.arg.id b = false → exec .blockEnd s = .next s) ∧
    (s.endDue s.arg.id b = true → s.blockQuiet s.arg.id drained = false → exec .blockEnd s = .next (s.setBlock s.arg.id drained)) ∧
    (∀ l, s.blocks.sorted = true → s.endDue s.arg.id b = true → s.blockQuiet s.arg.id drained = true → s.launches.find b.launch = some l → s.engines.flatMap Prod.snd = [] →
      ∃ (u : State) (y : Launch), exec .blockEnd s = .next u ∧ (∀ t ∈ s.blockTiles b, (u.tile b.core t).st = .free) ∧ (∀ e ∈ u.warps, e.2.block ≠ s.arg.id) ∧
        u.launches.find b.launch = some y ∧ y.ended = l.ended + 1 ∧ (∀ x, u.block s.arg.id = some x → x.st = .ended) ∧ (l.cancelled = false → u.mem = s.mem))) ∧
  (∀ (s : State) (b : Block), s.clocked = true → s.block s.arg.id = some b →
    (s.suspendDue s.arg.id b = false → exec .blockSuspension s = .next s) ∧
    (s.suspendDue s.arg.id b = true → b.regroups ≠ [] → exec .blockSuspension s = .next (s.dissolve s.arg.id)) ∧
    (s.suspendDue s.arg.id b = true → b.regroups = [] → b.cancelled = false → b.chunk = [] → ∃ (u : State) (y : Block) (v : Saved), exec .blockSuspension s = .next u ∧ u.block s.arg.id = some y ∧
      y.st = .suspended ∧ y.stopping = false ∧ y.suspendedAt = s.clock ∧ y.saved = some v ∧ v.tiles = s.blockTiles b ∧ v.evicted = [] ∧
      (v.warps = (s.ownWarps s.arg.id b).map fun x => (x.1, (match x.2.st with | .trap => .trap | .exited => .exited | .halted => .halted | _ => .ready), { x.2 with st := .suspended, wait := none })) ∧
      (∀ e ∈ u.warps, e.2.block ≠ s.arg.id) ∧ u.mem = s.mem ∧ (∀ t ∈ s.blockTiles b, (u.tile b.core t).elems = (s.tile b.core t).elems)) ∧
    (s.suspendDue s.arg.id b = true → b.regroups = [] → b.cancelled = true → ∃ (u : State) (y : Block), exec .blockSuspension s = .next u ∧ u.block s.arg.id = some y ∧ y.st = .draining ∧ ∀ e ∈ u.warps, e.2.block ≠ s.arg.id)) ∧
  (∀ (s : State) (b : Block) (v : Saved) (l : Launch), s.clocked = true → s.block s.arg.id = some b → s.launches.find b.launch = some l → l.kind ≠ 3 → b.saved = some v →
    (s.resumeDue s.arg.id b = false → exec .blockResume s = .next s) ∧
    (s.resumeDue s.arg.id b = true → v.evicted = [] → s.resumeWaits b v = [] → ∃ u : State, exec .blockResume s = .next u ∧ u.block s.arg.id = some { b with st := .resident, saved := none } ∧
      (∀ (k : Nat) (st : WarpSt) (w : Warp), (k, st, w) ∈ v.warps → (v.warps.map Prod.fst).Nodup → u.warp b.core k = some { w with st := st, readyAge := s.clock, losses := 0 }) ∧
      (∀ q, v.seq = some q → u.seq b.core = some (q.shift (s.clock + 1 - q.stoppedAt.getD b.suspendedAt))) ∧
      (∀ t ∈ v.tiles, v.tiles.Nodup → (s.tile b.core t).st = .suspended → u.tile b.core t = { s.tile b.core t with st := .owned }) ∧ s.sameBytes u)) ∧
  (∀ (s : State) (l : Launch), s.clocked = true → s.launches.find s.arg.id = some l →
    let vs := s.enough s.arg.id l s (s.victims l) []
    (s.preemptDue l = false → exec .distributorPreemption s = .next s) ∧
    (s.preemptDue l = true → ∃ (u : State), exec .distributorPreemption s = .next u ∧ u.launches.find s.arg.id = some { l with stuckSince := some s.clock } ∧
      (∀ n b, s.block n = some b → (n ∈ vs → u.block n = some { b with stopping := true }) ∧ (n ∉ vs → u.block n = some b)) ∧ u.warps = s.warps ∧ s.sameBytes u)) ∧
  (∀ (s : State) (l : Launch), ∀ n ∈ s.victims l, ∃ b v, (n, b) ∈ s.blocks ∧ b.st = .resident ∧ s.launches.find b.launch = some v ∧ v.preemptible = true ∧ (s.isDclass l = true ∨ v.prio < l.prio))

/-- R147, R148, R150, R154, R163-R165 (RDS, RDX, UPG, WB, EVC, ATM, INVACK, FWDACK, FWDDATA, HOME_LOCAL_READ, HOME_LOCAL_WRITE, MEMORY_READ_COMPLETE), for a line whose frame no migration moves and for which the slice's directory has room (a full one first recalls one of its lines): the home answers from its stable states and waits in the others; data of a write-back or an answered snoop become the home's; the access a transient state was entered for is performed when it completes, then the requests that wait are served in turn; a memory read answers the request it was begun for, or fills the home L2, and a sector reported wrong is corrected and counted, or poisoned, logged and raised, or ends the key's owner. -/
def Obligations.HomeOfLines : Prop :=
  (∀ (s : State) (m : BridgeMsg) (n : Nat), s.AtHome m n →
    let l := s.line n
    let back := 1 - lineHome n
    let data := fun (dirty : Bool) => s.dataMsg back n m.txid dirty
    let wback := (Instr.wback, plainMsg back n m.txid)
    let given : DirLine := { l with home := .de, homeCopy := none, homeDirty := false }
    (l.home = .di → l.homeCopy.isSome = true → exec .rds s = s.lineTo n { l with home := .ds } [(.datas, data false)] ∧ exec .rdx s = s.lineTo n given [(.datam, data l.homeDirty)] ∧
      exec .upg s = s.lineTo n given [(.datam, data l.homeDirty)]) ∧
    (l.home = .di → l.homeCopy = none → exec .rds s = s.lineTo n { l with home := .hwMem, serving := some (.remote .rds m) } [] ∧
      exec .rdx s = s.lineTo n { l with home := .hwMem, serving := some (.remote .rdx m) } [] ∧ exec .upg s = s.lineTo n { l with home := .hwMem, serving := some (.remote .upg m) } []) ∧
    (l.home = .ds → exec .rds s = s.sends [(.datas, data false)] ∧ exec .rdx s = s.lineTo n given [(.datam, data l.homeDirty)] ∧ exec .upg s = s.lineTo n given [(.gntx, plainMsg back n m.txid)]) ∧
    (l.home = .dO → exec .upg s = s.lineTo n given [(.gntx, plainMsg back n m.txid)]) ∧
    (l.home.transient = true → exec .rds s = s.lineTo n { l with waiting := l.waiting ++ [.remote .rds m] } [] ∧ exec .rdx s = s.lineTo n { l with waiting := l.waiting ++ [.remote .rdx m] } [] ∧
      exec .upg s = s.lineTo n { l with waiting := l.waiting ++ [.remote .upg m] } []) ∧
    ((l.home = .de ∨ l.home = .dO) → exec .evc s = s.lineTo n { l with home := .di } [wback] ∧
      ∃ u : State, exec .wb s = .next u ∧ (u.line n).home = .di ∧ (u.line n).homeDirty = true ∧ (u.line n).homeCopy.isSome = true ∧ wback ∈ u.wire ∧
        (s.memWf → l.late = [] → m.data.length = 128 → (∀ i < 128, Memory.read u.mem (n * 128 + i) = m.data.getD i 0) ∧ ∀ a, (a < n * 128 ∨ n * 128 + 128 ≤ a) → Memory.read u.mem a = Memory.read s.mem a)) ∧
    ((l.home = .hwFs ∨ l.home = .hwFi ∨ l.home = .hwInv) → exec .evc s = s.sends [wback]) ∧
    (l.home = .hwInv → exec .wb s = s.sends [wback] ∧ exec .invack s = .next (s.settle n .di)) ∧
    (l.home = .hwFs → exec .fwddata s = .next ((s.homeTakes n m).settle n .dO) ∧ exec .fwdack s = .next (s.settle n (if m.stale = true then .di else .ds))) ∧
    (l.home = .hwFi → exec .fwddata s = .next ((s.homeTakes n m).settle n .di) ∧ exec .fwdack s = .next (s.settle n .di)) ∧
    (ncPlace m = none →
      let a : BridgeMsg := { m with status := if s.arg.ecc0 = {} then 0 else 6 }
      (l.home = .di → exec .atm s = .next ((s.performAtm a (s.memPlace (s.migTarget m.paddr.toNat) (m.opx.extractLsb' 8 8).toNat)).fillHome n true)) ∧
      ((l.home = .ds ∨ l.home = .dO) → exec .atm s = s.snoops n .inv .hwInv (.remote .atm a)) ∧
      (l.home = .de → exec .atm s = s.snoops n .fwdi .hwFi (.remote .atm a)) ∧
      (l.home.transient = true → exec .atm s = s.lineTo n { l with waiting := l.waiting ++ [.remote .atm a] } []))) ∧
  -- a slice with no free entry recalls one of its lines, as if for a local write
  (∀ (s : State) (n : Nat), let xs := s.tracked (lineHome n) (s.sliceOf n)
    n ∉ xs → directorySize ≤ xs.length → (∃ x ∈ xs, (s.line x).moving = false) → ∃ x ∈ xs, (s.line x).moving = false ∧ s.makeEntry n = s.serveLocal x .recall) ∧
  (∀ (s : State) (n : Nat) (st : HomeSt) (r : HomeReq), (s.line n).serving = some r →
    let t := (s.setLine n { s.line n with home := st, serving := none }).performLocal n r
    s.settle n st = t.drain n (t.line n).waiting.length) ∧
  (∀ (s : State) (n k : Nat) (r : HomeReq) (rest : List HomeReq), (s.line n).waiting = r :: rest → s.homeWaits n r = false →
    s.drain n (k + 1) = (((s.setLine n { s.line n with waiting := rest }).serve n r).drain n k)) ∧
  (∀ (s : State) (n : Nat), s.OwnLine n →
    let l := s.line n
    let off := s.arg.addr % 128
    let b := s.arg.bytes
    ((l.home = .di ∨ l.home = .ds) → exec .homeLocalRead s = .next (s.fillHome n false)) ∧
    (l.home = .dO → exec .homeLocalRead s = .next s) ∧
    (l.home = .de → exec .homeLocalRead s = s.snoops n .fwds .hwFs .localRead ∧ exec .homeLocalWrite s = s.snoops n .fwdi .hwFi (.localWrite off b)) ∧
    ((l.home = .ds ∨ l.home = .dO) → exec .homeLocalWrite s = s.snoops n .inv .hwInv (.localWrite off b)) ∧
    (l.home = .di → exec .homeLocalWrite s = .next (s.homeWrite n off b)) ∧
    (l.home.transient = true → exec .homeLocalRead s = s.lineTo n { l with waiting := l.waiting ++ [.localRead] } [] ∧
      exec .homeLocalWrite s = s.lineTo n { l with waiting := l.waiting ++ [.localWrite off b] } []) ∧
    -- a read of memory that finds the line as it should be
    (s.arg.ecc0 = {} → s.arg.ecc1 = {} → s.poison.find (2 * n) = none → s.poison.find (2 * n + 1) = none →
      (s.arg.id = 0 ∨ (s.sealedBy s.arg.id (2 * n) = true ∧ s.sealedBy s.arg.id (2 * n + 1) = true)) →
      (∀ i m, l.home = .hwMem → l.serving = some (.remote i m) → l.waiting = [] → exec .memoryReadComplete s =
        s.lineTo n { l with home := .de, serving := none } [(if i = .rds then .datae else .datam, s.dataMsg (1 - lineHome n) n m.txid false)]) ∧
      (l.home = .di → l.homeCopy = none → exec .memoryReadComplete s = .next (s.fillHome n false)) ∧
      (l.home ≠ .di → l.home ≠ .hwMem → exec .memoryReadComplete s = .next s)) ∧
    (∀ a b, s.arg.ecc0.symbols = [a, b] → a ≠ b → s.arg.ecc0.onDie = [] → s.arg.ecc0.tagBad = false → s.arg.ecc0.cxl = false → s.arg.ecc1 = {} → s.arg.id = 0 →
      s.poison.find (2 * n) = none → s.poison.find (2 * n + 1) = none → l.home = .ds →
      ∃ u : State, exec .memoryReadComplete s = .next u ∧ u.poison.find (2 * n) = some (2 * n * 64) ∧ Msix.reliability (2 * n * 64) ∈ u.msix)) ∧
  -- the read of one sector with a key
  (∀ (s : State) (x key : Nat) (rmw : Bool) (r : SectorReport),
    (s.poison.find x ≠ none → s.sectorRead x key rmw r = (s, 4)) ∧
    (s.poison.find x = none → r.onDie = [] → r.cxl = false → r.tagBad = false →
      (∀ a, r.symbols = [a] → (key = 0 ∨ s.sealedBy key x = true) → s.sectorRead x key rmw r = (s.correctedError (SectorReport.unit r x).1 (SectorReport.unit r x).2, 1)) ∧
      (r.symbols.eraseDups.length ≤ 1 → key ≠ 0 → s.sealedBy key x = false → s.sectorRead x key rmw r = (s.integrityFails { sector := x, key := key, rmw := rmw }, 3)) ∧
      (2 ≤ r.symbols.eraseDups.length → s.sectorRead x key rmw r =
        (((s.markSector x).writeMel (homeDie (x * 64)) { pa := x * 64, status := 2, flags := (if key = 0 then 0 else 1) + (if rmw then 2 else 0), key := key }).interrupt (.reliability (x * 64)), 2))))

/-- R136, R142, R143, R149, R153-R155 (INV, FWDS, FWDI, GNTX, WBACK, DATAS, DATAE, DATAM, NCRD, REMOTE_L2_ACCESS, REMOTE_L2_EVICTION, and the non-cached NCR, NCW, ATM and their answers): the remote L2 answers each snoop as its line's state asks and takes the state its answers give it; a write it has no right to waits for M; an eviction is silent, told, or carries the data; a non-cached access is performed at the die it arrives at and answered, and the answer of an atomic completes it. How many bytes an NCW carries, which the message does not say, is a free value (log entry 1), and how it names a place is the model's (log entry 10). -/
def Obligations.RemoteCopies : Prop :=
  (∀ (s : State) (m : BridgeMsg) (n : Nat), s.AtRemote m n →
    let l := s.line n
    let h := lineHome n
    let ack := fun (stale : Bool) => ({ plainMsg h n m.txid with stale := stale } : BridgeMsg)
    let gone : DirLine := { l with rem := .i, remCopy := none }
    (l.rem ∈ [.i, .is, .im] → exec .inv s = s.sends [(.invack, ack false)] ∧ exec .fwds s = s.sends [(.fwdack, ack true)] ∧ exec .fwdi s = s.sends [(.fwdack, ack true)]) ∧
    (l.rem ∈ [.s, .o] → exec .inv s = s.lineTo n gone [(.invack, ack false)]) ∧
    (l.rem = .sm → exec .inv s = s.lineTo n { l with rem := .im, remCopy := none } [(.invack, ack false)]) ∧
    (l.rem ∈ [.wi, .ei] → exec .inv s = s.sends [(.invack, ack true)] ∧ exec .fwds s = s.sends [(.fwdack, ack true)] ∧ exec .fwdi s = s.sends [(.fwdack, ack true)]) ∧
    (l.rem = .e → exec .fwds s = s.lineTo n { l with rem := .s } [(.fwdack, ack false)] ∧ exec .fwdi s = s.lineTo n gone [(.fwdack, ack false)]) ∧
    (l.rem = .m → exec .fwds s = s.lineTo n { l with rem := .o } [(.fwddata, s.dataMsg h n m.txid true)] ∧ exec .fwdi s = s.lineTo n gone [(.fwddata, s.dataMsg h n m.txid true)]) ∧
    (let has := fun (st : RemSt) => Host.Outcome.next ((s.setLine n { l with rem := st, remCopy := some (l.arrived m) }).remGo n)
     (l.late = [] → l.arrived m = m.data.take 128) ∧
     (l.rem = .is → exec .datas s = has .s ∧ exec .datae s = has .e) ∧ (l.rem ∈ [.im, .sm] → exec .datam s = has .m) ∧
     (l.rem = .sm → exec .gntx s = .next ((s.setLine n { l with rem := .m }).remGo n)) ∧
     (l.rem = .im → exec .gntx s = .next s ∧ exec .datas s = .next s) ∧
     (l.rem ∈ [.wi, .ei] → exec .wback s = .next ((s.setLine n gone).remGo n)) ∧
     (l.rem ∈ [.is, .im, .sm] → l.remWrites = [] → ncPlace m = none → exec .ncrd s = .next { (s.setLine n gone).setLine n gone with arrived := s.arrived ++ [(.ncrd, m)] }))) ∧
  (∀ (s : State) (n : Nat), (s.line n).remWrites = [] → s.remGo n = s) ∧
  (∀ (s : State) (n c off : Nat) (b : List Byte), (s.line n).rem ∈ [.e, .m] → (s.line n).remWrites = [(c, off, b)] → off + b.length ≤ 128 → s.memWf → s.migOf (n * 128 + off) = none →
    ((s.remGo n).line n).rem = .m ∧ ((s.remGo n).line n).remWrites = [] ∧ (∀ i < b.length, Memory.read (s.remGo n).mem (n * 128 + off + i) = b.getD i 0)) ∧
  (∀ (s : State) (n : Nat), s.OwnLine n →
    let l := s.line n
    let t : BitVec 16 := BitVec.ofNat 16 s.ids
    let asks := fun (i : Instr) (x : DirLine) (m : BridgeMsg) => Host.Outcome.next ({ s.setLine n { x with txid := t } with ids := s.ids + 1, wire := s.wire ++ [(i, { m with txid := t })] } : State)
    let ask := plainMsg (lineHome n) n t
    (s.arg.flag = false → l.rem = .i → exec .remoteL2Access s = asks .rds { l with rem := .is } ask) ∧
    (s.arg.flag = false → l.rem ≠ .i → exec .remoteL2Access s = .next s) ∧
    (s.arg.flag = true → ∃ u : State, exec .remoteL2Access s = .next u ∧ (let w := l.remWrites ++ [(s.arg.ctx, s.arg.addr % 128, s.arg.bytes)]
      (l.rem = .i → (u.line n).rem = .im ∧ (u.line n).remWrites = w ∧ u.wire = s.wire ++ [(.rdx, ask)]) ∧
      (l.rem ∈ [.s, .o] → (u.line n).rem = .sm ∧ (u.line n).remWrites = w ∧ u.wire = s.wire ++ [(.upg, ask)]) ∧
      (l.rem ∈ [.e, .m] → (u.line n).rem = .m ∧ (u.line n).remWrites = []) ∧
      (l.rem ∈ [.is, .im, .sm, .wi, .ei] → (u.line n).rem = l.rem ∧ (u.line n).remWrites = w ∧ u.wire = s.wire))) ∧
    (l.rem = .s → exec .remoteL2Eviction s = s.lineTo n { l with rem := .i, remCopy := none } []) ∧
    (l.rem = .e → exec .remoteL2Eviction s = asks .evc { l with rem := .ei, remCopy := none } ask) ∧
    (l.rem ∈ [.m, .o] → exec .remoteL2Eviction s = asks .wb { l with rem := .wi, remCopy := none } (s.dataMsg (lineHome n) n t true))) ∧
  (∀ (s : State) (m : BridgeMsg) (st : Store), s.clocked = true → s.arg.msg = m → s.bridgeDown = false →
    let back := fun (p : Nat) => ({ plainMsg (1 - m.die) 0 m.txid with paddr := m.paddr, status := if p = 0 then 0 else 4, spois := BitVec.ofNat 8 p } : BridgeMsg)
    ((s.atmOut m.die m.txid = none → exec .atmr s = .next { s with arrived := s.arrived ++ [(.atmr, m)] }) ∧
      (∀ r, s.atmOut m.die m.txid = some r → s.arg.ecc0 = {} → exec .atmr s = .next (s.atmAnswered r m.opa.toNat (m.status != 0))) ∧ exec .ncwack s = .next { s with arrived := s.arrived ++ [(.ncwack, m)] }) ∧
    (ncPlace m = some st →
      let half := fun (i : Nat) => s.loadBytes (tkAgt 0 m.die) false ((blockPlace st).part (64 * i) 64) 64
      exec .ncrd s = .next { s with arrived := s.arrived ++ [(.ncrd, m)] } ∧
      ((half 0).2 = none → (half 1).2 = none → exec .ncr s = s.sends [(.ncrd, { back 0 with data := (half 0).1 ++ (half 1).1 })]) ∧
      (∃ k, 1 ≤ k ∧ k ≤ 16 ∧ ∃ u : State, exec .ncw s = .next u ∧ (.ncwack, back 0) ∈ u.wire ∧ u.scratch = (s.storeBytes (tkAgt 0 m.die) st (leBytes k (m.opa.toNat % 2 ^ (8 * k)))).scratch ∧
        u.cores = (s.storeBytes (tkAgt 0 m.die) st (leBytes k (m.opa.toNat % 2 ^ (8 * k)))).cores) ∧
      (let n := (m.opx.extractLsb' 8 8).toNat
       let r := s.atomically (tkAgt 0 m.die) st n (atmOp m)
       s.arg.ecc0 = {} → r.1.bridgeDown = false → exec .atm s = .next { r.1 with wire := r.1.wire ++ [(.atmr, { plainMsg (1 - m.die) 0 m.txid with
         paddr := m.paddr, status := if (r.2.any fun b => b.2.isSome) = true then 4 else 0, opa := if m.opx.getLsbD 17 = true then 0 else BitVec.ofNat 128 (leNat (r.2.map Prod.fst)) })] }))) ∧
  (∀ (s : State) (m : BridgeMsg), s.clocked = true → s.arg.msg = m → s.bridgeDown = true →
    ∀ i ∈ [Instr.rds, .rdx, .upg, .wb, .evc, .atm, .inv, .fwds, .fwdi, .gntx, .wback, .invack, .fwdack, .datas, .datae, .datam, .fwddata, .ncrd, .atmr, .ncwack], exec i s = .next s)

/-- R139-R142: a flit built from messages that fit it, with any header and zero in what a message does not use, reads back at the other die, as the same header and the same messages; and any change that leaves its checksum wrong makes it fail. R144, R145, R151-R153 (FLIT_RECEIVE, FLIT_REPLAY_TIMEOUT): a clean flit with the expected number delivers its messages and is acknowledged with the next; a duplicate is discarded and acknowledged again; a flit that fails or skips a number is discarded with NAK; FACK frees the flits up to it; 4,096 cycles without an acknowledgement send the unacknowledged flits again; the eighth failure or timeout of one flit takes the bridge down. That a duplicate is answered without NAK, and what counts as a failure of a flit, are the model's choices (log entry 10). -/
def Obligations.BridgeLink : Prop :=
  ((∀ (die : Nat) (h : FlitHead) (ms : List (Instr × BridgeMsg)), h.fseq < 4096 → h.fack < 4096 → h.held < 8 → (slotsOf ms).length ≤ 4 →
    (∀ x ∈ ms, x.2.die = die ∧ ∃ t, msgTypeOf x.1 = some t ∧
      (t.line = true → x.2.data.length = 128 ∧ x.2.spois.toNat < 4 ∧ x.2.opa = 0 ∧ x.2.opb = 0 ∧ x.2.opx = 0) ∧ (t.line = false → x.2.data = [] ∧ x.2.spois = 0 ∧
        (x.1 ≠ .atm → x.2.opb = 0 ∧ x.2.opx = 0) ∧ (x.1 ∉ [.atm, .atmr, .ncw] → x.2.opa = 0))) →
    (flitBytes h ms).length = 256 ∧ flitHead (flitBytes h ms) = h ∧ readFlit die [] (flitBytes h ms) = some (ms, [])) ∧
  -- an operand that the message does not use is a reserved field
  (∀ (die : Nat) (t : MsgType) (m : BridgeMsg), t ∈ msgTypes → t.line = false → t.step ≠ .atm → (m.opb ≠ 0 ∨ m.opx ≠ 0 ∨ (t.step ∉ [.atmr, .ncw] ∧ m.opa ≠ 0)) → readMsg die false (msgBytes t m) = none) ∧
  (∀ (die : Nat) (carry b : List Byte), (b.length ≠ 256 ∨ fieldIn b 248 8 ≠ crc64 (b.take 248)) → readFlit die carry b = none)) ∧
  (∀ s : State, s.clocked = true → s.bridgeDown = false →
    let die := s.arg.die
    let k := s.arg.id
    (s.modules.contains k = true → die < 2 → k < 16 →
      let h := flitHead s.arg.bytes
      let l := s.link die k
      let there := s.link (1 - die) k
      (∀ ms rest, readFlit die l.carry s.arg.bytes = some (ms, rest) → h.fseq = l.expect → h.nak = false → ∃ u : State, exec .flitReceive s = .next u ∧
        u.agenda = (ms.map fun m => Turn.ev m.1 { msg := m.2 }) ++ s.agenda ∧ (u.link die k).expect = (l.expect + 1) % 4096 ∧ (u.link die k).failures = 0 ∧ (u.link die k).carry = rest ∧
        (u.link die k).held = h.held ∧ (ms ≠ [] → (u.link die k).owes = true) ∧ (u.link (1 - die) k).fly = there.fly.drop 1 ∧ s.sameBytes u ∧
        ((∃ x ∈ l.unacked, x.1 = h.fack) → (u.link die k).unacked = (l.unacked.dropWhile fun x => x.1 != h.fack).drop 1) ∧
        ((∀ x ∈ l.unacked, x.1 ≠ h.fack) → (u.link die k).unacked = l.unacked)) ∧
      (∀ r, readFlit die l.carry s.arg.bytes = some r → h.fseq = l.expect → h.nak = true → ∃ u : State, exec .flitReceive s = .next u ∧ (u.link die k).fly = (u.link die k).unacked.map Prod.fst) ∧
      (∀ r, readFlit die l.carry s.arg.bytes = some r → h.fseq ≠ l.expect → (l.expect + 4096 - h.fseq) % 4096 ≤ 128 → ∃ u : State, exec .flitReceive s = .next u ∧
        (u.link die k).expect = l.expect ∧ (u.link die k).owes = true ∧ u.agenda = s.agenda) ∧
      (readFlit die l.carry s.arg.bytes = none → l.failures < 7 → ∃ u : State, exec .flitReceive s = .next u ∧
        (u.link die k).nak = true ∧ (u.link die k).expect = l.expect ∧ u.agenda = s.agenda ∧ u.bridgeDown = false ∧ (there.fly.headD l.expect = l.expect → (u.link die k).failures = l.failures + 1)) ∧
      (readFlit die l.carry s.arg.bytes = none → there.fly.headD l.expect = l.expect → 7 ≤ l.failures → ∃ u : State, exec .flitReceive s = .next u ∧ u.bridgeDown = true)) ∧
    (let l := s.link die k
     (l.unacked = [] → exec .flitReplayTimeout s = .next s) ∧
     (s.clock < l.advanced + 4096 → exec .flitReplayTimeout s = .next s) ∧
     (l.unacked ≠ [] → l.advanced + 4096 ≤ s.clock → l.timeouts < 7 → exec .flitReplayTimeout s = .next (s.setLink die k { l with fly := l.unacked.map Prod.fst, advanced := s.clock, timeouts := l.timeouts + 1 })) ∧
     (l.unacked ≠ [] → l.advanced + 4096 ≤ s.clock → 7 ≤ l.timeouts → ∃ u : State, exec .flitReplayTimeout s = .next u ∧ u.bridgeDown = true)) ∧
    (∀ m, (s.bridgeFails m).bridgeDown = true ∧ Msix.bridge m ∈ (s.bridgeFails m).msix))

/-- R28, R155, R157-R160 (MIG, MIGRATION_PASS_COMPLETE, MIGRATION_SWITCH_COMPLETE, MIGCLOSE, PEER_REQUEST, PEER_RESPONSE): a request that keeps R157 opens an entry, or waits for one beyond sixteen of a die; a pass copies its lines, and with at most 64 dirty lines, or after the fourth pass, the switch begins; the switch leaves the frame in REDIRECT with MIG.DONE; MIGCLOSE closes it; a peer's request is performed at the home when its key and an export allow it, held while its line or frame is busy, and answered PEER-DENIED otherwise; an answer, PEER-UNREACHABLE from a package outside the pod, goes to the warp or work that asked. -/
def Obligations.MigrationAndPeers : Prop :=
  (∀ s : State, s.clocked = true →
    let r := s.arg.mig
    let n := migBytes r.size
    (∀ open_ : Mig, open_ = { die := homeDie r.old, req := r, todo := List.range (n / 128) } →
      r.size ≤ 1 → r.reserved = 0 → r.old % n = 0 → r.new % n = 0 → s.frameExists r.old n = true → s.frameExists r.new n = true → overlaps r.old n r.new n = false →
      s.inMigration r.old n = false → s.inMigration r.new n = false →
      (s.migCount (homeDie r.old) < 16 → exec .mig s = .next { s with hostReply := .ok, mig := s.mig ++ [open_] }) ∧
      (16 ≤ s.migCount (homeDie r.old) → exec .mig s = .next { s with hostReply := .ok, migWait := s.migWait ++ [r] })) ∧
    ((2 ≤ r.size ∨ r.reserved ≠ 0 ∨ r.old % n ≠ 0 ∨ s.frameExists r.new n = false ∨ overlaps r.old n r.new n = true) → exec .mig s = .next { s with hostReply := .rejected 0 })) ∧
  (∀ (s : State) (g : Mig), s.clocked = true → s.migAt s.arg.addr = some g →
    (g.state ≠ .copy → exec .migrationPassComplete s = .next s) ∧
    (g.state = .copy → g.todo = [] → (∀ h ∈ s.mig, h.req.old = g.req.old → h = g) →
      (64 < g.dirty.length → g.pass < 4 → ∃ u : State, exec .migrationPassComplete s = .next u ∧ u.migAt s.arg.addr = some { g with pass := g.pass + 1, todo := g.dirty, dirty := [] } ∧ s.sameBytes u) ∧
      ((g.dirty.length ≤ 64 ∨ 4 ≤ g.pass) → s.frameLines g = [] → ∃ u : State, exec .migrationPassComplete s = .next u ∧ u.migAt s.arg.addr = some { g with state := .switch } ∧ s.sameBytes u)) ∧
    (s.switchReady g = false → exec .migrationSwitchComplete s = .next s) ∧
    (s.switchReady g = true → s.frameLines g = [] → g.dirty = [] → (∀ h ∈ s.mig, h.req.old = g.req.old → h = g) → ∃ u : State, exec .migrationSwitchComplete s = .next u ∧
      u.migAt s.arg.addr = some { g with state := .redirect, todo := [], dirty := [] } ∧ Msix.migDone ∈ u.msix ∧ (if g.die = 0 then u.migDone.1 else u.migDone.2) = g.req.seq ∧ s.sameBytes u ∧
      (∀ a, g.req.old ≤ a → a < g.req.old + migBytes g.req.size → (∀ h ∈ s.mig, h.req.old ≤ a → a < h.req.old + migBytes h.req.size → h = g) → u.migTarget a = g.req.new + (a - g.req.old))) ∧
    (g.state = .redirect → s.migWait = [] → exec .migclose s = .next { s with mig := s.mig.filter fun h => h.req.old != g.req.old, hostReply := .ok }) ∧
    (g.state ≠ .redirect → exec .migclose s = .next { s with hostReply := .rejected 0 })) ∧
  (∀ s : State, s.clocked = true → s.migAt s.arg.addr = none → exec .migclose s = .next { s with hostReply := .rejected 0 } ∧ exec .migrationPassComplete s = .next s ∧ exec .migrationSwitchComplete s = .next s) ∧
  -- one line of a pass: the new frame's bytes become those of the old
  (∀ (s : State) (g : Mig) (i : Nat), s.memWf → (s.line (g.line i)).home ≠ .de → s.lines.find (g.req.new / 128 + i) = none →
    let u := s.copyLine g i
    (∀ j < 128, u.physByte ((g.req.new / 128 + i) * 128 + j) = s.physByte (g.line i * 128 + j)) ∧
    (∀ a, (a < (g.req.new / 128 + i) * 128 ∨ (g.req.new / 128 + i) * 128 + 128 ≤ a) → u.physByte a = s.physByte a)) ∧
  (∀ (s : State) (r : PeerReq), s.clocked = true → s.arg.preq = r →
    let n := peerOpLen r.op
    let home := tkAgt r.ctx (homeDie r.paddr)
    let st : Store := .mem [⟨r.paddr, n, BitVec.ofNat 128 (r.key * 2 ^ 80)⟩]
    let answers := fun (u : State) (x : PeerAnswer) => Host.Outcome.next ({ u with stoxia := u.stoxia ++ [.peerAnswer r.src { id := r.id, answer := x }] } : State)
    let allowed := (r.key = 0 ∨ s.keys.find r.key = some r.ctx) ∧ (∃ e ∈ s.exports, e.ctx = r.ctx ∧ e.base ≤ r.paddr ∧ r.paddr + n ≤ e.base + e.len) ∧ (s.inHbm r.paddr n = true ∨ s.inCxl r.paddr n = true)
    s.arg.flag = false →
    (¬allowed → exec .peerRequest s = answers s .denied) ∧
    (allowed → s.lineBusy r.paddr n = true → exec .peerRequest s = .next { s with peerHeld := s.peerHeld ++ [r] }) ∧
    (allowed → s.lineBusy r.paddr n = false → s.peerHeld = [] → (∀ k, r.op = .read k → exec .peerRequest s = answers (s.loadFill home false st) (answerOf (s.bytesWithPoison home false st k))) ∧
      (∀ b, r.op = .write b [] → exec .peerRequest s = answers (s.writeWithPoison home st (b.map fun x => (x, none))) (.data [] [])) ∧
      (∀ op b cmp, r.op = .atomic op b cmp → let x := s.atomically home st b.length (atomNew op b.length (if cmp.isEmpty then none else some (leNat cmp)) (leNat b))
        exec .peerRequest s = answers x.1 (answerOf x.2)))) ∧
  (∀ (s : State) (r : PeerOut), s.clocked = true → (s.peerReqs.find? fun x => x.id == s.arg.presp.id && x.pkg != otherDie) = some r →
    let s0 : State := { s with peerReqs := s.peerReqs.filter fun x => x.id != r.id }
    let s1 := (s0.takeLines r s.arg.presp.answer).answerDrops r
    let x := r.read s.arg.presp.answer
    (r.fill = none → r.drops = [] → s1 = s0 ∧ (Config.inPod r.pkg = true → x = s.arg.presp.answer)) ∧
    (Config.inPod r.pkg = false → x = .unreachable) ∧
    (r.posted = true → PeerAnswer.cause x = none → exec .peerResponse s = .next s1) ∧
    (∀ e, r.posted = true → PeerAnswer.cause x = some e → exec .peerResponse s = .next (s1.postedFault r.agt e .write r.addr)) ∧
    (r.posted = false → 48 ≤ r.slot → exec .peerResponse s = .next { s1 with pxData := s1.pxData ++ [(r.data, r.lane, x)] }) ∧
    (∀ w, r.posted = false → r.slot < 48 → s.warp r.core r.slot = some w → w.wait = some .peer → (s1.peerReqs.all fun q => q.posted || q.core != r.core || q.slot != r.slot) = true →
      exec .peerResponse s = .next (s1.setWarp r.core r.slot (({ w with pxRes := w.pxRes ++ [(r.lane, x)] } : Warp).wake s.clock))) ∧
    (∀ w, r.posted = false → r.slot < 48 → s.warp r.core r.slot = some w → (s1.peerReqs.all fun q => q.posted || q.core != r.core || q.slot != r.slot) = false →
      exec .peerResponse s = .next (s1.setWarp r.core r.slot { w with pxRes := w.pxRes ++ [(r.lane, x)] })))

/-- R32-R36, R40 (WALK_COMPLETE, XLT_INV, FQ_REPLAY): a walk that ends caches the translation its tables give, in the die's cache and its requesters' cores, or brings each requester its fault, and its requesters go on; an invalidation drops the cached translations that meet its range and discards the walks in flight, and is complete, with XLT.DONE, when nothing translated before it is outstanding; a replay releases each outstanding faulted page of the context, and its waiters translate again: one whose page is cached goes on, one whose page misses waits for a new walk. -/
def Obligations.TranslationSteps : Prop :=
  (∀ (s : State) (m : Miss), s.clocked = true → (s.misses.find? fun x => x.die == s.arg.die && x.ctx == s.arg.ctx && x.page == s.arg.addr && x.walkDone s.clock) = some m →
    let s0 : State := State.startWalks { s with misses := s.misses.erase m } m.die
    (∀ c size, m.discarded = false → m.replay = true → s0.walk m.die m.ctx (m.page * 65536) = .error (c, size) → s0.replayable m.ctx c = true →
      ∃ u : State, exec .walkComplete s = .next u ∧ u.misses = s0.misses ∧ u.xlfail = s.xlfail ∧ u.tlbDie = s.tlbDie) ∧
    ((m.discarded = true ∨ m.replay = false) → ∃ u : State, exec .walkComplete s = .next u ∧ u.misses = s0.misses ∧ s.sameBytes u ∧
      (∀ e size, m.discarded = false → s0.walk m.die m.ctx (m.page * 65536) = .ok (e, size) →
        let t : TlbEntry := ⟨m.ctx, m.page / (size / 65536) * (size / 65536), size / 65536, e⟩
        t ∈ u.dieTlb m.die ∧ (∀ c, (∃ x ∈ m.waiters, x.who.core = some c) → t ∈ (u.core c).tlb)) ∧
      (∀ c size, m.discarded = false → s0.walk m.die m.ctx (m.page * 65536) = .error (c, size) →
        ∀ x ∈ m.waiters, (⟨x.who, m.page, c, m.page / (size / 65536) * (size / 65536), size / 65536⟩ : XFail) ∈ u.xlfail) ∧
      (m.discarded = true → u.tlbDie = s.tlbDie ∧ u.xlfail = s.xlfail) ∧
      (∀ c k w ps, m.waiters.map (·.who) = [.warp c k] → s.warp c k = some w → w.wait = some (.xlate ps) → s0.whoWaits (.warp c k) = false →
        u.warp c k = some (w.wake s.clock)))) ∧
  -- a free walker takes the misses of its die in their order
  (∀ (s : State) (d : Nat) (m : Miss) (rest : List Miss), s.misses = m :: rest → m.die = d → m.due = none → (∀ x ∈ rest, x.die = d → x.due = none) →
    ∃ y ∈ (s.startWalks d).misses, y = { m with due := some (s.clock + s.latency) }) ∧
  (∀ s : State, s.clocked = true → (s.misses.find? fun x => x.die == s.arg.die && x.ctx == s.arg.ctx && x.page == s.arg.addr && x.walkDone s.clock) = none → exec .walkComplete s = .next s) ∧
  (∀ s : State, s.clocked = true → s.arg.flag = false →
    let x : Inv := ⟨s.arg.ctx, s.arg.addr, s.arg.len, s.arg.seq⟩
    ∃ u : State, exec .xltInv s = .next u ∧ s.sameBytes u ∧
      (∀ e, (e ∈ u.tlbDie.1 ∨ e ∈ u.tlbDie.2 ∨ ∃ k ∈ u.cores, e ∈ k.2.tlb) → x.meets e.ctx e.page e.span = false) ∧
      (∀ m ∈ u.misses, x.meets m.ctx m.page 1 = true → m.discarded = true) ∧
      (∀ c k w, s.warp c k = some w → u.warp c k = some (if s.ctxOf w = x.ctx then { w with late := [] } else w)) ∧
      (∀ c, s.ctx x.ctx = some c → (s.dropRange x).invHeld x = false → x ∉ s.invs → u.ctx x.ctx = some { c with xltDone := x.seq } ∧ u.invs = s.invs) ∧
      ((s.dropRange x).invHeld x = true → u.invs = s.invs ++ [x] ∧ u.ctxs = s.ctxs)) ∧
  (∀ (s : State) (x : Inv) (c : Ctx), s.clocked = true → s.arg.flag = true → (s.invs.find? fun y => y.ctx == s.arg.ctx) = some x → s.ctx x.ctx = some c →
    (s.invHeld x = true → exec .xltInv s = .next s) ∧
    (s.invHeld x = false → ∃ u : State, exec .xltInv s = .next u ∧ u.ctx x.ctx = some { c with xltDone := x.seq } ∧ u.invs = s.invs.erase x)) ∧
  (∀ s : State, s.clocked = true → ∃ u : State, exec .fqReplay s = .next u ∧ (∀ f ∈ s.pfaults, f.ctx ≠ s.arg.ctx → f ∈ u.pfaults) ∧
    ((∀ f ∈ s.pfaults, f.ctx = s.arg.ctx → 2 ≤ f.die ∨ f.waiters = []) → u = s)) ∧
  -- one faulted page with one waiter
  (∀ (s : State) (f : PFault) (x : Waiter) (c k : Nat) (w : Warp) (ps : List Nat), s.clocked = true → s.misses = [] → s.pfaults = [f] → s.xlfail = [] → f.ctx = s.arg.ctx → f.die < 2 → f.waiters = [x] →
    x.who = .warp c k → s.warp c k = some w → w.wait = some (.xlate ps) →
    let g : Agt := x.agt f.ctx f.die
    let page := x.addr / 65536
    let t := s.trPage g x.acc (page, x.addr, 1)
    (t.missed = [] → (∀ e ∈ t.faults, s.replayable f.ctx e.cause = false) → ∃ u : State, exec .fqReplay s = .next u ∧ s.sameBytes u ∧ u.warp c k = some (w.wake s.clock) ∧
      u.pfaults = [{ f with waiters := [], replays := f.replays + 1 }]) ∧
    (t.missed ≠ [] → ∃ u : State, exec .fqReplay s = .next u ∧ s.sameBytes u ∧ u.warp c k = some w ∧ u.pfaults = [{ f with waiters := [], replays := f.replays + 1 }] ∧
      u.misses = [{ die := f.die, ctx := f.ctx, page := page, due := some (s.clock + s.latency), replay := true, waiters := [⟨.warp c k, x.path, x.addr, x.acc⟩] }]))

/-- Words the spec writes out, of every format and of most families, decode to what they stand for (R313, R316, R318, R320, R361, R377, R391, R399, R402, R416, R447, R449). -/
def Obligations.DecodedWords : Prop :=
  decodeWarp 0x005C101814004002 = .ok (.iadd { g := 7, dst := 4, sa := 6, sb := 5, sc := 0, ty := 2, md := 0, sbd := 0, us := 2 }) ∧
  decodeWarp 0x04DC2C2400003004 = .ok (.ctz { g := 7, dst := 11, sa := 9, sb := 0, sc := 0, ty := 1, md := 64, sbd := 0, us := 4 }) ∧
  decodeWarp 0x10E8282C30350400 = .ok (.ffma { g := 10, dst := 10, sa := 11, sb := 12, sc := 13, ty := 8, md := 16, sbd := 0, us := 0 }) ∧
  decodeWarp 0x205C808084012000 = .ok (.cvtpk { g := 7, dst := 32, sa := 32, sb := 33, sc := 0, ty := 9, md := 0, sbd := 0, us := 0 }) ∧
  decodeWarp 0x24DC504838182403 = .ok (.shfl { g := 7, dst := 20, sa := 18, sb := 14, sc := 6, ty := 1, md := 16, sbd := 0, us := 3 }) ∧
  decodeWarp 0x2C44000000E00000 = .ok (.brx { g := 1, tgt := 0x38, md := 0 }) ∧
  decodeWarp 0x341C501C00101249 = .ok (.ld { g := 7, data := 20, base := 7, off := 0x40, sp := 2, sz := 2, ord := 1, scope := 1, sbd := 1 }) ∧
  decodeWarp 0x349C200800040ADA = .ok (.atom { g := 7, data := 8, base := 2, off := 16, sp := 1, sz := 2, ord := 3, scope := 3, sbd := 2 }) ∧
  decodeWarp 0x429C080000006000 = .ok (.bar { g := 7, dst := 2, sa := 0, sb := 0, sc := 0, ty := 3, md := 0, sbd := 0, us := 0 }) ∧
  decodeWarp 0x445C100000000248 = .ok (.takeAny { g := 7, dst := 4, sa := 0, sb := 0, sc := 0, ty := 0, md := 9, sbd := 1, us := 0 }) ∧
  decodeWarp 0x521C600000000018 = .ok (.sigclaim { g := 7, dst := 24, sa := 0, sb := 0, sc := 0, ty := 0, md := 0, sbd := 3, us := 0 }) ∧
  decodeWarp 0x581C0000000000A8 = .ok (.trap { g := 7, dst := 0, sa := 0, imm := 0x2A, us := 0 }) ∧
  decodeWarp 0x589C0C000000004A = .ok (.getctl { g := 7, dst := 3, sa := 0, imm := 0x12, us := 2 }) ∧
  decodeSlot .b 0xF09C000005000003 = .ok (.loopi { g := 7, tgt := 0x140, md := 3 }) ∧
  decodeSlot .s 0xA21D440000000004 = .ok (.hadvc { g := 7, dst := 0x51, sa := 0, imm := 1, us := 0 }) ∧
  decodeSlot .m 0xE01C204060012000 = .ok (.mma { g := 7, dt := 8, ta := 16, tb := 24, tc := 0, ty := 9, ax := 0, md := 0, hd := 0 }) ∧
  decodeSlot .c0 0xE81E040004000000 = .ok (.tld { g := 7, data := 0x81, base := 0, off := 0x1000, sp := 0, sz := 0, ord := 0, scope := 0, sbd := 0 })

/-- R310, R325 and the fates of R329. A word of opcode 0 is NOP with any guard where its bits [49:0] are zero, and has no effect in a clause or in a slot; else it is no instruction. A slot accepts opcodes of its row of R325 and NOP, some word of each, and no other. A warp that meets a word that is no instruction traps with cause ILLEGAL at its lowest active lane and changes nothing else but the instruction buffer; a bundle with a word its slot does not accept is a sequencer fault with cause ILLEGAL and that slot. -/
def Obligations.IllegalWords : Prop :=
  (∀ (ag : Agent) (w : Word64), w.extractLsb' 54 10 = 0 →
    (w.extractLsb' 0 50 = 0 → decodeFor ag w = .ok (.nop ⟨w.extractLsb' 50 4, 0⟩)) ∧ (w.extractLsb' 0 50 ≠ 0 → ∃ e, decodeFor ag w = .error e)) ∧
  (∀ (s : State) (x : NopF), (∀ c k w, s.Acting c k w → exec (.nop x) s = .next (s.retired c k)) ∧
    (∀ c sl q, s.cur = .slot c sl → s.seq c = some q → exec (.nop x) s = .next s)) ∧
  (let row : Slot → Nat → Prop := fun sl o => match sl with
      | .b => 0x3C0 ≤ o ∧ o ≤ 0x3C8
      | .s => (1 ≤ o ∧ o ≤ 0x19) ∨ (0x20 ≤ o ∧ o ≤ 0x25) ∨ o = 0x162 ∨ o = 0x163 ∨ (0x280 ≤ o ∧ o ≤ 0x28B) ∨ o = 0x28D ∨ o = 0x28E
      | .v0 | .v1 => 0x300 ≤ o ∧ o ≤ 0x320
      | .m => 0x380 ≤ o ∧ o ≤ 0x385
      | .c0 | .c1 => 0x3A0 ≤ o ∧ o ≤ 0x3A6
   ∀ sl, (∀ w i, decodeSlot sl w = .ok i → (w.extractLsb' 54 10).toNat = 0 ∨ row sl (w.extractLsb' 54 10).toNat) ∧
     ∀ o, row sl o → ∃ w i, (w.extractLsb' 54 10).toNat = o ∧ decodeSlot sl w = .ok i) ∧
  (∀ (s : State) (c k : Nat) (rest : List Turn) (w : Warp) (a h : Word64) (p : Piece) (ps : List Piece) (e : DecodeError),
    s.inbox = [] → s.frozen = false → s.agenda = .warp c k :: rest → s.warp c k = some w →
    w.st = .ready → w.wait = none → w.active ≠ 0 → w.stack.length ≤ 16 → s.runnable c k w = true → w.clause = some (a, h) →
    let s0 := ({ s with agenda := rest } : State).setWarp c k w
    let g := s0.fetchAgt c k w
    let pa := s0.migTarget p.pa
    let key := pteKey p.pte
    s0.check g .fetch 1 w.pc 8 = .ok (.mem (p :: ps)) → s0.ibufHit c pa = none → s0.lineBusy p.pa 8 = false → s0.codePoison g key pa = none →
    decodeWarp (BitVec.ofNat 64 (leNat (s0.codeBytes key pa 8))) = .error e →
    step s = .next ((s0.fillIbuf c key pa).takeTrap c k { cause := .illegal, lane := lowLane w.active })) ∧
  (∀ (s : State) (c : Nat) (q : Seq) (b : Block), s.clocked = true → s.arg.core = c → s.seq c = some q → q.st = .running → q.syncing = false →
    q.haltNext = none → q.mpoison = none → s.block q.block = some b → b.st = .resident → b.stopping = false →
    ∀ ws t sl e, (s.setSeq c q).fetchWords c q 8 q.pc.toNat [] = .words ws t → bundleHeaderOk (ws.getD 0 0) (slotWord ws .s) = true →
      (∀ w ∈ headerWaits (ws.getD 0 0), (q.handles.find (waitHandle w)).isSome = true) → (headerWaits (ws.getD 0 0)).all q.waitMet = true →
      t.stakeHolds c q ws = false → (t.sMisses c q ws).1 = [] →
      decodeSlot sl (slotWord ws sl) = .error e → (∀ x, Slot.code x < Slot.code sl → ∃ i, decodeSlot x (slotWord ws x) = .ok i) →
      exec .sequencerBundleIssue s = .next ((t.seqFault c .illegal (Slot.code sl) 0).draw)) ∧
  Cause.code .illegal = 1 ∧ (Slot.all.map Slot.code = [0, 1, 2, 3, 4, 5, 6])

/-- R17: the descriptor of a job for a context that does not live is checked against seven cases in their order; the number of the first that fails is the reply, no context is made and nothing else changes. Where none fails the context is made with the descriptor's fields, and no other context changes. -/
def Obligations.JobDescriptor : Prop :=
  ∀ s : State, s.clocked = true → s.arg.bytes.length = 64 → (∀ x, s.ctx s.arg.ctx = some x → x.ended = true) →
    let b := s.arg.bytes
    let root := fieldAt b 0x00 8
    let base := fieldAt b 0x08 8
    let size := fieldAt b 0x10 4
    let off := fun (die : Nat) => fieldAt b (0x18 + 4 * die) 2
    let len := fun (die : Nat) => fieldAt b (0x1A + 4 * die) 2
    let carve := fun (die : Nat) => match s.boot with
      | some x => if die = 0 then x.scr0 else x.scr1
      | none => 0
    let grant := fun (x : Ctx) (die : Nat) => if die = 0 then x.scr0 else x.scr1
    let fails : Nat → Prop := fun n =>
      if n = 1 then root % 2 ^ 18 ≠ 0 ∨ s.inHbm root (2 ^ 18) = false
      else if n = 2 then base % 2 ^ 16 ≠ 0 ∨ 0x00FFF00000000000 < base + 294912 * (size * 2 ^ 16)
      else if n = 3 then size = 0 ∨ 1024 < size
      else if n = 4 then fieldAt b 0x14 1 ≠ 0 ∧ fieldAt b 0x14 1 ≠ 1
      else if n = 5 then ∃ die < 2, 16 < len die ∨ carve die < off die + len die
      else if n = 6 then ∃ die < 2, ∃ e ∈ s.ctxs, e.1 ≠ s.arg.ctx ∧ e.2.ended = false ∧
        ∃ u, off die ≤ u ∧ u < off die + len die ∧ (grant e.2 die).1 ≤ u ∧ u < (grant e.2 die).1 + (grant e.2 die).2
      else n = 7 ∧ (fieldAt b 0x15 3 ≠ 0 ∨ fieldAt b 0x20 32 ≠ 0)
    (∀ n, fails n → (∀ j, j < n → ¬ fails j) → exec .jobCreation s = .next { s with hostReply := .rejected n }) ∧
    ((∀ n, ¬ fails n) → ∃ t x, exec .jobCreation s = .next t ∧ t.hostReply = .ok ∧ t.ctx s.arg.ctx = some x ∧ x.root = root ∧ x.laneBase = base ∧
      x.laneSize = size * 65536 ∧ x.fmode = fieldAt b 0x14 1 ∧ x.scr0 = (off 0, len 0) ∧ x.scr1 = (off 1, len 1) ∧
      x.traph = 0 ∧ x.ended = false ∧ x.terminating = none ∧ t.mem = s.mem ∧ (∀ c, c ≠ s.arg.ctx → t.ctx c = s.ctx c) ∧
      ∀ a, x.scr0.1 * 0x400000 ≤ a → a < (x.scr0.1 + x.scr0.2) * 0x400000 → byteOf t.scratch a = 0)
end

