-- ==== Sys2Proof/Laws/Encoding.lean ====
section
/-! SUPPORT. The fields of a word made from an opcode and fields are those fields (R313), and a word is made of the fields read from it. -/
namespace Sys2Proof

theorem extr_hi {n m k : Nat} (x : BitVec n) (y : BitVec m) (z : BitVec k) (hk : n + m = k) (hz : z = (x ++ y).cast hk)
    (s l : Nat) (h : m ≤ s) : z.extractLsb' s l = x.extractLsb' (s - m) l := by
  subst hk; subst hz; simpa using BitVec.extractLsb'_append_eq_of_le h

theorem extr_lo {n m k : Nat} (x : BitVec n) (y : BitVec m) (z : BitVec k) (hk : n + m = k) (hz : z = (x ++ y).cast hk)
    (s l : Nat) (h : s + l ≤ m) : z.extractLsb' s l = y.extractLsb' s l := by
  subst hk; subst hz; simpa using BitVec.extractLsb'_append_eq_of_add_le h

/-- A word cut in two at a bit is the two parts joined. -/
theorem extr_join {n m k : Nat} (z : BitVec k) (hk : n + m = k) : z = (z.extractLsb' m n ++ z.extractLsb' 0 m).cast hk := by
  subst hk
  apply BitVec.eq_of_getLsbD_eq
  intro i hi
  rw [BitVec.cast_eq, BitVec.getLsbD_append]
  by_cases h : i < m
  · simp [h]
  · simp [h]; rw [show m + (i - m) = i by omega]; simp; intro; omega

/-- Adjoining fields of a word are one field. -/
theorem extr_extr {k : Nat} (z : BitVec k) (s n m : Nat) : z.extractLsb' (s + m) n ++ z.extractLsb' s m = z.extractLsb' s (n + m) := by
  apply BitVec.eq_of_getLsbD_eq
  intro i hi
  rw [BitVec.getLsbD_append]
  by_cases h : i < m
  · simp [h]; intro; omega
  · rw [if_neg h, BitVec.getLsbD_extractLsb', BitVec.getLsbD_extractLsb', show s + m + (i - m) = s + i by omega,
      decide_eq_true (by omega : i - m < n), decide_eq_true (by omega : i < n + m)]

theorem opcode_word (opc : BitVec 10) (b : BitVec 54) : (opc ++ b : Word64).extractLsb' 54 10 = opc := BitVec.extractLsb'_append_eq_left

theorem NopF.ofWord_word (opc : BitVec 10) (f : NopF) : NopF.ofWord (opc ++ f.toBits) = f := by
  obtain ⟨g, body⟩ := f
  generalize hw : (opc ++ NopF.toBits ⟨g, body⟩ : Word64) = w
  have e (k n) (h : k + n ≤ 54) := extr_lo opc (NopF.toBits ⟨g, body⟩) w rfl hw.symm k n h
  have e2 (k n) (h : 50 ≤ k) := extr_hi g body (NopF.toBits ⟨g, body⟩) rfl rfl k n h
  have l2 (k n) (h : k + n ≤ 50) := extr_lo g body (NopF.toBits ⟨g, body⟩) rfl rfl k n h
  have h0 : w.extractLsb' 50 4 = g := by rw [e 50 4 (by decide), e2 (50) 4 (by decide)]; exact BitVec.extractLsb'_eq_self
  have h1 : w.extractLsb' 0 50 = body := by rw [e 0 50 (by decide), l2 (0) 50 (by decide)]; exact BitVec.extractLsb'_eq_self
  simp only [NopF.ofWord, h0, h1]

theorem NopF.word_ofWord (w : Word64) : (w.extractLsb' 54 10 ++ (NopF.ofWord w).toBits : Word64) = w := by
  have h : (NopF.ofWord w).toBits = w.extractLsb' 0 54 := by
    have t0 : (w.extractLsb' 50 4 ++ w.extractLsb' 0 50) = w.extractLsb' 0 54 := extr_extr w 0 4 50
    exact t0
  rw [h]
  exact (extr_join w rfl).symm

theorem RR.ofWord_word (opc : BitVec 10) (f : RR) : RR.ofWord (opc ++ f.toBits) = f := by
  obtain ⟨g, dst, sa, sb, sc, ty, md, sbd, us⟩ := f
  generalize hw : (opc ++ RR.toBits ⟨g, dst, sa, sb, sc, ty, md, sbd, us⟩ : Word64) = w
  have e (k n) (h : k + n ≤ 54) := extr_lo opc (RR.toBits ⟨g, dst, sa, sb, sc, ty, md, sbd, us⟩) w rfl hw.symm k n h
  have e9 (k n) (h : 3 ≤ k) := extr_hi (g ++ dst ++ sa ++ sb ++ sc ++ ty ++ md ++ sbd) us (RR.toBits ⟨g, dst, sa, sb, sc, ty, md, sbd, us⟩) rfl rfl k n h
  have l9 (k n) (h : k + n ≤ 3) := extr_lo (g ++ dst ++ sa ++ sb ++ sc ++ ty ++ md ++ sbd) us (RR.toBits ⟨g, dst, sa, sb, sc, ty, md, sbd, us⟩) rfl rfl k n h
  have e8 (k n) (h : 3 ≤ k) := extr_hi (g ++ dst ++ sa ++ sb ++ sc ++ ty ++ md) sbd (g ++ dst ++ sa ++ sb ++ sc ++ ty ++ md ++ sbd) rfl rfl k n h
  have l8 (k n) (h : k + n ≤ 3) := extr_lo (g ++ dst ++ sa ++ sb ++ sc ++ ty ++ md) sbd (g ++ dst ++ sa ++ sb ++ sc ++ ty ++ md ++ sbd) rfl rfl k n h
  have e7 (k n) (h : 7 ≤ k) := extr_hi (g ++ dst ++ sa ++ sb ++ sc ++ ty) md (g ++ dst ++ sa ++ sb ++ sc ++ ty ++ md) rfl rfl k n h
  have l7 (k n) (h : k + n ≤ 7) := extr_lo (g ++ dst ++ sa ++ sb ++ sc ++ ty) md (g ++ dst ++ sa ++ sb ++ sc ++ ty ++ md) rfl rfl k n h
  have e6 (k n) (h : 5 ≤ k) := extr_hi (g ++ dst ++ sa ++ sb ++ sc) ty (g ++ dst ++ sa ++ sb ++ sc ++ ty) rfl rfl k n h
  have l6 (k n) (h : k + n ≤ 5) := extr_lo (g ++ dst ++ sa ++ sb ++ sc) ty (g ++ dst ++ sa ++ sb ++ sc ++ ty) rfl rfl k n h
  have e5 (k n) (h : 8 ≤ k) := extr_hi (g ++ dst ++ sa ++ sb) sc (g ++ dst ++ sa ++ sb ++ sc) rfl rfl k n h
  have l5 (k n) (h : k + n ≤ 8) := extr_lo (g ++ dst ++ sa ++ sb) sc (g ++ dst ++ sa ++ sb ++ sc) rfl rfl k n h
  have e4 (k n) (h : 8 ≤ k) := extr_hi (g ++ dst ++ sa) sb (g ++ dst ++ sa ++ sb) rfl rfl k n h
  have l4 (k n) (h : k + n ≤ 8) := extr_lo (g ++ dst ++ sa) sb (g ++ dst ++ sa ++ sb) rfl rfl k n h
  have e3 (k n) (h : 8 ≤ k) := extr_hi (g ++ dst) sa (g ++ dst ++ sa) rfl rfl k n h
  have l3 (k n) (h : k + n ≤ 8) := extr_lo (g ++ dst) sa (g ++ dst ++ sa) rfl rfl k n h
  have e2 (k n) (h : 8 ≤ k) := extr_hi g dst (g ++ dst) rfl rfl k n h
  have l2 (k n) (h : k + n ≤ 8) := extr_lo g dst (g ++ dst) rfl rfl k n h
  have h0 : w.extractLsb' 50 4 = g := by rw [e 50 4 (by decide), e9 (50) 4 (by decide), e8 (50 - 3) 4 (by decide), e7 (50 - 3 - 3) 4 (by decide), e6 (50 - 3 - 3 - 7) 4 (by decide), e5 (50 - 3 - 3 - 7 - 5) 4 (by decide), e4 (50 - 3 - 3 - 7 - 5 - 8) 4 (by decide), e3 (50 - 3 - 3 - 7 - 5 - 8 - 8) 4 (by decide), e2 (50 - 3 - 3 - 7 - 5 - 8 - 8 - 8) 4 (by decide)]; exact BitVec.extractLsb'_eq_self
  have h1 : w.extractLsb' 42 8 = dst := by rw [e 42 8 (by decide), e9 (42) 8 (by decide), e8 (42 - 3) 8 (by decide), e7 (42 - 3 - 3) 8 (by decide), e6 (42 - 3 - 3 - 7) 8 (by decide), e5 (42 - 3 - 3 - 7 - 5) 8 (by decide), e4 (42 - 3 - 3 - 7 - 5 - 8) 8 (by decide), e3 (42 - 3 - 3 - 7 - 5 - 8 - 8) 8 (by decide), l2 (42 - 3 - 3 - 7 - 5 - 8 - 8 - 8) 8 (by decide)]; exact BitVec.extractLsb'_eq_self
  have h2 : w.extractLsb' 34 8 = sa := by rw [e 34 8 (by decide), e9 (34) 8 (by decide), e8 (34 - 3) 8 (by decide), e7 (34 - 3 - 3) 8 (by decide), e6 (34 - 3 - 3 - 7) 8 (by decide), e5 (34 - 3 - 3 - 7 - 5) 8 (by decide), e4 (34 - 3 - 3 - 7 - 5 - 8) 8 (by decide), l3 (34 - 3 - 3 - 7 - 5 - 8 - 8) 8 (by decide)]; exact BitVec.extractLsb'_eq_self
  have h3 : w.extractLsb' 26 8 = sb := by rw [e 26 8 (by decide), e9 (26) 8 (by decide), e8 (26 - 3) 8 (by decide), e7 (26 - 3 - 3) 8 (by decide), e6 (26 - 3 - 3 - 7) 8 (by decide), e5 (26 - 3 - 3 - 7 - 5) 8 (by decide), l4 (26 - 3 - 3 - 7 - 5 - 8) 8 (by decide)]; exact BitVec.extractLsb'_eq_self
  have h4 : w.extractLsb' 18 8 = sc := by rw [e 18 8 (by decide), e9 (18) 8 (by decide), e8 (18 - 3) 8 (by decide), e7 (18 - 3 - 3) 8 (by decide), e6 (18 - 3 - 3 - 7) 8 (by decide), l5 (18 - 3 - 3 - 7 - 5) 8 (by decide)]; exact BitVec.extractLsb'_eq_self
  have h5 : w.extractLsb' 13 5 = ty := by rw [e 13 5 (by decide), e9 (13) 5 (by decide), e8 (13 - 3) 5 (by decide), e7 (13 - 3 - 3) 5 (by decide), l6 (13 - 3 - 3 - 7) 5 (by decide)]; exact BitVec.extractLsb'_eq_self
  have h6 : w.extractLsb' 6 7 = md := by rw [e 6 7 (by decide), e9 (6) 7 (by decide), e8 (6 - 3) 7 (by decide), l7 (6 - 3 - 3) 7 (by decide)]; exact BitVec.extractLsb'_eq_self
  have h7 : w.extractLsb' 3 3 = sbd := by rw [e 3 3 (by decide), e9 (3) 3 (by decide), l8 (3 - 3) 3 (by decide)]; exact BitVec.extractLsb'_eq_self
  have h8 : w.extractLsb' 0 3 = us := by rw [e 0 3 (by decide), l9 (0) 3 (by decide)]; exact BitVec.extractLsb'_eq_self
  simp only [RR.ofWord, h0, h1, h2, h3, h4, h5, h6, h7, h8]

theorem RR.word_ofWord (w : Word64) : (w.extractLsb' 54 10 ++ (RR.ofWord w).toBits : Word64) = w := by
  have h : (RR.ofWord w).toBits = w.extractLsb' 0 54 := by
    have t0 : (w.extractLsb' 50 4 ++ w.extractLsb' 42 8) = w.extractLsb' 42 12 := extr_extr w 42 4 8
    have t1 : ((w.extractLsb' 50 4 ++ w.extractLsb' 42 8) ++ w.extractLsb' 34 8) = w.extractLsb' 34 20 := by rw [t0]; exact extr_extr w 34 12 8
    have t2 : (((w.extractLsb' 50 4 ++ w.extractLsb' 42 8) ++ w.extractLsb' 34 8) ++ w.extractLsb' 26 8) = w.extractLsb' 26 28 := by rw [t1]; exact extr_extr w 26 20 8
    have t3 : ((((w.extractLsb' 50 4 ++ w.extractLsb' 42 8) ++ w.extractLsb' 34 8) ++ w.extractLsb' 26 8) ++ w.extractLsb' 18 8) = w.extractLsb' 18 36 := by rw [t2]; exact extr_extr w 18 28 8
    have t4 : (((((w.extractLsb' 50 4 ++ w.extractLsb' 42 8) ++ w.extractLsb' 34 8) ++ w.extractLsb' 26 8) ++ w.extractLsb' 18 8) ++ w.extractLsb' 13 5) = w.extractLsb' 13 41 := by rw [t3]; exact extr_extr w 13 36 5
    have t5 : ((((((w.extractLsb' 50 4 ++ w.extractLsb' 42 8) ++ w.extractLsb' 34 8) ++ w.extractLsb' 26 8) ++ w.extractLsb' 18 8) ++ w.extractLsb' 13 5) ++ w.extractLsb' 6 7) = w.extractLsb' 6 48 := by rw [t4]; exact extr_extr w 6 41 7
    have t6 : (((((((w.extractLsb' 50 4 ++ w.extractLsb' 42 8) ++ w.extractLsb' 34 8) ++ w.extractLsb' 26 8) ++ w.extractLsb' 18 8) ++ w.extractLsb' 13 5) ++ w.extractLsb' 6 7) ++ w.extractLsb' 3 3) = w.extractLsb' 3 51 := by rw [t5]; exact extr_extr w 3 48 3
    have t7 : ((((((((w.extractLsb' 50 4 ++ w.extractLsb' 42 8) ++ w.extractLsb' 34 8) ++ w.extractLsb' 26 8) ++ w.extractLsb' 18 8) ++ w.extractLsb' 13 5) ++ w.extractLsb' 6 7) ++ w.extractLsb' 3 3) ++ w.extractLsb' 0 3) = w.extractLsb' 0 54 := by rw [t6]; exact extr_extr w 0 51 3
    exact t7
  rw [h]
  exact (extr_join w rfl).symm

theorem RI.ofWord_word (opc : BitVec 10) (f : RI) : RI.ofWord (opc ++ f.toBits) = f := by
  obtain ⟨g, dst, sa, imm, us⟩ := f
  generalize hw : (opc ++ RI.toBits ⟨g, dst, sa, imm, us⟩ : Word64) = w
  have e (k n) (h : k + n ≤ 54) := extr_lo opc (RI.toBits ⟨g, dst, sa, imm, us⟩) w rfl hw.symm k n h
  have e5 (k n) (h : 2 ≤ k) := extr_hi (g ++ dst ++ sa ++ imm) us (RI.toBits ⟨g, dst, sa, imm, us⟩) rfl rfl k n h
  have l5 (k n) (h : k + n ≤ 2) := extr_lo (g ++ dst ++ sa ++ imm) us (RI.toBits ⟨g, dst, sa, imm, us⟩) rfl rfl k n h
  have e4 (k n) (h : 32 ≤ k) := extr_hi (g ++ dst ++ sa) imm (g ++ dst ++ sa ++ imm) rfl rfl k n h
  have l4 (k n) (h : k + n ≤ 32) := extr_lo (g ++ dst ++ sa) imm (g ++ dst ++ sa ++ imm) rfl rfl k n h
  have e3 (k n) (h : 8 ≤ k) := extr_hi (g ++ dst) sa (g ++ dst ++ sa) rfl rfl k n h
  have l3 (k n) (h : k + n ≤ 8) := extr_lo (g ++ dst) sa (g ++ dst ++ sa) rfl rfl k n h
  have e2 (k n) (h : 8 ≤ k) := extr_hi g dst (g ++ dst) rfl rfl k n h
  have l2 (k n) (h : k + n ≤ 8) := extr_lo g dst (g ++ dst) rfl rfl k n h
  have h0 : w.extractLsb' 50 4 = g := by rw [e 50 4 (by decide), e5 (50) 4 (by decide), e4 (50 - 2) 4 (by decide), e3 (50 - 2 - 32) 4 (by decide), e2 (50 - 2 - 32 - 8) 4 (by decide)]; exact BitVec.extractLsb'_eq_self
  have h1 : w.extractLsb' 42 8 = dst := by rw [e 42 8 (by decide), e5 (42) 8 (by decide), e4 (42 - 2) 8 (by decide), e3 (42 - 2 - 32) 8 (by decide), l2 (42 - 2 - 32 - 8) 8 (by decide)]; exact BitVec.extractLsb'_eq_self
  have h2 : w.extractLsb' 34 8 = sa := by rw [e 34 8 (by decide), e5 (34) 8 (by decide), e4 (34 - 2) 8 (by decide), l3 (34 - 2 - 32) 8 (by decide)]; exact BitVec.extractLsb'_eq_self
  have h3 : w.extractLsb' 2 32 = imm := by rw [e 2 32 (by decide), e5 (2) 32 (by decide), l4 (2 - 2) 32 (by decide)]; exact BitVec.extractLsb'_eq_self
  have h4 : w.extractLsb' 0 2 = us := by rw [e 0 2 (by decide), l5 (0) 2 (by decide)]; exact BitVec.extractLsb'_eq_self
  simp only [RI.ofWord, h0, h1, h2, h3, h4]

theorem RI.word_ofWord (w : Word64) : (w.extractLsb' 54 10 ++ (RI.ofWord w).toBits : Word64) = w := by
  have h : (RI.ofWord w).toBits = w.extractLsb' 0 54 := by
    have t0 : (w.extractLsb' 50 4 ++ w.extractLsb' 42 8) = w.extractLsb' 42 12 := extr_extr w 42 4 8
    have t1 : ((w.extractLsb' 50 4 ++ w.extractLsb' 42 8) ++ w.extractLsb' 34 8) = w.extractLsb' 34 20 := by rw [t0]; exact extr_extr w 34 12 8
    have t2 : (((w.extractLsb' 50 4 ++ w.extractLsb' 42 8) ++ w.extractLsb' 34 8) ++ w.extractLsb' 2 32) = w.extractLsb' 2 52 := by rw [t1]; exact extr_extr w 2 20 32
    have t3 : ((((w.extractLsb' 50 4 ++ w.extractLsb' 42 8) ++ w.extractLsb' 34 8) ++ w.extractLsb' 2 32) ++ w.extractLsb' 0 2) = w.extractLsb' 0 54 := by rw [t2]; exact extr_extr w 0 52 2
    exact t3
  rw [h]
  exact (extr_join w rfl).symm

theorem MEM.ofWord_word (opc : BitVec 10) (f : MEM) : MEM.ofWord (opc ++ f.toBits) = f := by
  obtain ⟨g, data, base, off, sp, sz, ord, scope, sbd⟩ := f
  generalize hw : (opc ++ MEM.toBits ⟨g, data, base, off, sp, sz, ord, scope, sbd⟩ : Word64) = w
  have e (k n) (h : k + n ≤ 54) := extr_lo opc (MEM.toBits ⟨g, data, base, off, sp, sz, ord, scope, sbd⟩) w rfl hw.symm k n h
  have e9 (k n) (h : 3 ≤ k) := extr_hi (g ++ data ++ base ++ off ++ sp ++ sz ++ ord ++ scope) sbd (MEM.toBits ⟨g, data, base, off, sp, sz, ord, scope, sbd⟩) rfl rfl k n h
  have l9 (k n) (h : k + n ≤ 3) := extr_lo (g ++ data ++ base ++ off ++ sp ++ sz ++ ord ++ scope) sbd (MEM.toBits ⟨g, data, base, off, sp, sz, ord, scope, sbd⟩) rfl rfl k n h
  have e8 (k n) (h : 3 ≤ k) := extr_hi (g ++ data ++ base ++ off ++ sp ++ sz ++ ord) scope (g ++ data ++ base ++ off ++ sp ++ sz ++ ord ++ scope) rfl rfl k n h
  have l8 (k n) (h : k + n ≤ 3) := extr_lo (g ++ data ++ base ++ off ++ sp ++ sz ++ ord) scope (g ++ data ++ base ++ off ++ sp ++ sz ++ ord ++ scope) rfl rfl k n h
  have e7 (k n) (h : 2 ≤ k) := extr_hi (g ++ data ++ base ++ off ++ sp ++ sz) ord (g ++ data ++ base ++ off ++ sp ++ sz ++ ord) rfl rfl k n h
  have l7 (k n) (h : k + n ≤ 2) := extr_lo (g ++ data ++ base ++ off ++ sp ++ sz) ord (g ++ data ++ base ++ off ++ sp ++ sz ++ ord) rfl rfl k n h
  have e6 (k n) (h : 3 ≤ k) := extr_hi (g ++ data ++ base ++ off ++ sp) sz (g ++ data ++ base ++ off ++ sp ++ sz) rfl rfl k n h
  have l6 (k n) (h : k + n ≤ 3) := extr_lo (g ++ data ++ base ++ off ++ sp) sz (g ++ data ++ base ++ off ++ sp ++ sz) rfl rfl k n h
  have e5 (k n) (h : 3 ≤ k) := extr_hi (g ++ data ++ base ++ off) sp (g ++ data ++ base ++ off ++ sp) rfl rfl k n h
  have l5 (k n) (h : k + n ≤ 3) := extr_lo (g ++ data ++ base ++ off) sp (g ++ data ++ base ++ off ++ sp) rfl rfl k n h
  have e4 (k n) (h : 20 ≤ k) := extr_hi (g ++ data ++ base) off (g ++ data ++ base ++ off) rfl rfl k n h
  have l4 (k n) (h : k + n ≤ 20) := extr_lo (g ++ data ++ base) off (g ++ data ++ base ++ off) rfl rfl k n h
  have e3 (k n) (h : 8 ≤ k) := extr_hi (g ++ data) base (g ++ data ++ base) rfl rfl k n h
  have l3 (k n) (h : k + n ≤ 8) := extr_lo (g ++ data) base (g ++ data ++ base) rfl rfl k n h
  have e2 (k n) (h : 8 ≤ k) := extr_hi g data (g ++ data) rfl rfl k n h
  have l2 (k n) (h : k + n ≤ 8) := extr_lo g data (g ++ data) rfl rfl k n h
  have h0 : w.extractLsb' 50 4 = g := by rw [e 50 4 (by decide), e9 (50) 4 (by decide), e8 (50 - 3) 4 (by decide), e7 (50 - 3 - 3) 4 (by decide), e6 (50 - 3 - 3 - 2) 4 (by decide), e5 (50 - 3 - 3 - 2 - 3) 4 (by decide), e4 (50 - 3 - 3 - 2 - 3 - 3) 4 (by decide), e3 (50 - 3 - 3 - 2 - 3 - 3 - 20) 4 (by decide), e2 (50 - 3 - 3 - 2 - 3 - 3 - 20 - 8) 4 (by decide)]; exact BitVec.extractLsb'_eq_self
  have h1 : w.extractLsb' 42 8 = data := by rw [e 42 8 (by decide), e9 (42) 8 (by decide), e8 (42 - 3) 8 (by decide), e7 (42 - 3 - 3) 8 (by decide), e6 (42 - 3 - 3 - 2) 8 (by decide), e5 (42 - 3 - 3 - 2 - 3) 8 (by decide), e4 (42 - 3 - 3 - 2 - 3 - 3) 8 (by decide), e3 (42 - 3 - 3 - 2 - 3 - 3 - 20) 8 (by decide), l2 (42 - 3 - 3 - 2 - 3 - 3 - 20 - 8) 8 (by decide)]; exact BitVec.extractLsb'_eq_self
  have h2 : w.extractLsb' 34 8 = base := by rw [e 34 8 (by decide), e9 (34) 8 (by decide), e8 (34 - 3) 8 (by decide), e7 (34 - 3 - 3) 8 (by decide), e6 (34 - 3 - 3 - 2) 8 (by decide), e5 (34 - 3 - 3 - 2 - 3) 8 (by decide), e4 (34 - 3 - 3 - 2 - 3 - 3) 8 (by decide), l3 (34 - 3 - 3 - 2 - 3 - 3 - 20) 8 (by decide)]; exact BitVec.extractLsb'_eq_self
  have h3 : w.extractLsb' 14 20 = off := by rw [e 14 20 (by decide), e9 (14) 20 (by decide), e8 (14 - 3) 20 (by decide), e7 (14 - 3 - 3) 20 (by decide), e6 (14 - 3 - 3 - 2) 20 (by decide), e5 (14 - 3 - 3 - 2 - 3) 20 (by decide), l4 (14 - 3 - 3 - 2 - 3 - 3) 20 (by decide)]; exact BitVec.extractLsb'_eq_self
  have h4 : w.extractLsb' 11 3 = sp := by rw [e 11 3 (by decide), e9 (11) 3 (by decide), e8 (11 - 3) 3 (by decide), e7 (11 - 3 - 3) 3 (by decide), e6 (11 - 3 - 3 - 2) 3 (by decide), l5 (11 - 3 - 3 - 2 - 3) 3 (by decide)]; exact BitVec.extractLsb'_eq_self
  have h5 : w.extractLsb' 8 3 = sz := by rw [e 8 3 (by decide), e9 (8) 3 (by decide), e8 (8 - 3) 3 (by decide), e7 (8 - 3 - 3) 3 (by decide), l6 (8 - 3 - 3 - 2) 3 (by decide)]; exact BitVec.extractLsb'_eq_self
  have h6 : w.extractLsb' 6 2 = ord := by rw [e 6 2 (by decide), e9 (6) 2 (by decide), e8 (6 - 3) 2 (by decide), l7 (6 - 3 - 3) 2 (by decide)]; exact BitVec.extractLsb'_eq_self
  have h7 : w.extractLsb' 3 3 = scope := by rw [e 3 3 (by decide), e9 (3) 3 (by decide), l8 (3 - 3) 3 (by decide)]; exact BitVec.extractLsb'_eq_self
  have h8 : w.extractLsb' 0 3 = sbd := by rw [e 0 3 (by decide), l9 (0) 3 (by decide)]; exact BitVec.extractLsb'_eq_self
  simp only [MEM.ofWord, h0, h1, h2, h3, h4, h5, h6, h7, h8]

theorem MEM.word_ofWord (w : Word64) : (w.extractLsb' 54 10 ++ (MEM.ofWord w).toBits : Word64) = w := by
  have h : (MEM.ofWord w).toBits = w.extractLsb' 0 54 := by
    have t0 : (w.extractLsb' 50 4 ++ w.extractLsb' 42 8) = w.extractLsb' 42 12 := extr_extr w 42 4 8
    have t1 : ((w.extractLsb' 50 4 ++ w.extractLsb' 42 8) ++ w.extractLsb' 34 8) = w.extractLsb' 34 20 := by rw [t0]; exact extr_extr w 34 12 8
    have t2 : (((w.extractLsb' 50 4 ++ w.extractLsb' 42 8) ++ w.extractLsb' 34 8) ++ w.extractLsb' 14 20) = w.extractLsb' 14 40 := by rw [t1]; exact extr_extr w 14 20 20
    have t3 : ((((w.extractLsb' 50 4 ++ w.extractLsb' 42 8) ++ w.extractLsb' 34 8) ++ w.extractLsb' 14 20) ++ w.extractLsb' 11 3) = w.extractLsb' 11 43 := by rw [t2]; exact extr_extr w 11 40 3
    have t4 : (((((w.extractLsb' 50 4 ++ w.extractLsb' 42 8) ++ w.extractLsb' 34 8) ++ w.extractLsb' 14 20) ++ w.extractLsb' 11 3) ++ w.extractLsb' 8 3) = w.extractLsb' 8 46 := by rw [t3]; exact extr_extr w 8 43 3
    have t5 : ((((((w.extractLsb' 50 4 ++ w.extractLsb' 42 8) ++ w.extractLsb' 34 8) ++ w.extractLsb' 14 20) ++ w.extractLsb' 11 3) ++ w.extractLsb' 8 3) ++ w.extractLsb' 6 2) = w.extractLsb' 6 48 := by rw [t4]; exact extr_extr w 6 46 2
    have t6 : (((((((w.extractLsb' 50 4 ++ w.extractLsb' 42 8) ++ w.extractLsb' 34 8) ++ w.extractLsb' 14 20) ++ w.extractLsb' 11 3) ++ w.extractLsb' 8 3) ++ w.extractLsb' 6 2) ++ w.extractLsb' 3 3) = w.extractLsb' 3 51 := by rw [t5]; exact extr_extr w 3 48 3
    have t7 : ((((((((w.extractLsb' 50 4 ++ w.extractLsb' 42 8) ++ w.extractLsb' 34 8) ++ w.extractLsb' 14 20) ++ w.extractLsb' 11 3) ++ w.extractLsb' 8 3) ++ w.extractLsb' 6 2) ++ w.extractLsb' 3 3) ++ w.extractLsb' 0 3) = w.extractLsb' 0 54 := by rw [t6]; exact extr_extr w 0 51 3
    exact t7
  rw [h]
  exact (extr_join w rfl).symm

theorem BR.ofWord_word (opc : BitVec 10) (f : BR) : BR.ofWord (opc ++ f.toBits) = f := by
  obtain ⟨g, tgt, md⟩ := f
  generalize hw : (opc ++ BR.toBits ⟨g, tgt, md⟩ : Word64) = w
  have e (k n) (h : k + n ≤ 54) := extr_lo opc (BR.toBits ⟨g, tgt, md⟩) w rfl hw.symm k n h
  have e3 (k n) (h : 18 ≤ k) := extr_hi (g ++ tgt) md (BR.toBits ⟨g, tgt, md⟩) rfl rfl k n h
  have l3 (k n) (h : k + n ≤ 18) := extr_lo (g ++ tgt) md (BR.toBits ⟨g, tgt, md⟩) rfl rfl k n h
  have e2 (k n) (h : 32 ≤ k) := extr_hi g tgt (g ++ tgt) rfl rfl k n h
  have l2 (k n) (h : k + n ≤ 32) := extr_lo g tgt (g ++ tgt) rfl rfl k n h
  have h0 : w.extractLsb' 50 4 = g := by rw [e 50 4 (by decide), e3 (50) 4 (by decide), e2 (50 - 18) 4 (by decide)]; exact BitVec.extractLsb'_eq_self
  have h1 : w.extractLsb' 18 32 = tgt := by rw [e 18 32 (by decide), e3 (18) 32 (by decide), l2 (18 - 18) 32 (by decide)]; exact BitVec.extractLsb'_eq_self
  have h2 : w.extractLsb' 0 18 = md := by rw [e 0 18 (by decide), l3 (0) 18 (by decide)]; exact BitVec.extractLsb'_eq_self
  simp only [BR.ofWord, h0, h1, h2]

theorem BR.word_ofWord (w : Word64) : (w.extractLsb' 54 10 ++ (BR.ofWord w).toBits : Word64) = w := by
  have h : (BR.ofWord w).toBits = w.extractLsb' 0 54 := by
    have t0 : (w.extractLsb' 50 4 ++ w.extractLsb' 18 32) = w.extractLsb' 18 36 := extr_extr w 18 4 32
    have t1 : ((w.extractLsb' 50 4 ++ w.extractLsb' 18 32) ++ w.extractLsb' 0 18) = w.extractLsb' 0 54 := by rw [t0]; exact extr_extr w 0 36 18
    exact t1
  rw [h]
  exact (extr_join w rfl).symm

theorem TILE.ofWord_word (opc : BitVec 10) (f : TILE) : TILE.ofWord (opc ++ f.toBits) = f := by
  obtain ⟨g, dt, ta, tb, tc, ty, ax, md, hd⟩ := f
  generalize hw : (opc ++ TILE.toBits ⟨g, dt, ta, tb, tc, ty, ax, md, hd⟩ : Word64) = w
  have e (k n) (h : k + n ≤ 54) := extr_lo opc (TILE.toBits ⟨g, dt, ta, tb, tc, ty, ax, md, hd⟩) w rfl hw.symm k n h
  have e9 (k n) (h : 4 ≤ k) := extr_hi (g ++ dt ++ ta ++ tb ++ tc ++ ty ++ ax ++ md) hd (TILE.toBits ⟨g, dt, ta, tb, tc, ty, ax, md, hd⟩) rfl rfl k n h
  have l9 (k n) (h : k + n ≤ 4) := extr_lo (g ++ dt ++ ta ++ tb ++ tc ++ ty ++ ax ++ md) hd (TILE.toBits ⟨g, dt, ta, tb, tc, ty, ax, md, hd⟩) rfl rfl k n h
  have e8 (k n) (h : 8 ≤ k) := extr_hi (g ++ dt ++ ta ++ tb ++ tc ++ ty ++ ax) md (g ++ dt ++ ta ++ tb ++ tc ++ ty ++ ax ++ md) rfl rfl k n h
  have l8 (k n) (h : k + n ≤ 8) := extr_lo (g ++ dt ++ ta ++ tb ++ tc ++ ty ++ ax) md (g ++ dt ++ ta ++ tb ++ tc ++ ty ++ ax ++ md) rfl rfl k n h
  have e7 (k n) (h : 1 ≤ k) := extr_hi (g ++ dt ++ ta ++ tb ++ tc ++ ty) ax (g ++ dt ++ ta ++ tb ++ tc ++ ty ++ ax) rfl rfl k n h
  have l7 (k n) (h : k + n ≤ 1) := extr_lo (g ++ dt ++ ta ++ tb ++ tc ++ ty) ax (g ++ dt ++ ta ++ tb ++ tc ++ ty ++ ax) rfl rfl k n h
  have e6 (k n) (h : 5 ≤ k) := extr_hi (g ++ dt ++ ta ++ tb ++ tc) ty (g ++ dt ++ ta ++ tb ++ tc ++ ty) rfl rfl k n h
  have l6 (k n) (h : k + n ≤ 5) := extr_lo (g ++ dt ++ ta ++ tb ++ tc) ty (g ++ dt ++ ta ++ tb ++ tc ++ ty) rfl rfl k n h
  have e5 (k n) (h : 8 ≤ k) := extr_hi (g ++ dt ++ ta ++ tb) tc (g ++ dt ++ ta ++ tb ++ tc) rfl rfl k n h
  have l5 (k n) (h : k + n ≤ 8) := extr_lo (g ++ dt ++ ta ++ tb) tc (g ++ dt ++ ta ++ tb ++ tc) rfl rfl k n h
  have e4 (k n) (h : 8 ≤ k) := extr_hi (g ++ dt ++ ta) tb (g ++ dt ++ ta ++ tb) rfl rfl k n h
  have l4 (k n) (h : k + n ≤ 8) := extr_lo (g ++ dt ++ ta) tb (g ++ dt ++ ta ++ tb) rfl rfl k n h
  have e3 (k n) (h : 8 ≤ k) := extr_hi (g ++ dt) ta (g ++ dt ++ ta) rfl rfl k n h
  have l3 (k n) (h : k + n ≤ 8) := extr_lo (g ++ dt) ta (g ++ dt ++ ta) rfl rfl k n h
  have e2 (k n) (h : 8 ≤ k) := extr_hi g dt (g ++ dt) rfl rfl k n h
  have l2 (k n) (h : k + n ≤ 8) := extr_lo g dt (g ++ dt) rfl rfl k n h
  have h0 : w.extractLsb' 50 4 = g := by rw [e 50 4 (by decide), e9 (50) 4 (by decide), e8 (50 - 4) 4 (by decide), e7 (50 - 4 - 8) 4 (by decide), e6 (50 - 4 - 8 - 1) 4 (by decide), e5 (50 - 4 - 8 - 1 - 5) 4 (by decide), e4 (50 - 4 - 8 - 1 - 5 - 8) 4 (by decide), e3 (50 - 4 - 8 - 1 - 5 - 8 - 8) 4 (by decide), e2 (50 - 4 - 8 - 1 - 5 - 8 - 8 - 8) 4 (by decide)]; exact BitVec.extractLsb'_eq_self
  have h1 : w.extractLsb' 42 8 = dt := by rw [e 42 8 (by decide), e9 (42) 8 (by decide), e8 (42 - 4) 8 (by decide), e7 (42 - 4 - 8) 8 (by decide), e6 (42 - 4 - 8 - 1) 8 (by decide), e5 (42 - 4 - 8 - 1 - 5) 8 (by decide), e4 (42 - 4 - 8 - 1 - 5 - 8) 8 (by decide), e3 (42 - 4 - 8 - 1 - 5 - 8 - 8) 8 (by decide), l2 (42 - 4 - 8 - 1 - 5 - 8 - 8 - 8) 8 (by decide)]; exact BitVec.extractLsb'_eq_self
  have h2 : w.extractLsb' 34 8 = ta := by rw [e 34 8 (by decide), e9 (34) 8 (by decide), e8 (34 - 4) 8 (by decide), e7 (34 - 4 - 8) 8 (by decide), e6 (34 - 4 - 8 - 1) 8 (by decide), e5 (34 - 4 - 8 - 1 - 5) 8 (by decide), e4 (34 - 4 - 8 - 1 - 5 - 8) 8 (by decide), l3 (34 - 4 - 8 - 1 - 5 - 8 - 8) 8 (by decide)]; exact BitVec.extractLsb'_eq_self
  have h3 : w.extractLsb' 26 8 = tb := by rw [e 26 8 (by decide), e9 (26) 8 (by decide), e8 (26 - 4) 8 (by decide), e7 (26 - 4 - 8) 8 (by decide), e6 (26 - 4 - 8 - 1) 8 (by decide), e5 (26 - 4 - 8 - 1 - 5) 8 (by decide), l4 (26 - 4 - 8 - 1 - 5 - 8) 8 (by decide)]; exact BitVec.extractLsb'_eq_self
  have h4 : w.extractLsb' 18 8 = tc := by rw [e 18 8 (by decide), e9 (18) 8 (by decide), e8 (18 - 4) 8 (by decide), e7 (18 - 4 - 8) 8 (by decide), e6 (18 - 4 - 8 - 1) 8 (by decide), l5 (18 - 4 - 8 - 1 - 5) 8 (by decide)]; exact BitVec.extractLsb'_eq_self
  have h5 : w.extractLsb' 13 5 = ty := by rw [e 13 5 (by decide), e9 (13) 5 (by decide), e8 (13 - 4) 5 (by decide), e7 (13 - 4 - 8) 5 (by decide), l6 (13 - 4 - 8 - 1) 5 (by decide)]; exact BitVec.extractLsb'_eq_self
  have h6 : w.extractLsb' 12 1 = ax := by rw [e 12 1 (by decide), e9 (12) 1 (by decide), e8 (12 - 4) 1 (by decide), l7 (12 - 4 - 8) 1 (by decide)]; exact BitVec.extractLsb'_eq_self
  have h7 : w.extractLsb' 4 8 = md := by rw [e 4 8 (by decide), e9 (4) 8 (by decide), l8 (4 - 4) 8 (by decide)]; exact BitVec.extractLsb'_eq_self
  have h8 : w.extractLsb' 0 4 = hd := by rw [e 0 4 (by decide), l9 (0) 4 (by decide)]; exact BitVec.extractLsb'_eq_self
  simp only [TILE.ofWord, h0, h1, h2, h3, h4, h5, h6, h7, h8]

theorem TILE.word_ofWord (w : Word64) : (w.extractLsb' 54 10 ++ (TILE.ofWord w).toBits : Word64) = w := by
  have h : (TILE.ofWord w).toBits = w.extractLsb' 0 54 := by
    have t0 : (w.extractLsb' 50 4 ++ w.extractLsb' 42 8) = w.extractLsb' 42 12 := extr_extr w 42 4 8
    have t1 : ((w.extractLsb' 50 4 ++ w.extractLsb' 42 8) ++ w.extractLsb' 34 8) = w.extractLsb' 34 20 := by rw [t0]; exact extr_extr w 34 12 8
    have t2 : (((w.extractLsb' 50 4 ++ w.extractLsb' 42 8) ++ w.extractLsb' 34 8) ++ w.extractLsb' 26 8) = w.extractLsb' 26 28 := by rw [t1]; exact extr_extr w 26 20 8
    have t3 : ((((w.extractLsb' 50 4 ++ w.extractLsb' 42 8) ++ w.extractLsb' 34 8) ++ w.extractLsb' 26 8) ++ w.extractLsb' 18 8) = w.extractLsb' 18 36 := by rw [t2]; exact extr_extr w 18 28 8
    have t4 : (((((w.extractLsb' 50 4 ++ w.extractLsb' 42 8) ++ w.extractLsb' 34 8) ++ w.extractLsb' 26 8) ++ w.extractLsb' 18 8) ++ w.extractLsb' 13 5) = w.extractLsb' 13 41 := by rw [t3]; exact extr_extr w 13 36 5
    have t5 : ((((((w.extractLsb' 50 4 ++ w.extractLsb' 42 8) ++ w.extractLsb' 34 8) ++ w.extractLsb' 26 8) ++ w.extractLsb' 18 8) ++ w.extractLsb' 13 5) ++ w.extractLsb' 12 1) = w.extractLsb' 12 42 := by rw [t4]; exact extr_extr w 12 41 1
    have t6 : (((((((w.extractLsb' 50 4 ++ w.extractLsb' 42 8) ++ w.extractLsb' 34 8) ++ w.extractLsb' 26 8) ++ w.extractLsb' 18 8) ++ w.extractLsb' 13 5) ++ w.extractLsb' 12 1) ++ w.extractLsb' 4 8) = w.extractLsb' 4 50 := by rw [t5]; exact extr_extr w 4 42 8
    have t7 : ((((((((w.extractLsb' 50 4 ++ w.extractLsb' 42 8) ++ w.extractLsb' 34 8) ++ w.extractLsb' 26 8) ++ w.extractLsb' 18 8) ++ w.extractLsb' 13 5) ++ w.extractLsb' 12 1) ++ w.extractLsb' 4 8) ++ w.extractLsb' 0 4) = w.extractLsb' 0 54 := by rw [t6]; exact extr_extr w 0 50 4
    exact t7
  rw [h]
  exact (extr_join w rfl).symm

end Sys2Proof
end

