-- ==== Sys2Proof/Laws/Exec.lean ====
section
/-! SUPPORT. Which meaning exec gives each instruction: one equation per constructor. -/
namespace Sys2Proof.Machine
open Sys2Proof

@[simp] theorem exec_nop (f : NopF) (s : State) : exec (.nop f) s = execNop f s := rfl
@[simp] theorem exec_iadd (f : RR) (s : State) : exec (.iadd f) s = execIadd f s := rfl
@[simp] theorem exec_isub (f : RR) (s : State) : exec (.isub f) s = execIsub f s := rfl
@[simp] theorem exec_imul (f : RR) (s : State) : exec (.imul f) s = execImul f s := rfl
@[simp] theorem exec_imulh (f : RR) (s : State) : exec (.imulh f) s = execImulh f s := rfl
@[simp] theorem exec_imad (f : RR) (s : State) : exec (.imad f) s = execImad f s := rfl
@[simp] theorem exec_imin (f : RR) (s : State) : exec (.imin f) s = execImin f s := rfl
@[simp] theorem exec_imax (f : RR) (s : State) : exec (.imax f) s = execImax f s := rfl
@[simp] theorem exec_iabs (f : RR) (s : State) : exec (.iabs f) s = execIabs f s := rfl
@[simp] theorem exec_and (f : RR) (s : State) : exec (.and f) s = execAnd f s := rfl
@[simp] theorem exec_or (f : RR) (s : State) : exec (.or f) s = execOr f s := rfl
@[simp] theorem exec_xor (f : RR) (s : State) : exec (.xor f) s = execXor f s := rfl
@[simp] theorem exec_not (f : RR) (s : State) : exec (.not f) s = execNot f s := rfl
@[simp] theorem exec_shl (f : RR) (s : State) : exec (.shl f) s = execShl f s := rfl
@[simp] theorem exec_shr (f : RR) (s : State) : exec (.shr f) s = execShr f s := rfl
@[simp] theorem exec_sha (f : RR) (s : State) : exec (.sha f) s = execSha f s := rfl
@[simp] theorem exec_rot (f : RR) (s : State) : exec (.rot f) s = execRot f s := rfl
@[simp] theorem exec_popc (f : RR) (s : State) : exec (.popc f) s = execPopc f s := rfl
@[simp] theorem exec_clz (f : RR) (s : State) : exec (.clz f) s = execClz f s := rfl
@[simp] theorem exec_ctz (f : RR) (s : State) : exec (.ctz f) s = execCtz f s := rfl
@[simp] theorem exec_brev (f : RR) (s : State) : exec (.brev f) s = execBrev f s := rfl
@[simp] theorem exec_bfe (f : RR) (s : State) : exec (.bfe f) s = execBfe f s := rfl
@[simp] theorem exec_bfi (f : RR) (s : State) : exec (.bfi f) s = execBfi f s := rfl
@[simp] theorem exec_sel (f : RR) (s : State) : exec (.sel f) s = execSel f s := rfl
@[simp] theorem exec_icmp (f : RR) (s : State) : exec (.icmp f) s = execIcmp f s := rfl
@[simp] theorem exec_lea (f : RR) (s : State) : exec (.lea f) s = execLea f s := rfl
@[simp] theorem exec_iaddi (f : RI) (s : State) : exec (.iaddi f) s = execIaddi f s := rfl
@[simp] theorem exec_imuli (f : RI) (s : State) : exec (.imuli f) s = execImuli f s := rfl
@[simp] theorem exec_andi (f : RI) (s : State) : exec (.andi f) s = execAndi f s := rfl
@[simp] theorem exec_ori (f : RI) (s : State) : exec (.ori f) s = execOri f s := rfl
@[simp] theorem exec_xori (f : RI) (s : State) : exec (.xori f) s = execXori f s := rfl
@[simp] theorem exec_icmpi (f : RI) (s : State) : exec (.icmpi f) s = execIcmpi f s := rfl
@[simp] theorem exec_fadd (f : RR) (s : State) : exec (.fadd f) s = execFadd f s := rfl
@[simp] theorem exec_fsub (f : RR) (s : State) : exec (.fsub f) s = execFsub f s := rfl
@[simp] theorem exec_fmul (f : RR) (s : State) : exec (.fmul f) s = execFmul f s := rfl
@[simp] theorem exec_ffma (f : RR) (s : State) : exec (.ffma f) s = execFfma f s := rfl
@[simp] theorem exec_fmin (f : RR) (s : State) : exec (.fmin f) s = execFmin f s := rfl
@[simp] theorem exec_fmax (f : RR) (s : State) : exec (.fmax f) s = execFmax f s := rfl
@[simp] theorem exec_fcmp (f : RR) (s : State) : exec (.fcmp f) s = execFcmp f s := rfl
@[simp] theorem exec_fclass (f : RR) (s : State) : exec (.fclass f) s = execFclass f s := rfl
@[simp] theorem exec_frcp (f : RR) (s : State) : exec (.frcp f) s = execFrcp f s := rfl
@[simp] theorem exec_frsq (f : RR) (s : State) : exec (.frsq f) s = execFrsq f s := rfl
@[simp] theorem exec_fsqrt (f : RR) (s : State) : exec (.fsqrt f) s = execFsqrt f s := rfl
@[simp] theorem exec_fexp2 (f : RR) (s : State) : exec (.fexp2 f) s = execFexp2 f s := rfl
@[simp] theorem exec_flog2 (f : RR) (s : State) : exec (.flog2 f) s = execFlog2 f s := rfl
@[simp] theorem exec_ftanh (f : RR) (s : State) : exec (.ftanh f) s = execFtanh f s := rfl
@[simp] theorem exec_fdiv (f : RR) (s : State) : exec (.fdiv f) s = execFdiv f s := rfl
@[simp] theorem exec_fscale (f : RR) (s : State) : exec (.fscale f) s = execFscale f s := rfl
@[simp] theorem exec_hadd2 (f : RR) (s : State) : exec (.hadd2 f) s = execHadd2 f s := rfl
@[simp] theorem exec_hmul2 (f : RR) (s : State) : exec (.hmul2 f) s = execHmul2 f s := rfl
@[simp] theorem exec_hfma2 (f : RR) (s : State) : exec (.hfma2 f) s = execHfma2 f s := rfl
@[simp] theorem exec_cvt (f : RR) (s : State) : exec (.cvt f) s = execCvt f s := rfl
@[simp] theorem exec_cvtpk (f : RR) (s : State) : exec (.cvtpk f) s = execCvtpk f s := rfl
@[simp] theorem exec_cvtq (f : RR) (s : State) : exec (.cvtq f) s = execCvtq f s := rfl
@[simp] theorem exec_frnd (f : RR) (s : State) : exec (.frnd f) s = execFrnd f s := rfl
@[simp] theorem exec_mov (f : RR) (s : State) : exec (.mov f) s = execMov f s := rfl
@[simp] theorem exec_movi (f : RI) (s : State) : exec (.movi f) s = execMovi f s := rfl
@[simp] theorem exec_movs (f : RR) (s : State) : exec (.movs f) s = execMovs f s := rfl
@[simp] theorem exec_shfl (f : RR) (s : State) : exec (.shfl f) s = execShfl f s := rfl
@[simp] theorem exec_vote (f : RR) (s : State) : exec (.vote f) s = execVote f s := rfl
@[simp] theorem exec_matchLanes (f : RR) (s : State) : exec (.matchLanes f) s = execMatchLanes f s := rfl
@[simp] theorem exec_redux (f : RR) (s : State) : exec (.redux f) s = execRedux f s := rfl
@[simp] theorem exec_bcast (f : RR) (s : State) : exec (.bcast f) s = execBcast f s := rfl
@[simp] theorem exec_bsel (f : RR) (s : State) : exec (.bsel f) s = execBsel f s := rfl
@[simp] theorem exec_getsp (f : RR) (s : State) : exec (.getsp f) s = execGetsp f s := rfl
@[simp] theorem exec_bra (f : BR) (s : State) : exec (.bra f) s = execBra f s := rfl
@[simp] theorem exec_brx (f : BR) (s : State) : exec (.brx f) s = execBrx f s := rfl
@[simp] theorem exec_brxG (f : BR) (s : State) : exec (.brxG f) s = execBrxG f s := rfl
@[simp] theorem exec_join (f : BR) (s : State) : exec (.join f) s = execJoin f s := rfl
@[simp] theorem exec_call (f : BR) (s : State) : exec (.call f) s = execCall f s := rfl
@[simp] theorem exec_ret (f : BR) (s : State) : exec (.ret f) s = execRet f s := rfl
@[simp] theorem exec_exit (f : BR) (s : State) : exec (.exit f) s = execExit f s := rfl
@[simp] theorem exec_yield (f : BR) (s : State) : exec (.yield f) s = execYield f s := rfl
@[simp] theorem exec_bri (f : BR) (s : State) : exec (.bri f) s = execBri f s := rfl
@[simp] theorem exec_warpsync (f : RR) (s : State) : exec (.warpsync f) s = execWarpsync f s := rfl
@[simp] theorem exec_ld (f : MEM) (s : State) : exec (.ld f) s = execLd f s := rfl
@[simp] theorem exec_st (f : MEM) (s : State) : exec (.st f) s = execSt f s := rfl
@[simp] theorem exec_atom (f : MEM) (s : State) : exec (.atom f) s = execAtom f s := rfl
@[simp] theorem exec_atomc (f : MEM) (s : State) : exec (.atomc f) s = execAtomc f s := rfl
@[simp] theorem exec_red (f : MEM) (s : State) : exec (.red f) s = execRed f s := rfl
@[simp] theorem exec_pref (f : MEM) (s : State) : exec (.pref f) s = execPref f s := rfl
@[simp] theorem exec_cctl (f : MEM) (s : State) : exec (.cctl f) s = execCctl f s := rfl
@[simp] theorem exec_ldc (f : MEM) (s : State) : exec (.ldc f) s = execLdc f s := rfl
@[simp] theorem exec_cpy (f : RR) (s : State) : exec (.cpy f) s = execCpy f s := rfl
@[simp] theorem exec_cpyl (f : RR) (s : State) : exec (.cpyl f) s = execCpyl f s := rfl
@[simp] theorem exec_cpylSt (f : RR) (s : State) : exec (.cpylSt f) s = execCpylSt f s := rfl
@[simp] theorem exec_cwany (f : RR) (s : State) : exec (.cwany f) s = execCwany f s := rfl
@[simp] theorem exec_cwall (f : RR) (s : State) : exec (.cwall f) s = execCwall f s := rfl
@[simp] theorem exec_cfind (f : RR) (s : State) : exec (.cfind f) s = execCfind f s := rfl
@[simp] theorem exec_bara (f : RR) (s : State) : exec (.bara f) s = execBara f s := rfl
@[simp] theorem exec_barw (f : RR) (s : State) : exec (.barw f) s = execBarw f s := rfl
@[simp] theorem exec_bar (f : RR) (s : State) : exec (.bar f) s = execBar f s := rfl
@[simp] theorem exec_fence (f : RR) (s : State) : exec (.fence f) s = execFence f s := rfl
@[simp] theorem exec_xfence (f : RR) (s : State) : exec (.xfence f) s = execXfence f s := rfl
@[simp] theorem exec_give (f : RR) (s : State) : exec (.give f) s = execGive f s := rfl
@[simp] theorem exec_giveSeq (f : RR) (s : State) : exec (.giveSeq f) s = execGiveSeq f s := rfl
@[simp] theorem exec_take (f : RR) (s : State) : exec (.take f) s = execTake f s := rfl
@[simp] theorem exec_takeAny (f : RR) (s : State) : exec (.takeAny f) s = execTakeAny f s := rfl
@[simp] theorem exec_town (f : RR) (s : State) : exec (.town f) s = execTown f s := rfl
@[simp] theorem exec_tfree (f : RR) (s : State) : exec (.tfree f) s = execTfree f s := rfl
@[simp] theorem exec_tgrab (f : RR) (s : State) : exec (.tgrab f) s = execTgrab f s := rfl
@[simp] theorem exec_coll (f : RR) (s : State) : exec (.coll f) s = execColl f s := rfl
@[simp] theorem exec_collw (f : RR) (s : State) : exec (.collw f) s = execCollw f s := rfl
@[simp] theorem exec_collq (f : RR) (s : State) : exec (.collq f) s = execCollq f s := rfl
@[simp] theorem exec_collx (f : RR) (s : State) : exec (.collx f) s = execCollx f s := rfl
@[simp] theorem exec_sigclaim (f : RR) (s : State) : exec (.sigclaim f) s = execSigclaim f s := rfl
@[simp] theorem exec_sigdone (f : RR) (s : State) : exec (.sigdone f) s = execSigdone f s := rfl
@[simp] theorem exec_sigyield (f : RR) (s : State) : exec (.sigyield f) s = execSigyield f s := rfl
@[simp] theorem exec_sigstage (f : RR) (s : State) : exec (.sigstage f) s = execSigstage f s := rfl
@[simp] theorem exec_sigswap (f : RR) (s : State) : exec (.sigswap f) s = execSigswap f s := rfl
@[simp] theorem exec_sigread (f : RR) (s : State) : exec (.sigread f) s = execSigread f s := rfl
@[simp] theorem exec_taskget (f : RR) (s : State) : exec (.taskget f) s = execTaskget f s := rfl
@[simp] theorem exec_taskput (f : RR) (s : State) : exec (.taskput f) s = execTaskput f s := rfl
@[simp] theorem exec_taskend (f : RR) (s : State) : exec (.taskend f) s = execTaskend f s := rfl
@[simp] theorem exec_slotget (f : RR) (s : State) : exec (.slotget f) s = execSlotget f s := rfl
@[simp] theorem exec_slotpost (f : RR) (s : State) : exec (.slotpost f) s = execSlotpost f s := rfl
@[simp] theorem exec_slotpostEnd (f : RR) (s : State) : exec (.slotpostEnd f) s = execSlotpostEnd f s := rfl
@[simp] theorem exec_ccinc (f : RR) (s : State) : exec (.ccinc f) s = execCcinc f s := rfl
@[simp] theorem exec_cancel (f : RR) (s : State) : exec (.cancel f) s = execCancel f s := rfl
@[simp] theorem exec_trap (f : RI) (s : State) : exec (.trap f) s = execTrap f s := rfl
@[simp] theorem exec_bkpt (f : RI) (s : State) : exec (.bkpt f) s = execBkpt f s := rfl
@[simp] theorem exec_rft (f : BR) (s : State) : exec (.rft f) s = execRft f s := rfl
@[simp] theorem exec_getctl (f : RI) (s : State) : exec (.getctl f) s = execGetctl f s := rfl
@[simp] theorem exec_setctl (f : RI) (s : State) : exec (.setctl f) s = execSetctl f s := rfl
@[simp] theorem exec_felrd (f : RR) (s : State) : exec (.felrd f) s = execFelrd f s := rfl
@[simp] theorem exec_clock (f : RR) (s : State) : exec (.clock f) s = execClock f s := rfl
@[simp] theorem exec_waitev (f : RR) (s : State) : exec (.waitev f) s = execWaitev f s := rfl
@[simp] theorem exec_postev (f : RR) (s : State) : exec (.postev f) s = execPostev f s := rfl
@[simp] theorem exec_qpush (f : RR) (s : State) : exec (.qpush f) s = execQpush f s := rfl
@[simp] theorem exec_stream (f : RR) (s : State) : exec (.stream f) s = execStream f s := rfl
@[simp] theorem exec_xld (f : MEM) (s : State) : exec (.xld f) s = execXld f s := rfl
@[simp] theorem exec_xst (f : MEM) (s : State) : exec (.xst f) s = execXst f s := rfl
@[simp] theorem exec_xldg (f : MEM) (s : State) : exec (.xldg f) s = execXldg f s := rfl
@[simp] theorem exec_anym (f : RR) (s : State) : exec (.anym f) s = execAnym f s := rfl
@[simp] theorem exec_allm (f : RR) (s : State) : exec (.allm f) s = execAllm f s := rfl
@[simp] theorem exec_cmpt (f : RR) (s : State) : exec (.cmpt f) s = execCmpt f s := rfl
@[simp] theorem exec_hset (f : RR) (s : State) : exec (.hset f) s = execHset f s := rfl
@[simp] theorem exec_hadvp (f : RI) (s : State) : exec (.hadvp f) s = execHadvp f s := rfl
@[simp] theorem exec_hadvc (f : RI) (s : State) : exec (.hadvc f) s = execHadvc f s := rfl
@[simp] theorem exec_hqry (f : RR) (s : State) : exec (.hqry f) s = execHqry f s := rfl
@[simp] theorem exec_sgive (f : RI) (s : State) : exec (.sgive f) s = execSgive f s := rfl
@[simp] theorem exec_stake (f : RI) (s : State) : exec (.stake f) s = execStake f s := rfl
@[simp] theorem exec_scalew (f : RR) (s : State) : exec (.scalew f) s = execScalew f s := rfl
@[simp] theorem exec_scaleg (f : RR) (s : State) : exec (.scaleg f) s = execScaleg f s := rfl
@[simp] theorem exec_vadd (f : TILE) (s : State) : exec (.vadd f) s = execVadd f s := rfl
@[simp] theorem exec_vsub (f : TILE) (s : State) : exec (.vsub f) s = execVsub f s := rfl
@[simp] theorem exec_vmul (f : TILE) (s : State) : exec (.vmul f) s = execVmul f s := rfl
@[simp] theorem exec_vfma (f : TILE) (s : State) : exec (.vfma f) s = execVfma f s := rfl
@[simp] theorem exec_vmin (f : TILE) (s : State) : exec (.vmin f) s = execVmin f s := rfl
@[simp] theorem exec_vmax (f : TILE) (s : State) : exec (.vmax f) s = execVmax f s := rfl
@[simp] theorem exec_vabs (f : TILE) (s : State) : exec (.vabs f) s = execVabs f s := rfl
@[simp] theorem exec_vexp2 (f : TILE) (s : State) : exec (.vexp2 f) s = execVexp2 f s := rfl
@[simp] theorem exec_vtanh (f : TILE) (s : State) : exec (.vtanh f) s = execVtanh f s := rfl
@[simp] theorem exec_vrcp (f : TILE) (s : State) : exec (.vrcp f) s = execVrcp f s := rfl
@[simp] theorem exec_vrsq (f : TILE) (s : State) : exec (.vrsq f) s = execVrsq f s := rfl
@[simp] theorem exec_vcmp (f : TILE) (s : State) : exec (.vcmp f) s = execVcmp f s := rfl
@[simp] theorem exec_vsel (f : TILE) (s : State) : exec (.vsel f) s = execVsel f s := rfl
@[simp] theorem exec_vcvt (f : TILE) (s : State) : exec (.vcvt f) s = execVcvt f s := rfl
@[simp] theorem exec_vmaxe (f : TILE) (s : State) : exec (.vmaxe f) s = execVmaxe f s := rfl
@[simp] theorem exec_vcvtq (f : TILE) (s : State) : exec (.vcvtq f) s = execVcvtq f s := rfl
@[simp] theorem exec_vrotr (f : TILE) (s : State) : exec (.vrotr f) s = execVrotr f s := rfl
@[simp] theorem exec_vrotc (f : TILE) (s : State) : exec (.vrotc f) s = execVrotc f s := rfl
@[simp] theorem exec_vbcr (f : TILE) (s : State) : exec (.vbcr f) s = execVbcr f s := rfl
@[simp] theorem exec_vbcc (f : TILE) (s : State) : exec (.vbcc f) s = execVbcc f s := rfl
@[simp] theorem exec_vredr (f : TILE) (s : State) : exec (.vredr f) s = execVredr f s := rfl
@[simp] theorem exec_vredc (f : TILE) (s : State) : exec (.vredc f) s = execVredc f s := rfl
@[simp] theorem exec_vmov (f : TILE) (s : State) : exec (.vmov f) s = execVmov f s := rfl
@[simp] theorem exec_vand (f : TILE) (s : State) : exec (.vand f) s = execVand f s := rfl
@[simp] theorem exec_vor (f : TILE) (s : State) : exec (.vor f) s = execVor f s := rfl
@[simp] theorem exec_vxor (f : TILE) (s : State) : exec (.vxor f) s = execVxor f s := rfl
@[simp] theorem exec_vshl (f : TILE) (s : State) : exec (.vshl f) s = execVshl f s := rfl
@[simp] theorem exec_vshr (f : TILE) (s : State) : exec (.vshr f) s = execVshr f s := rfl
@[simp] theorem exec_viota (f : TILE) (s : State) : exec (.viota f) s = execViota f s := rfl
@[simp] theorem exec_viadd (f : TILE) (s : State) : exec (.viadd f) s = execViadd f s := rfl
@[simp] theorem exec_vimul (f : TILE) (s : State) : exec (.vimul f) s = execVimul f s := rfl
@[simp] theorem exec_vrelu (f : TILE) (s : State) : exec (.vrelu f) s = execVrelu f s := rfl
@[simp] theorem exec_vscale (f : TILE) (s : State) : exec (.vscale f) s = execVscale f s := rfl
@[simp] theorem exec_mma (f : TILE) (s : State) : exec (.mma f) s = execMma f s := rfl
@[simp] theorem exec_mloop (f : TILE) (s : State) : exec (.mloop f) s = execMloop f s := rfl
@[simp] theorem exec_mzero (f : TILE) (s : State) : exec (.mzero f) s = execMzero f s := rfl
@[simp] theorem exec_mtrn (f : TILE) (s : State) : exec (.mtrn f) s = execMtrn f s := rfl
@[simp] theorem exec_mloopt (f : TILE) (s : State) : exec (.mloopt f) s = execMloopt f s := rfl
@[simp] theorem exec_mstat (f : TILE) (s : State) : exec (.mstat f) s = execMstat f s := rfl
@[simp] theorem exec_tld (f : MEM) (s : State) : exec (.tld f) s = execTld f s := rfl
@[simp] theorem exec_tst (f : MEM) (s : State) : exec (.tst f) s = execTst f s := rfl
@[simp] theorem exec_tsld (f : MEM) (s : State) : exec (.tsld f) s = execTsld f s := rfl
@[simp] theorem exec_tsst (f : MEM) (s : State) : exec (.tsst f) s = execTsst f s := rfl
@[simp] theorem exec_tldx (f : MEM) (s : State) : exec (.tldx f) s = execTldx f s := rfl
@[simp] theorem exec_tcpy (f : TILE) (s : State) : exec (.tcpy f) s = execTcpy f s := rfl
@[simp] theorem exec_cfence (f : MEM) (s : State) : exec (.cfence f) s = execCfence f s := rfl
@[simp] theorem exec_sbr (f : BR) (s : State) : exec (.sbr f) s = execSbr f s := rfl
@[simp] theorem exec_sbrq (f : BR) (s : State) : exec (.sbrq f) s = execSbrq f s := rfl
@[simp] theorem exec_loopi (f : BR) (s : State) : exec (.loopi f) s = execLoopi f s := rfl
@[simp] theorem exec_loopb (f : BR) (s : State) : exec (.loopb f) s = execLoopb f s := rfl
@[simp] theorem exec_syncl (f : BR) (s : State) : exec (.syncl f) s = execSyncl f s := rfl
@[simp] theorem exec_shalt (f : BR) (s : State) : exec (.shalt f) s = execShalt f s := rfl
@[simp] theorem exec_scall (f : BR) (s : State) : exec (.scall f) s = execScall f s := rfl
@[simp] theorem exec_sret (f : BR) (s : State) : exec (.sret f) s = execSret f s := rfl
@[simp] theorem exec_sbrm (f : BR) (s : State) : exec (.sbrm f) s = execSbrm f s := rfl
@[simp] theorem exec_reset (s : State) : exec .reset s = execReset s := rfl
@[simp] theorem exec_bootImage (s : State) : exec .bootImage s = execBootImage s := rfl
@[simp] theorem exec_jobCreation (s : State) : exec .jobCreation s = execJobCreation s := rfl
@[simp] theorem exec_domainDefinition (s : State) : exec .domainDefinition s = execDomainDefinition s := rfl
@[simp] theorem exec_xltInv (s : State) : exec .xltInv s = execXltInv s := rfl
@[simp] theorem exec_fqReplay (s : State) : exec .fqReplay s = execFqReplay s := rfl
@[simp] theorem exec_walkComplete (s : State) : exec .walkComplete s = execWalkComplete s := rfl
@[simp] theorem exec_queueTailWrite (s : State) : exec .queueTailWrite s = execQueueTailWrite s := rfl
@[simp] theorem exec_queueStateWrite (s : State) : exec .queueStateWrite s = execQueueStateWrite s := rfl
@[simp] theorem exec_registerWrite (s : State) : exec .registerWrite s = execRegisterWrite s := rfl
@[simp] theorem exec_preempt (s : State) : exec .preempt s = execPreempt s := rfl
@[simp] theorem exec_resume (s : State) : exec .resume s = execResume s := rfl
@[simp] theorem exec_terminate (s : State) : exec .terminate s = execTerminate s := rfl
@[simp] theorem exec_terminationComplete (s : State) : exec .terminationComplete s = execTerminationComplete s := rfl
@[simp] theorem exec_mig (s : State) : exec .mig s = execMig s := rfl
@[simp] theorem exec_migrationPassComplete (s : State) : exec .migrationPassComplete s = execMigrationPassComplete s := rfl
@[simp] theorem exec_migrationSwitchComplete (s : State) : exec .migrationSwitchComplete s = execMigrationSwitchComplete s := rfl
@[simp] theorem exec_migclose (s : State) : exec .migclose s = execMigclose s := rfl
@[simp] theorem exec_cnres (s : State) : exec .cnres s = execCnres s := rfl
@[simp] theorem exec_attest (s : State) : exec .attest s = execAttest s := rfl
@[simp] theorem exec_keyload (s : State) : exec .keyload s = execKeyload s := rfl
@[simp] theorem exec_wake (s : State) : exec .wake s = execWake s := rfl
@[simp] theorem exec_plcRetiredWrite (s : State) : exec .plcRetiredWrite s = execPlcRetiredWrite s := rfl
@[simp] theorem exec_plcL2retWrite (s : State) : exec .plcL2retWrite s = execPlcL2retWrite s := rfl
@[simp] theorem exec_plcClretWrite (s : State) : exec .plcClretWrite s = execPlcClretWrite s := rfl
@[simp] theorem exec_l2RetirementApply (s : State) : exec .l2RetirementApply s = execL2RetirementApply s := rfl
@[simp] theorem exec_freezeNow (s : State) : exec .freezeNow s = execFreezeNow s := rfl
@[simp] theorem exec_freeze (s : State) : exec .freeze s = execFreeze s := rfl
@[simp] theorem exec_readout (s : State) : exec .readout s = execReadout s := rfl
@[simp] theorem exec_hostwinDataWrite (s : State) : exec .hostwinDataWrite s = execHostwinDataWrite s := rfl
@[simp] theorem exec_hostwinDataRead (s : State) : exec .hostwinDataRead s = execHostwinDataRead s := rfl
@[simp] theorem exec_hostwinFenceWrite (s : State) : exec .hostwinFenceWrite s = execHostwinFenceWrite s := rfl
@[simp] theorem exec_hostwinFenceRead (s : State) : exec .hostwinFenceRead s = execHostwinFenceRead s := rfl
@[simp] theorem exec_idleEntry (s : State) : exec .idleEntry s = execIdleEntry s := rfl
@[simp] theorem exec_operatingPointChange (s : State) : exec .operatingPointChange s = execOperatingPointChange s := rfl
@[simp] theorem exec_powerLimitExceeded (s : State) : exec .powerLimitExceeded s = execPowerLimitExceeded s := rfl
@[simp] theorem exec_thermalThrottle (s : State) : exec .thermalThrottle s = execThermalThrottle s := rfl
@[simp] theorem exec_criticalTemperature (s : State) : exec .criticalTemperature s = execCriticalTemperature s := rfl
@[simp] theorem exec_cxlPortDown (s : State) : exec .cxlPortDown s = execCxlPortDown s := rfl
@[simp] theorem exec_dripDrain (s : State) : exec .dripDrain s = execDripDrain s := rfl
@[simp] theorem exec_bankPowerTransition (s : State) : exec .bankPowerTransition s = execBankPowerTransition s := rfl
@[simp] theorem exec_bankReturnToOn (s : State) : exec .bankReturnToOn s = execBankReturnToOn s := rfl
@[simp] theorem exec_flitReceive (s : State) : exec .flitReceive s = execFlitReceive s := rfl
@[simp] theorem exec_flitReplayTimeout (s : State) : exec .flitReplayTimeout s = execFlitReplayTimeout s := rfl
@[simp] theorem exec_rds (s : State) : exec .rds s = execRds s := rfl
@[simp] theorem exec_rdx (s : State) : exec .rdx s = execRdx s := rfl
@[simp] theorem exec_upg (s : State) : exec .upg s = execUpg s := rfl
@[simp] theorem exec_wb (s : State) : exec .wb s = execWb s := rfl
@[simp] theorem exec_evc (s : State) : exec .evc s = execEvc s := rfl
@[simp] theorem exec_atm (s : State) : exec .atm s = execAtm s := rfl
@[simp] theorem exec_ncr (s : State) : exec .ncr s = execNcr s := rfl
@[simp] theorem exec_ncw (s : State) : exec .ncw s = execNcw s := rfl
@[simp] theorem exec_inv (s : State) : exec .inv s = execInv s := rfl
@[simp] theorem exec_fwds (s : State) : exec .fwds s = execFwds s := rfl
@[simp] theorem exec_fwdi (s : State) : exec .fwdi s = execFwdi s := rfl
@[simp] theorem exec_gntx (s : State) : exec .gntx s = execGntx s := rfl
@[simp] theorem exec_wback (s : State) : exec .wback s = execWback s := rfl
@[simp] theorem exec_invack (s : State) : exec .invack s = execInvack s := rfl
@[simp] theorem exec_fwdack (s : State) : exec .fwdack s = execFwdack s := rfl
@[simp] theorem exec_atmr (s : State) : exec .atmr s = execAtmr s := rfl
@[simp] theorem exec_ncwack (s : State) : exec .ncwack s = execNcwack s := rfl
@[simp] theorem exec_datas (s : State) : exec .datas s = execDatas s := rfl
@[simp] theorem exec_datae (s : State) : exec .datae s = execDatae s := rfl
@[simp] theorem exec_datam (s : State) : exec .datam s = execDatam s := rfl
@[simp] theorem exec_fwddata (s : State) : exec .fwddata s = execFwddata s := rfl
@[simp] theorem exec_ncrd (s : State) : exec .ncrd s = execNcrd s := rfl
@[simp] theorem exec_homeLocalRead (s : State) : exec .homeLocalRead s = execHomeLocalRead s := rfl
@[simp] theorem exec_homeLocalWrite (s : State) : exec .homeLocalWrite s = execHomeLocalWrite s := rfl
@[simp] theorem exec_memoryReadComplete (s : State) : exec .memoryReadComplete s = execMemoryReadComplete s := rfl
@[simp] theorem exec_remoteL2Eviction (s : State) : exec .remoteL2Eviction s = execRemoteL2Eviction s := rfl
@[simp] theorem exec_remoteL2Access (s : State) : exec .remoteL2Access s = execRemoteL2Access s := rfl
@[simp] theorem exec_peerRequest (s : State) : exec .peerRequest s = execPeerRequest s := rfl
@[simp] theorem exec_peerResponse (s : State) : exec .peerResponse s = execPeerResponse s := rfl
@[simp] theorem exec_launch (s : State) : exec .launch s = execLaunch s := rfl
@[simp] theorem exec_graph (s : State) : exec .graph s = execGraph s := rfl
@[simp] theorem exec_copy (s : State) : exec .copy s = execCopy s := rfl
@[simp] theorem exec_wait (s : State) : exec .wait s = execWait s := rfl
@[simp] theorem exec_signal (s : State) : exec .signal s = execSignal s := rfl
@[simp] theorem exec_collCommand (s : State) : exec .collCommand s = execCollCommand s := rfl
@[simp] theorem exec_cancelCommand (s : State) : exec .cancelCommand s = execCancelCommand s := rfl
@[simp] theorem exec_phaseEnd (s : State) : exec .phaseEnd s = execPhaseEnd s := rfl
@[simp] theorem exec_unitCompletion (s : State) : exec .unitCompletion s = execUnitCompletion s := rfl
@[simp] theorem exec_blockPlacement (s : State) : exec .blockPlacement s = execBlockPlacement s := rfl
@[simp] theorem exec_blockEnd (s : State) : exec .blockEnd s = execBlockEnd s := rfl
@[simp] theorem exec_distributorPreemption (s : State) : exec .distributorPreemption s = execDistributorPreemption s := rfl
@[simp] theorem exec_blockSuspension (s : State) : exec .blockSuspension s = execBlockSuspension s := rfl
@[simp] theorem exec_blockResume (s : State) : exec .blockResume s = execBlockResume s := rfl
@[simp] theorem exec_barrierWatchdogExpiry (s : State) : exec .barrierWatchdogExpiry s = execBarrierWatchdogExpiry s := rfl
@[simp] theorem exec_regroupCompletion (s : State) : exec .regroupCompletion s = execRegroupCompletion s := rfl
@[simp] theorem exec_regroupTimeout (s : State) : exec .regroupTimeout s = execRegroupTimeout s := rfl
@[simp] theorem exec_warpResultLands (s : State) : exec .warpResultLands s = execWarpResultLands s := rfl
@[simp] theorem exec_tileBecomesGiven (s : State) : exec .tileBecomesGiven s = execTileBecomesGiven s := rfl
@[simp] theorem exec_takeCompletion (s : State) : exec .takeCompletion s = execTakeCompletion s := rfl
@[simp] theorem exec_copyCompletion (s : State) : exec .copyCompletion s = execCopyCompletion s := rfl
@[simp] theorem exec_streamItemDelivery (s : State) : exec .streamItemDelivery s = execStreamItemDelivery s := rfl
@[simp] theorem exec_streamRecordCompletion (s : State) : exec .streamRecordCompletion s = execStreamRecordCompletion s := rfl
@[simp] theorem exec_carafeStateLoadComplete (s : State) : exec .carafeStateLoadComplete s = execCarafeStateLoadComplete s := rfl
@[simp] theorem exec_carafeWritebackComplete (s : State) : exec .carafeWritebackComplete s = execCarafeWritebackComplete s := rfl
@[simp] theorem exec_ringProducerClaim (s : State) : exec .ringProducerClaim s = execRingProducerClaim s := rfl
@[simp] theorem exec_ringPublish (s : State) : exec .ringPublish s = execRingPublish s := rfl
@[simp] theorem exec_ringConsumerClaim (s : State) : exec .ringConsumerClaim s = execRingConsumerClaim s := rfl
@[simp] theorem exec_ringConsumerRelease (s : State) : exec .ringConsumerRelease s = execRingConsumerRelease s := rfl
@[simp] theorem exec_ringEndToken (s : State) : exec .ringEndToken s = execRingEndToken s := rfl
@[simp] theorem exec_qpushRecordWrite (s : State) : exec .qpushRecordWrite s = execQpushRecordWrite s := rfl
@[simp] theorem exec_waitevTimeout (s : State) : exec .waitevTimeout s = execWaitevTimeout s := rfl
@[simp] theorem exec_waitevPoll (s : State) : exec .waitevPoll s = execWaitevPoll s := rfl
@[simp] theorem exec_sight (s : State) : exec .sight s = execSight s := rfl
@[simp] theorem exec_assigned (s : State) : exec .assigned s = execAssigned s := rfl
@[simp] theorem exec_present (s : State) : exec .present s = execPresent s := rfl
@[simp] theorem exec_go (s : State) : exec .go s = execGo s := rfl
@[simp] theorem exec_collationCancel (s : State) : exec .collationCancel s = execCollationCancel s := rfl
@[simp] theorem exec_cancelReply (s : State) : exec .cancelReply s = execCancelReply s := rfl
@[simp] theorem exec_refused (s : State) : exec .refused s = execRefused s := rfl
@[simp] theorem exec_done (s : State) : exec .done s = execDone s := rfl
@[simp] theorem exec_keepalive (s : State) : exec .keepalive s = execKeepalive s := rfl
@[simp] theorem exec_collatorReplication (s : State) : exec .collatorReplication s = execCollatorReplication s := rfl
@[simp] theorem exec_replicationAck (s : State) : exec .replicationAck s = execReplicationAck s := rfl
@[simp] theorem exec_collatorTakeover (s : State) : exec .collatorTakeover s = execCollatorTakeover s := rfl
@[simp] theorem exec_standbySearch (s : State) : exec .standbySearch s = execStandbySearch s := rfl
@[simp] theorem exec_takeover (s : State) : exec .takeover s = execTakeover s := rfl
@[simp] theorem exec_collatorLostTimeout (s : State) : exec .collatorLostTimeout s = execCollatorLostTimeout s := rfl
@[simp] theorem exec_collectiveTurn (s : State) : exec .collectiveTurn s = execCollectiveTurn s := rfl
@[simp] theorem exec_collectiveDataPhaseComplete (s : State) : exec .collectiveDataPhaseComplete s = execCollectiveDataPhaseComplete s := rfl
@[simp] theorem exec_memberSilenceTimeout (s : State) : exec .memberSilenceTimeout s = execMemberSilenceTimeout s := rfl
@[simp] theorem exec_sequencerBundleIssue (s : State) : exec .sequencerBundleIssue s = execSequencerBundleIssue s := rfl
@[simp] theorem exec_synclRestart (s : State) : exec .synclRestart s = execSynclRestart s := rfl
@[simp] theorem exec_seqResultWrite (s : State) : exec .seqResultWrite s = execSeqResultWrite s := rfl
@[simp] theorem exec_mloopStep (s : State) : exec .mloopStep s = execMloopStep s := rfl
@[simp] theorem exec_seqQueueEntryComplete (s : State) : exec .seqQueueEntryComplete s = execSeqQueueEntryComplete s := rfl
@[simp] theorem exec_loadClaimComplete (s : State) : exec .loadClaimComplete s = execLoadClaimComplete s := rfl
@[simp] theorem exec_sequencerFaultDelivery (s : State) : exec .sequencerFaultDelivery s = execSequencerFaultDelivery s := rfl
@[simp] theorem exec_powerLoss (s : State) : exec .powerLoss s = execPowerLoss s := rfl

end Sys2Proof.Machine
end

