-- ==== Sys2Proof/Laws/Retire.lean ====
section
/-! SUPPORT. What an instruction comes to, said once: for a warp, for a slot, for a device step; and the checks before lanes act when nothing stands in the way. -/
namespace Sys2Proof.Machine
open Sys2Proof

theorem finish_done (s t : State) (c k : Nat) : s.finish c k (.done t) = t.retired c k := rfl
theorem finish_jump (s t : State) (c k : Nat) : s.finish c k (.jump t) = t.jumped c k := rfl
theorem finish_wait (s t : State) (c k : Nat) : s.finish c k (.wait t) = t.draw := rfl

/-- An instruction of the acting warp always goes on. -/
theorem asWarp_next {s : State} {c k : Nat} {w : Warp} (h : s.Acting c k w) (f : Nat → Nat → Warp → WRes) :
    asWarp s f = .next (s.finish c k (f c k w)) := by
  obtain ⟨h1, h2⟩ := h; simp [asWarp, h1, h2]

/-- A word in a slot whose guard holds. -/
theorem asSlot_next {s : State} {c : Nat} {sl : Slot} {q : Seq} {g : BitVec 4} (h : s.SlotActing c sl q g)
    (f : Nat → Slot → Seq → Except SErr State) : asSlot s g f = .next (s.finishSlot c sl q.pc (f c sl q.before)) := by
  obtain ⟨h1, h2, h3⟩ := h; simp [asSlot, h1, h2, h3]

theorem asEvent_clocked {s : State} (h : s.clocked = true) (f : Arg → State) : asEvent s f = .next (f s.arg) := by simp [asEvent, h]
theorem asEvent_stopped {s : State} (h : s.clocked = false) (f : Arg → State) : asEvent s f = .next s := by simp [asEvent, h]

/-- The checks pass when nothing stands in the way. -/
theorem prep_ok {s : State} {c k : Nat} {w : Warp} {n : Need} (h : s.Unhindered c k w n) :
    s.prep c k w n = .ok (s.taking c k w n.g) := by
  obtain ⟨h1, h2, h3, h4, h5, h6⟩ := h
  unfold State.prep
  rw [if_neg h1]
  have e2 : (n.sdst && w.isRegrouped) = false := by cases hs : n.sdst <;> simp_all
  have e3 : (n.sdst && !uniformGuard w.active (s.taking c k w n.g)) = false := by cases hs : n.sdst <;> simp_all
  simp [e2, e3, h4, h5, h6]

/-- Words whose guard is the skipped one retire with no effect. -/
theorem prep_never (s : State) (c k : Nat) (w : Warp) (n : Need) (h : n.g = 0xF) : s.prep c k w n = .error (.done s) := by
  simp [State.prep, h]

theorem recordEvents_nil (s : State) (c k : Nat) (w : Warp) : s.recordEvents c k w [] = s := rfl

/-- Lane results without events. -/
theorem laneRun_ok {s : State} {c k : Nat} {w : Warp} {g : BitVec 4} {srcs : List Src} {d : Dest}
    (h : s.Unhindered c k w { g := g, srcs := srcs, dsts := d.vregs, sdst := d.isS }) (v : Nat → Word64) :
    s.laneRun c k w g srcs d (fun l => { v := v l }) = .done (s.laneResult c k w g d v) := by
  unfold State.laneRun State.laneResult
  rw [prep_ok h]
  dsimp only
  split
  · split <;> simp_all [recordEvents_nil]
  · have e : ((List.map (fun l => (l, ({ v := v l } : LaneOut))) (lanesOf (s.taking c k w g))).flatMap
        fun (o : Nat × LaneOut) => o.2.evs.map fun e => (⟨o.1, vElemIndex d.code o.1 e.1, e.2⟩ : Event)) = [] := by
      simp
    rw [e, recordEvents_nil]
    simp [List.flatMap_map]

/-- Lane results with their events. -/
theorem laneRun_outs {s : State} {c k : Nat} {w : Warp} {g : BitVec 4} {srcs : List Src} {d : Dest}
    (h : s.Unhindered c k w { g := g, srcs := srcs, dsts := d.vregs, sdst := d.isS }) (o : Nat → LaneOut) :
    s.laneRun c k w g srcs d o = .done (s.laneOuts c k w g d o) := by
  unfold State.laneRun State.laneOuts
  rw [prep_ok h]
  dsimp only
  split
  · split <;> simp_all
  · simp [List.flatMap_map]

theorem predRun_ok {s : State} {c k : Nat} {w : Warp} {g : BitVec 4} {srcs : List Src}
    (h : s.Unhindered c k w { g := g, srcs := srcs }) (p : Nat) (b : Nat → Bool) :
    s.predRun c k w g srcs p b = .done (s.laneTest c k w g p b) := by
  unfold State.predRun; rw [prep_ok h]; rfl

end Sys2Proof.Machine
end

