-- ==== Sys2Proof/Laws/State.lean ====
section
/-! SUPPORT. What each update of the state does to each of its fields. -/
namespace Sys2Proof.Machine
open Sys2Proof

@[simp] theorem State.draw_free (s : State) : (s.draw).free = s.free + 1 := rfl
@[simp] theorem State.draw_inbox (s : State) : (s.draw).inbox = s.inbox := rfl
@[simp] theorem State.draw_agenda (s : State) : (s.draw).agenda = s.agenda := rfl
@[simp] theorem State.draw_cur (s : State) : (s.draw).cur = s.cur := rfl
@[simp] theorem State.draw_arg (s : State) : (s.draw).arg = s.arg := rfl
@[simp] theorem State.draw_ids (s : State) : (s.draw).ids = s.ids := rfl
@[simp] theorem State.draw_clock (s : State) : (s.draw).clock = s.clock := rfl
@[simp] theorem State.draw_power (s : State) : (s.draw).power = s.power := rfl
@[simp] theorem State.draw_idleSince (s : State) : (s.draw).idleSince = s.idleSince := rfl
@[simp] theorem State.draw_frzTrig (s : State) : (s.draw).frzTrig = s.frzTrig := rfl
@[simp] theorem State.draw_frozen (s : State) : (s.draw).frozen = s.frozen := rfl
@[simp] theorem State.draw_boot (s : State) : (s.draw).boot = s.boot := rfl
@[simp] theorem State.draw_noFloor (s : State) : (s.draw).noFloor = s.noFloor := rfl
@[simp] theorem State.draw_svnFloor (s : State) : (s.draw).svnFloor = s.svnFloor := rfl
@[simp] theorem State.draw_opPoint (s : State) : (s.draw).opPoint = s.opPoint := rfl
@[simp] theorem State.draw_opHold (s : State) : (s.draw).opHold = s.opHold := rfl
@[simp] theorem State.draw_pwrLimit (s : State) : (s.draw).pwrLimit = s.pwrLimit := rfl
@[simp] theorem State.draw_frzCtl (s : State) : (s.draw).frzCtl = s.frzCtl := rfl
@[simp] theorem State.draw_plcRetired (s : State) : (s.draw).plcRetired = s.plcRetired := rfl
@[simp] theorem State.draw_l2ret (s : State) : (s.draw).l2ret = s.l2ret := rfl
@[simp] theorem State.draw_clret (s : State) : (s.draw).clret = s.clret := rfl
@[simp] theorem State.draw_l2retDone (s : State) : (s.draw).l2retDone = s.l2retDone := rfl
@[simp] theorem State.draw_l2pend (s : State) : (s.draw).l2pend = s.l2pend := rfl
@[simp] theorem State.draw_l2full (s : State) : (s.draw).l2full = s.l2full := rfl
@[simp] theorem State.draw_hostBase (s : State) : (s.draw).hostBase = s.hostBase := rfl
@[simp] theorem State.draw_hostErr (s : State) : (s.draw).hostErr = s.hostErr := rfl
@[simp] theorem State.draw_hostWrites (s : State) : (s.draw).hostWrites = s.hostWrites := rfl
@[simp] theorem State.draw_hostReply (s : State) : (s.draw).hostReply = s.hostReply := rfl
@[simp] theorem State.draw_msix (s : State) : (s.draw).msix = s.msix := rfl
@[simp] theorem State.draw_regs (s : State) : (s.draw).regs = s.regs := rfl
@[simp] theorem State.draw_drip (s : State) : (s.draw).drip = s.drip := rfl
@[simp] theorem State.draw_mel (s : State) : (s.draw).mel = s.mel := rfl
@[simp] theorem State.draw_keys (s : State) : (s.draw).keys = s.keys := rfl
@[simp] theorem State.draw_pairs (s : State) : (s.draw).pairs = s.pairs := rfl
@[simp] theorem State.draw_exports (s : State) : (s.draw).exports = s.exports := rfl
@[simp] theorem State.draw_mig (s : State) : (s.draw).mig = s.mig := rfl
@[simp] theorem State.draw_migWait (s : State) : (s.draw).migWait = s.migWait := rfl
@[simp] theorem State.draw_migDone (s : State) : (s.draw).migDone = s.migDone := rfl
@[simp] theorem State.draw_cxl (s : State) : (s.draw).cxl = s.cxl := rfl
@[simp] theorem State.draw_cxlDown (s : State) : (s.draw).cxlDown = s.cxlDown := rfl
@[simp] theorem State.draw_termDone (s : State) : (s.draw).termDone = s.termDone := rfl
@[simp] theorem State.draw_cnresDone (s : State) : (s.draw).cnresDone = s.cnresDone := rfl
@[simp] theorem State.draw_mem (s : State) : (s.draw).mem = s.mem := rfl
@[simp] theorem State.draw_poison (s : State) : (s.draw).poison = s.poison := rfl
@[simp] theorem State.draw_seals (s : State) : (s.draw).seals = s.seals := rfl
@[simp] theorem State.draw_tagFails (s : State) : (s.draw).tagFails = s.tagFails := rfl
@[simp] theorem State.draw_scratch (s : State) : (s.draw).scratch = s.scratch := rfl
@[simp] theorem State.draw_scrPoison (s : State) : (s.draw).scrPoison = s.scrPoison := rfl
@[simp] theorem State.draw_lines (s : State) : (s.draw).lines = s.lines := rfl
@[simp] theorem State.draw_wire (s : State) : (s.draw).wire = s.wire := rfl
@[simp] theorem State.draw_links (s : State) : (s.draw).links = s.links := rfl
@[simp] theorem State.draw_arrived (s : State) : (s.draw).arrived = s.arrived := rfl
@[simp] theorem State.draw_bridgeDown (s : State) : (s.draw).bridgeDown = s.bridgeDown := rfl
@[simp] theorem State.draw_tlbDie (s : State) : (s.draw).tlbDie = s.tlbDie := rfl
@[simp] theorem State.draw_misses (s : State) : (s.draw).misses = s.misses := rfl
@[simp] theorem State.draw_pfaults (s : State) : (s.draw).pfaults = s.pfaults := rfl
@[simp] theorem State.draw_xlfail (s : State) : (s.draw).xlfail = s.xlfail := rfl
@[simp] theorem State.draw_owed (s : State) : (s.draw).owed = s.owed := rfl
@[simp] theorem State.draw_invs (s : State) : (s.draw).invs = s.invs := rfl
@[simp] theorem State.draw_ctxs (s : State) : (s.draw).ctxs = s.ctxs := rfl
@[simp] theorem State.draw_queues (s : State) : (s.draw).queues = s.queues := rfl
@[simp] theorem State.draw_qpushes (s : State) : (s.draw).qpushes = s.qpushes := rfl
@[simp] theorem State.draw_launches (s : State) : (s.draw).launches = s.launches := rfl
@[simp] theorem State.draw_graphs (s : State) : (s.draw).graphs = s.graphs := rfl
@[simp] theorem State.draw_phases (s : State) : (s.draw).phases = s.phases := rfl
@[simp] theorem State.draw_taskQ (s : State) : (s.draw).taskQ = s.taskQ := rfl
@[simp] theorem State.draw_taskRun (s : State) : (s.draw).taskRun = s.taskRun := rfl
@[simp] theorem State.draw_ringHeld (s : State) : (s.draw).ringHeld = s.ringHeld := rfl
@[simp] theorem State.draw_engines (s : State) : (s.draw).engines = s.engines := rfl
@[simp] theorem State.draw_cores (s : State) : (s.draw).cores = s.cores := rfl
@[simp] theorem State.draw_blocks (s : State) : (s.draw).blocks = s.blocks := rfl
@[simp] theorem State.draw_warps (s : State) : (s.draw).warps = s.warps := rfl
@[simp] theorem State.draw_domains (s : State) : (s.draw).domains = s.domains := rfl
@[simp] theorem State.draw_defining (s : State) : (s.draw).defining = s.defining := rfl
@[simp] theorem State.draw_stoxia (s : State) : (s.draw).stoxia = s.stoxia := rfl
@[simp] theorem State.draw_peerReqs (s : State) : (s.draw).peerReqs = s.peerReqs := rfl
@[simp] theorem State.draw_peerHeld (s : State) : (s.draw).peerHeld = s.peerHeld := rfl
@[simp] theorem State.draw_pxData (s : State) : (s.draw).pxData = s.pxData := rfl
@[simp] theorem State.draw_podL2 (s : State) : (s.draw).podL2 = s.podL2 := rfl
@[simp] theorem State.draw_recent (s : State) : (s.draw).recent = s.recent := rfl
@[simp] theorem State.draw_raced (s : State) : (s.draw).raced = s.raced := rfl

@[simp] theorem State.clearFails_free (s : State) (w : Who) : (s.clearFails w).free = s.free := rfl
@[simp] theorem State.clearFails_inbox (s : State) (w : Who) : (s.clearFails w).inbox = s.inbox := rfl
@[simp] theorem State.clearFails_agenda (s : State) (w : Who) : (s.clearFails w).agenda = s.agenda := rfl
@[simp] theorem State.clearFails_cur (s : State) (w : Who) : (s.clearFails w).cur = s.cur := rfl
@[simp] theorem State.clearFails_arg (s : State) (w : Who) : (s.clearFails w).arg = s.arg := rfl
@[simp] theorem State.clearFails_ids (s : State) (w : Who) : (s.clearFails w).ids = s.ids := rfl
@[simp] theorem State.clearFails_clock (s : State) (w : Who) : (s.clearFails w).clock = s.clock := rfl
@[simp] theorem State.clearFails_power (s : State) (w : Who) : (s.clearFails w).power = s.power := rfl
@[simp] theorem State.clearFails_idleSince (s : State) (w : Who) : (s.clearFails w).idleSince = s.idleSince := rfl
@[simp] theorem State.clearFails_frzTrig (s : State) (w : Who) : (s.clearFails w).frzTrig = s.frzTrig := rfl
@[simp] theorem State.clearFails_frozen (s : State) (w : Who) : (s.clearFails w).frozen = s.frozen := rfl
@[simp] theorem State.clearFails_boot (s : State) (w : Who) : (s.clearFails w).boot = s.boot := rfl
@[simp] theorem State.clearFails_noFloor (s : State) (w : Who) : (s.clearFails w).noFloor = s.noFloor := rfl
@[simp] theorem State.clearFails_svnFloor (s : State) (w : Who) : (s.clearFails w).svnFloor = s.svnFloor := rfl
@[simp] theorem State.clearFails_opPoint (s : State) (w : Who) : (s.clearFails w).opPoint = s.opPoint := rfl
@[simp] theorem State.clearFails_opHold (s : State) (w : Who) : (s.clearFails w).opHold = s.opHold := rfl
@[simp] theorem State.clearFails_pwrLimit (s : State) (w : Who) : (s.clearFails w).pwrLimit = s.pwrLimit := rfl
@[simp] theorem State.clearFails_frzCtl (s : State) (w : Who) : (s.clearFails w).frzCtl = s.frzCtl := rfl
@[simp] theorem State.clearFails_plcRetired (s : State) (w : Who) : (s.clearFails w).plcRetired = s.plcRetired := rfl
@[simp] theorem State.clearFails_l2ret (s : State) (w : Who) : (s.clearFails w).l2ret = s.l2ret := rfl
@[simp] theorem State.clearFails_clret (s : State) (w : Who) : (s.clearFails w).clret = s.clret := rfl
@[simp] theorem State.clearFails_l2retDone (s : State) (w : Who) : (s.clearFails w).l2retDone = s.l2retDone := rfl
@[simp] theorem State.clearFails_l2pend (s : State) (w : Who) : (s.clearFails w).l2pend = s.l2pend := rfl
@[simp] theorem State.clearFails_l2full (s : State) (w : Who) : (s.clearFails w).l2full = s.l2full := rfl
@[simp] theorem State.clearFails_hostBase (s : State) (w : Who) : (s.clearFails w).hostBase = s.hostBase := rfl
@[simp] theorem State.clearFails_hostErr (s : State) (w : Who) : (s.clearFails w).hostErr = s.hostErr := rfl
@[simp] theorem State.clearFails_hostWrites (s : State) (w : Who) : (s.clearFails w).hostWrites = s.hostWrites := rfl
@[simp] theorem State.clearFails_hostReply (s : State) (w : Who) : (s.clearFails w).hostReply = s.hostReply := rfl
@[simp] theorem State.clearFails_msix (s : State) (w : Who) : (s.clearFails w).msix = s.msix := rfl
@[simp] theorem State.clearFails_regs (s : State) (w : Who) : (s.clearFails w).regs = s.regs := rfl
@[simp] theorem State.clearFails_drip (s : State) (w : Who) : (s.clearFails w).drip = s.drip := rfl
@[simp] theorem State.clearFails_mel (s : State) (w : Who) : (s.clearFails w).mel = s.mel := rfl
@[simp] theorem State.clearFails_keys (s : State) (w : Who) : (s.clearFails w).keys = s.keys := rfl
@[simp] theorem State.clearFails_pairs (s : State) (w : Who) : (s.clearFails w).pairs = s.pairs := rfl
@[simp] theorem State.clearFails_exports (s : State) (w : Who) : (s.clearFails w).exports = s.exports := rfl
@[simp] theorem State.clearFails_mig (s : State) (w : Who) : (s.clearFails w).mig = s.mig := rfl
@[simp] theorem State.clearFails_migWait (s : State) (w : Who) : (s.clearFails w).migWait = s.migWait := rfl
@[simp] theorem State.clearFails_migDone (s : State) (w : Who) : (s.clearFails w).migDone = s.migDone := rfl
@[simp] theorem State.clearFails_cxl (s : State) (w : Who) : (s.clearFails w).cxl = s.cxl := rfl
@[simp] theorem State.clearFails_cxlDown (s : State) (w : Who) : (s.clearFails w).cxlDown = s.cxlDown := rfl
@[simp] theorem State.clearFails_termDone (s : State) (w : Who) : (s.clearFails w).termDone = s.termDone := rfl
@[simp] theorem State.clearFails_cnresDone (s : State) (w : Who) : (s.clearFails w).cnresDone = s.cnresDone := rfl
@[simp] theorem State.clearFails_mem (s : State) (w : Who) : (s.clearFails w).mem = s.mem := rfl
@[simp] theorem State.clearFails_poison (s : State) (w : Who) : (s.clearFails w).poison = s.poison := rfl
@[simp] theorem State.clearFails_seals (s : State) (w : Who) : (s.clearFails w).seals = s.seals := rfl
@[simp] theorem State.clearFails_tagFails (s : State) (w : Who) : (s.clearFails w).tagFails = s.tagFails := rfl
@[simp] theorem State.clearFails_scratch (s : State) (w : Who) : (s.clearFails w).scratch = s.scratch := rfl
@[simp] theorem State.clearFails_scrPoison (s : State) (w : Who) : (s.clearFails w).scrPoison = s.scrPoison := rfl
@[simp] theorem State.clearFails_lines (s : State) (w : Who) : (s.clearFails w).lines = s.lines := rfl
@[simp] theorem State.clearFails_wire (s : State) (w : Who) : (s.clearFails w).wire = s.wire := rfl
@[simp] theorem State.clearFails_links (s : State) (w : Who) : (s.clearFails w).links = s.links := rfl
@[simp] theorem State.clearFails_arrived (s : State) (w : Who) : (s.clearFails w).arrived = s.arrived := rfl
@[simp] theorem State.clearFails_bridgeDown (s : State) (w : Who) : (s.clearFails w).bridgeDown = s.bridgeDown := rfl
@[simp] theorem State.clearFails_tlbDie (s : State) (w : Who) : (s.clearFails w).tlbDie = s.tlbDie := rfl
@[simp] theorem State.clearFails_misses (s : State) (w : Who) : (s.clearFails w).misses = s.misses := rfl
@[simp] theorem State.clearFails_pfaults (s : State) (w : Who) : (s.clearFails w).pfaults = s.pfaults := rfl
@[simp] theorem State.clearFails_xlfail (s : State) (w : Who) : (s.clearFails w).xlfail = s.xlfail.filter (·.1 != w) := rfl
@[simp] theorem State.clearFails_owed (s : State) (w : Who) : (s.clearFails w).owed = s.owed := rfl
@[simp] theorem State.clearFails_invs (s : State) (w : Who) : (s.clearFails w).invs = s.invs := rfl
@[simp] theorem State.clearFails_ctxs (s : State) (w : Who) : (s.clearFails w).ctxs = s.ctxs := rfl
@[simp] theorem State.clearFails_queues (s : State) (w : Who) : (s.clearFails w).queues = s.queues := rfl
@[simp] theorem State.clearFails_qpushes (s : State) (w : Who) : (s.clearFails w).qpushes = s.qpushes := rfl
@[simp] theorem State.clearFails_launches (s : State) (w : Who) : (s.clearFails w).launches = s.launches := rfl
@[simp] theorem State.clearFails_graphs (s : State) (w : Who) : (s.clearFails w).graphs = s.graphs := rfl
@[simp] theorem State.clearFails_phases (s : State) (w : Who) : (s.clearFails w).phases = s.phases := rfl
@[simp] theorem State.clearFails_taskQ (s : State) (w : Who) : (s.clearFails w).taskQ = s.taskQ := rfl
@[simp] theorem State.clearFails_taskRun (s : State) (w : Who) : (s.clearFails w).taskRun = s.taskRun := rfl
@[simp] theorem State.clearFails_ringHeld (s : State) (w : Who) : (s.clearFails w).ringHeld = s.ringHeld := rfl
@[simp] theorem State.clearFails_engines (s : State) (w : Who) : (s.clearFails w).engines = s.engines := rfl
@[simp] theorem State.clearFails_cores (s : State) (w : Who) : (s.clearFails w).cores = s.cores := rfl
@[simp] theorem State.clearFails_blocks (s : State) (w : Who) : (s.clearFails w).blocks = s.blocks := rfl
@[simp] theorem State.clearFails_warps (s : State) (w : Who) : (s.clearFails w).warps = s.warps := rfl
@[simp] theorem State.clearFails_domains (s : State) (w : Who) : (s.clearFails w).domains = s.domains := rfl
@[simp] theorem State.clearFails_defining (s : State) (w : Who) : (s.clearFails w).defining = s.defining := rfl
@[simp] theorem State.clearFails_stoxia (s : State) (w : Who) : (s.clearFails w).stoxia = s.stoxia := rfl
@[simp] theorem State.clearFails_peerReqs (s : State) (w : Who) : (s.clearFails w).peerReqs = s.peerReqs := rfl
@[simp] theorem State.clearFails_peerHeld (s : State) (w : Who) : (s.clearFails w).peerHeld = s.peerHeld := rfl
@[simp] theorem State.clearFails_pxData (s : State) (w : Who) : (s.clearFails w).pxData = s.pxData := rfl
@[simp] theorem State.clearFails_podL2 (s : State) (w : Who) : (s.clearFails w).podL2 = s.podL2 := rfl
@[simp] theorem State.clearFails_recent (s : State) (w : Who) : (s.clearFails w).recent = s.recent := rfl
@[simp] theorem State.clearFails_raced (s : State) (w : Who) : (s.clearFails w).raced = s.raced := rfl

@[simp] theorem State.interrupt_free (s : State) (m : Msix) : (s.interrupt m).free = s.free := rfl
@[simp] theorem State.interrupt_inbox (s : State) (m : Msix) : (s.interrupt m).inbox = s.inbox := rfl
@[simp] theorem State.interrupt_agenda (s : State) (m : Msix) : (s.interrupt m).agenda = s.agenda := rfl
@[simp] theorem State.interrupt_cur (s : State) (m : Msix) : (s.interrupt m).cur = s.cur := rfl
@[simp] theorem State.interrupt_arg (s : State) (m : Msix) : (s.interrupt m).arg = s.arg := rfl
@[simp] theorem State.interrupt_ids (s : State) (m : Msix) : (s.interrupt m).ids = s.ids := rfl
@[simp] theorem State.interrupt_clock (s : State) (m : Msix) : (s.interrupt m).clock = s.clock := rfl
@[simp] theorem State.interrupt_power (s : State) (m : Msix) : (s.interrupt m).power = s.power := rfl
@[simp] theorem State.interrupt_idleSince (s : State) (m : Msix) : (s.interrupt m).idleSince = s.idleSince := rfl
@[simp] theorem State.interrupt_frzTrig (s : State) (m : Msix) : (s.interrupt m).frzTrig = s.frzTrig := rfl
@[simp] theorem State.interrupt_frozen (s : State) (m : Msix) : (s.interrupt m).frozen = s.frozen := rfl
@[simp] theorem State.interrupt_boot (s : State) (m : Msix) : (s.interrupt m).boot = s.boot := rfl
@[simp] theorem State.interrupt_noFloor (s : State) (m : Msix) : (s.interrupt m).noFloor = s.noFloor := rfl
@[simp] theorem State.interrupt_svnFloor (s : State) (m : Msix) : (s.interrupt m).svnFloor = s.svnFloor := rfl
@[simp] theorem State.interrupt_opPoint (s : State) (m : Msix) : (s.interrupt m).opPoint = s.opPoint := rfl
@[simp] theorem State.interrupt_opHold (s : State) (m : Msix) : (s.interrupt m).opHold = s.opHold := rfl
@[simp] theorem State.interrupt_pwrLimit (s : State) (m : Msix) : (s.interrupt m).pwrLimit = s.pwrLimit := rfl
@[simp] theorem State.interrupt_frzCtl (s : State) (m : Msix) : (s.interrupt m).frzCtl = s.frzCtl := rfl
@[simp] theorem State.interrupt_plcRetired (s : State) (m : Msix) : (s.interrupt m).plcRetired = s.plcRetired := rfl
@[simp] theorem State.interrupt_l2ret (s : State) (m : Msix) : (s.interrupt m).l2ret = s.l2ret := rfl
@[simp] theorem State.interrupt_clret (s : State) (m : Msix) : (s.interrupt m).clret = s.clret := rfl
@[simp] theorem State.interrupt_l2retDone (s : State) (m : Msix) : (s.interrupt m).l2retDone = s.l2retDone := rfl
@[simp] theorem State.interrupt_l2pend (s : State) (m : Msix) : (s.interrupt m).l2pend = s.l2pend := rfl
@[simp] theorem State.interrupt_l2full (s : State) (m : Msix) : (s.interrupt m).l2full = s.l2full := rfl
@[simp] theorem State.interrupt_hostBase (s : State) (m : Msix) : (s.interrupt m).hostBase = s.hostBase := rfl
@[simp] theorem State.interrupt_hostErr (s : State) (m : Msix) : (s.interrupt m).hostErr = s.hostErr := rfl
@[simp] theorem State.interrupt_hostWrites (s : State) (m : Msix) : (s.interrupt m).hostWrites = s.hostWrites := rfl
@[simp] theorem State.interrupt_hostReply (s : State) (m : Msix) : (s.interrupt m).hostReply = s.hostReply := rfl
@[simp] theorem State.interrupt_msix (s : State) (m : Msix) : (s.interrupt m).msix = m :: s.msix := rfl
@[simp] theorem State.interrupt_regs (s : State) (m : Msix) : (s.interrupt m).regs = s.regs := rfl
@[simp] theorem State.interrupt_drip (s : State) (m : Msix) : (s.interrupt m).drip = s.drip := rfl
@[simp] theorem State.interrupt_mel (s : State) (m : Msix) : (s.interrupt m).mel = s.mel := rfl
@[simp] theorem State.interrupt_keys (s : State) (m : Msix) : (s.interrupt m).keys = s.keys := rfl
@[simp] theorem State.interrupt_pairs (s : State) (m : Msix) : (s.interrupt m).pairs = s.pairs := rfl
@[simp] theorem State.interrupt_exports (s : State) (m : Msix) : (s.interrupt m).exports = s.exports := rfl
@[simp] theorem State.interrupt_mig (s : State) (m : Msix) : (s.interrupt m).mig = s.mig := rfl
@[simp] theorem State.interrupt_migWait (s : State) (m : Msix) : (s.interrupt m).migWait = s.migWait := rfl
@[simp] theorem State.interrupt_migDone (s : State) (m : Msix) : (s.interrupt m).migDone = s.migDone := rfl
@[simp] theorem State.interrupt_cxl (s : State) (m : Msix) : (s.interrupt m).cxl = s.cxl := rfl
@[simp] theorem State.interrupt_cxlDown (s : State) (m : Msix) : (s.interrupt m).cxlDown = s.cxlDown := rfl
@[simp] theorem State.interrupt_termDone (s : State) (m : Msix) : (s.interrupt m).termDone = s.termDone := rfl
@[simp] theorem State.interrupt_cnresDone (s : State) (m : Msix) : (s.interrupt m).cnresDone = s.cnresDone := rfl
@[simp] theorem State.interrupt_mem (s : State) (m : Msix) : (s.interrupt m).mem = s.mem := rfl
@[simp] theorem State.interrupt_poison (s : State) (m : Msix) : (s.interrupt m).poison = s.poison := rfl
@[simp] theorem State.interrupt_seals (s : State) (m : Msix) : (s.interrupt m).seals = s.seals := rfl
@[simp] theorem State.interrupt_tagFails (s : State) (m : Msix) : (s.interrupt m).tagFails = s.tagFails := rfl
@[simp] theorem State.interrupt_scratch (s : State) (m : Msix) : (s.interrupt m).scratch = s.scratch := rfl
@[simp] theorem State.interrupt_scrPoison (s : State) (m : Msix) : (s.interrupt m).scrPoison = s.scrPoison := rfl
@[simp] theorem State.interrupt_lines (s : State) (m : Msix) : (s.interrupt m).lines = s.lines := rfl
@[simp] theorem State.interrupt_wire (s : State) (m : Msix) : (s.interrupt m).wire = s.wire := rfl
@[simp] theorem State.interrupt_links (s : State) (m : Msix) : (s.interrupt m).links = s.links := rfl
@[simp] theorem State.interrupt_arrived (s : State) (m : Msix) : (s.interrupt m).arrived = s.arrived := rfl
@[simp] theorem State.interrupt_bridgeDown (s : State) (m : Msix) : (s.interrupt m).bridgeDown = s.bridgeDown := rfl
@[simp] theorem State.interrupt_tlbDie (s : State) (m : Msix) : (s.interrupt m).tlbDie = s.tlbDie := rfl
@[simp] theorem State.interrupt_misses (s : State) (m : Msix) : (s.interrupt m).misses = s.misses := rfl
@[simp] theorem State.interrupt_pfaults (s : State) (m : Msix) : (s.interrupt m).pfaults = s.pfaults := rfl
@[simp] theorem State.interrupt_xlfail (s : State) (m : Msix) : (s.interrupt m).xlfail = s.xlfail := rfl
@[simp] theorem State.interrupt_owed (s : State) (m : Msix) : (s.interrupt m).owed = s.owed := rfl
@[simp] theorem State.interrupt_invs (s : State) (m : Msix) : (s.interrupt m).invs = s.invs := rfl
@[simp] theorem State.interrupt_ctxs (s : State) (m : Msix) : (s.interrupt m).ctxs = s.ctxs := rfl
@[simp] theorem State.interrupt_queues (s : State) (m : Msix) : (s.interrupt m).queues = s.queues := rfl
@[simp] theorem State.interrupt_qpushes (s : State) (m : Msix) : (s.interrupt m).qpushes = s.qpushes := rfl
@[simp] theorem State.interrupt_launches (s : State) (m : Msix) : (s.interrupt m).launches = s.launches := rfl
@[simp] theorem State.interrupt_graphs (s : State) (m : Msix) : (s.interrupt m).graphs = s.graphs := rfl
@[simp] theorem State.interrupt_phases (s : State) (m : Msix) : (s.interrupt m).phases = s.phases := rfl
@[simp] theorem State.interrupt_taskQ (s : State) (m : Msix) : (s.interrupt m).taskQ = s.taskQ := rfl
@[simp] theorem State.interrupt_taskRun (s : State) (m : Msix) : (s.interrupt m).taskRun = s.taskRun := rfl
@[simp] theorem State.interrupt_ringHeld (s : State) (m : Msix) : (s.interrupt m).ringHeld = s.ringHeld := rfl
@[simp] theorem State.interrupt_engines (s : State) (m : Msix) : (s.interrupt m).engines = s.engines := rfl
@[simp] theorem State.interrupt_cores (s : State) (m : Msix) : (s.interrupt m).cores = s.cores := rfl
@[simp] theorem State.interrupt_blocks (s : State) (m : Msix) : (s.interrupt m).blocks = s.blocks := rfl
@[simp] theorem State.interrupt_warps (s : State) (m : Msix) : (s.interrupt m).warps = s.warps := rfl
@[simp] theorem State.interrupt_domains (s : State) (m : Msix) : (s.interrupt m).domains = s.domains := rfl
@[simp] theorem State.interrupt_defining (s : State) (m : Msix) : (s.interrupt m).defining = s.defining := rfl
@[simp] theorem State.interrupt_stoxia (s : State) (m : Msix) : (s.interrupt m).stoxia = s.stoxia := rfl
@[simp] theorem State.interrupt_peerReqs (s : State) (m : Msix) : (s.interrupt m).peerReqs = s.peerReqs := rfl
@[simp] theorem State.interrupt_peerHeld (s : State) (m : Msix) : (s.interrupt m).peerHeld = s.peerHeld := rfl
@[simp] theorem State.interrupt_pxData (s : State) (m : Msix) : (s.interrupt m).pxData = s.pxData := rfl
@[simp] theorem State.interrupt_podL2 (s : State) (m : Msix) : (s.interrupt m).podL2 = s.podL2 := rfl
@[simp] theorem State.interrupt_recent (s : State) (m : Msix) : (s.interrupt m).recent = s.recent := rfl
@[simp] theorem State.interrupt_raced (s : State) (m : Msix) : (s.interrupt m).raced = s.raced := rfl

@[simp] theorem State.setCore_free (s : State) (c : Nat) (k : Core) : (s.setCore c k).free = s.free := rfl
@[simp] theorem State.setCore_inbox (s : State) (c : Nat) (k : Core) : (s.setCore c k).inbox = s.inbox := rfl
@[simp] theorem State.setCore_agenda (s : State) (c : Nat) (k : Core) : (s.setCore c k).agenda = s.agenda := rfl
@[simp] theorem State.setCore_cur (s : State) (c : Nat) (k : Core) : (s.setCore c k).cur = s.cur := rfl
@[simp] theorem State.setCore_arg (s : State) (c : Nat) (k : Core) : (s.setCore c k).arg = s.arg := rfl
@[simp] theorem State.setCore_ids (s : State) (c : Nat) (k : Core) : (s.setCore c k).ids = s.ids := rfl
@[simp] theorem State.setCore_clock (s : State) (c : Nat) (k : Core) : (s.setCore c k).clock = s.clock := rfl
@[simp] theorem State.setCore_power (s : State) (c : Nat) (k : Core) : (s.setCore c k).power = s.power := rfl
@[simp] theorem State.setCore_idleSince (s : State) (c : Nat) (k : Core) : (s.setCore c k).idleSince = s.idleSince := rfl
@[simp] theorem State.setCore_frzTrig (s : State) (c : Nat) (k : Core) : (s.setCore c k).frzTrig = s.frzTrig := rfl
@[simp] theorem State.setCore_frozen (s : State) (c : Nat) (k : Core) : (s.setCore c k).frozen = s.frozen := rfl
@[simp] theorem State.setCore_boot (s : State) (c : Nat) (k : Core) : (s.setCore c k).boot = s.boot := rfl
@[simp] theorem State.setCore_noFloor (s : State) (c : Nat) (k : Core) : (s.setCore c k).noFloor = s.noFloor := rfl
@[simp] theorem State.setCore_svnFloor (s : State) (c : Nat) (k : Core) : (s.setCore c k).svnFloor = s.svnFloor := rfl
@[simp] theorem State.setCore_opPoint (s : State) (c : Nat) (k : Core) : (s.setCore c k).opPoint = s.opPoint := rfl
@[simp] theorem State.setCore_opHold (s : State) (c : Nat) (k : Core) : (s.setCore c k).opHold = s.opHold := rfl
@[simp] theorem State.setCore_pwrLimit (s : State) (c : Nat) (k : Core) : (s.setCore c k).pwrLimit = s.pwrLimit := rfl
@[simp] theorem State.setCore_frzCtl (s : State) (c : Nat) (k : Core) : (s.setCore c k).frzCtl = s.frzCtl := rfl
@[simp] theorem State.setCore_plcRetired (s : State) (c : Nat) (k : Core) : (s.setCore c k).plcRetired = s.plcRetired := rfl
@[simp] theorem State.setCore_l2ret (s : State) (c : Nat) (k : Core) : (s.setCore c k).l2ret = s.l2ret := rfl
@[simp] theorem State.setCore_clret (s : State) (c : Nat) (k : Core) : (s.setCore c k).clret = s.clret := rfl
@[simp] theorem State.setCore_l2retDone (s : State) (c : Nat) (k : Core) : (s.setCore c k).l2retDone = s.l2retDone := rfl
@[simp] theorem State.setCore_l2pend (s : State) (c : Nat) (k : Core) : (s.setCore c k).l2pend = s.l2pend := rfl
@[simp] theorem State.setCore_l2full (s : State) (c : Nat) (k : Core) : (s.setCore c k).l2full = s.l2full := rfl
@[simp] theorem State.setCore_hostBase (s : State) (c : Nat) (k : Core) : (s.setCore c k).hostBase = s.hostBase := rfl
@[simp] theorem State.setCore_hostErr (s : State) (c : Nat) (k : Core) : (s.setCore c k).hostErr = s.hostErr := rfl
@[simp] theorem State.setCore_hostWrites (s : State) (c : Nat) (k : Core) : (s.setCore c k).hostWrites = s.hostWrites := rfl
@[simp] theorem State.setCore_hostReply (s : State) (c : Nat) (k : Core) : (s.setCore c k).hostReply = s.hostReply := rfl
@[simp] theorem State.setCore_msix (s : State) (c : Nat) (k : Core) : (s.setCore c k).msix = s.msix := rfl
@[simp] theorem State.setCore_regs (s : State) (c : Nat) (k : Core) : (s.setCore c k).regs = s.regs := rfl
@[simp] theorem State.setCore_drip (s : State) (c : Nat) (k : Core) : (s.setCore c k).drip = s.drip := rfl
@[simp] theorem State.setCore_mel (s : State) (c : Nat) (k : Core) : (s.setCore c k).mel = s.mel := rfl
@[simp] theorem State.setCore_keys (s : State) (c : Nat) (k : Core) : (s.setCore c k).keys = s.keys := rfl
@[simp] theorem State.setCore_pairs (s : State) (c : Nat) (k : Core) : (s.setCore c k).pairs = s.pairs := rfl
@[simp] theorem State.setCore_exports (s : State) (c : Nat) (k : Core) : (s.setCore c k).exports = s.exports := rfl
@[simp] theorem State.setCore_mig (s : State) (c : Nat) (k : Core) : (s.setCore c k).mig = s.mig := rfl
@[simp] theorem State.setCore_migWait (s : State) (c : Nat) (k : Core) : (s.setCore c k).migWait = s.migWait := rfl
@[simp] theorem State.setCore_migDone (s : State) (c : Nat) (k : Core) : (s.setCore c k).migDone = s.migDone := rfl
@[simp] theorem State.setCore_cxl (s : State) (c : Nat) (k : Core) : (s.setCore c k).cxl = s.cxl := rfl
@[simp] theorem State.setCore_cxlDown (s : State) (c : Nat) (k : Core) : (s.setCore c k).cxlDown = s.cxlDown := rfl
@[simp] theorem State.setCore_termDone (s : State) (c : Nat) (k : Core) : (s.setCore c k).termDone = s.termDone := rfl
@[simp] theorem State.setCore_cnresDone (s : State) (c : Nat) (k : Core) : (s.setCore c k).cnresDone = s.cnresDone := rfl
@[simp] theorem State.setCore_mem (s : State) (c : Nat) (k : Core) : (s.setCore c k).mem = s.mem := rfl
@[simp] theorem State.setCore_poison (s : State) (c : Nat) (k : Core) : (s.setCore c k).poison = s.poison := rfl
@[simp] theorem State.setCore_seals (s : State) (c : Nat) (k : Core) : (s.setCore c k).seals = s.seals := rfl
@[simp] theorem State.setCore_tagFails (s : State) (c : Nat) (k : Core) : (s.setCore c k).tagFails = s.tagFails := rfl
@[simp] theorem State.setCore_scratch (s : State) (c : Nat) (k : Core) : (s.setCore c k).scratch = s.scratch := rfl
@[simp] theorem State.setCore_scrPoison (s : State) (c : Nat) (k : Core) : (s.setCore c k).scrPoison = s.scrPoison := rfl
@[simp] theorem State.setCore_lines (s : State) (c : Nat) (k : Core) : (s.setCore c k).lines = s.lines := rfl
@[simp] theorem State.setCore_wire (s : State) (c : Nat) (k : Core) : (s.setCore c k).wire = s.wire := rfl
@[simp] theorem State.setCore_links (s : State) (c : Nat) (k : Core) : (s.setCore c k).links = s.links := rfl
@[simp] theorem State.setCore_arrived (s : State) (c : Nat) (k : Core) : (s.setCore c k).arrived = s.arrived := rfl
@[simp] theorem State.setCore_bridgeDown (s : State) (c : Nat) (k : Core) : (s.setCore c k).bridgeDown = s.bridgeDown := rfl
@[simp] theorem State.setCore_tlbDie (s : State) (c : Nat) (k : Core) : (s.setCore c k).tlbDie = s.tlbDie := rfl
@[simp] theorem State.setCore_misses (s : State) (c : Nat) (k : Core) : (s.setCore c k).misses = s.misses := rfl
@[simp] theorem State.setCore_pfaults (s : State) (c : Nat) (k : Core) : (s.setCore c k).pfaults = s.pfaults := rfl
@[simp] theorem State.setCore_xlfail (s : State) (c : Nat) (k : Core) : (s.setCore c k).xlfail = s.xlfail := rfl
@[simp] theorem State.setCore_owed (s : State) (c : Nat) (k : Core) : (s.setCore c k).owed = s.owed := rfl
@[simp] theorem State.setCore_invs (s : State) (c : Nat) (k : Core) : (s.setCore c k).invs = s.invs := rfl
@[simp] theorem State.setCore_ctxs (s : State) (c : Nat) (k : Core) : (s.setCore c k).ctxs = s.ctxs := rfl
@[simp] theorem State.setCore_queues (s : State) (c : Nat) (k : Core) : (s.setCore c k).queues = s.queues := rfl
@[simp] theorem State.setCore_qpushes (s : State) (c : Nat) (k : Core) : (s.setCore c k).qpushes = s.qpushes := rfl
@[simp] theorem State.setCore_launches (s : State) (c : Nat) (k : Core) : (s.setCore c k).launches = s.launches := rfl
@[simp] theorem State.setCore_graphs (s : State) (c : Nat) (k : Core) : (s.setCore c k).graphs = s.graphs := rfl
@[simp] theorem State.setCore_phases (s : State) (c : Nat) (k : Core) : (s.setCore c k).phases = s.phases := rfl
@[simp] theorem State.setCore_taskQ (s : State) (c : Nat) (k : Core) : (s.setCore c k).taskQ = s.taskQ := rfl
@[simp] theorem State.setCore_taskRun (s : State) (c : Nat) (k : Core) : (s.setCore c k).taskRun = s.taskRun := rfl
@[simp] theorem State.setCore_ringHeld (s : State) (c : Nat) (k : Core) : (s.setCore c k).ringHeld = s.ringHeld := rfl
@[simp] theorem State.setCore_engines (s : State) (c : Nat) (k : Core) : (s.setCore c k).engines = s.engines := rfl
@[simp] theorem State.setCore_cores (s : State) (c : Nat) (k : Core) : (s.setCore c k).cores = s.cores.put c k := rfl
@[simp] theorem State.setCore_blocks (s : State) (c : Nat) (k : Core) : (s.setCore c k).blocks = s.blocks := rfl
@[simp] theorem State.setCore_warps (s : State) (c : Nat) (k : Core) : (s.setCore c k).warps = s.warps := rfl
@[simp] theorem State.setCore_domains (s : State) (c : Nat) (k : Core) : (s.setCore c k).domains = s.domains := rfl
@[simp] theorem State.setCore_defining (s : State) (c : Nat) (k : Core) : (s.setCore c k).defining = s.defining := rfl
@[simp] theorem State.setCore_stoxia (s : State) (c : Nat) (k : Core) : (s.setCore c k).stoxia = s.stoxia := rfl
@[simp] theorem State.setCore_peerReqs (s : State) (c : Nat) (k : Core) : (s.setCore c k).peerReqs = s.peerReqs := rfl
@[simp] theorem State.setCore_peerHeld (s : State) (c : Nat) (k : Core) : (s.setCore c k).peerHeld = s.peerHeld := rfl
@[simp] theorem State.setCore_pxData (s : State) (c : Nat) (k : Core) : (s.setCore c k).pxData = s.pxData := rfl
@[simp] theorem State.setCore_podL2 (s : State) (c : Nat) (k : Core) : (s.setCore c k).podL2 = s.podL2 := rfl
@[simp] theorem State.setCore_recent (s : State) (c : Nat) (k : Core) : (s.setCore c k).recent = s.recent := rfl
@[simp] theorem State.setCore_raced (s : State) (c : Nat) (k : Core) : (s.setCore c k).raced = s.raced := rfl

@[simp] theorem State.setWarp_free (s : State) (c k : Nat) (w : Warp) : (s.setWarp c k w).free = s.free := rfl
@[simp] theorem State.setWarp_inbox (s : State) (c k : Nat) (w : Warp) : (s.setWarp c k w).inbox = s.inbox := rfl
@[simp] theorem State.setWarp_agenda (s : State) (c k : Nat) (w : Warp) : (s.setWarp c k w).agenda = s.agenda := rfl
@[simp] theorem State.setWarp_cur (s : State) (c k : Nat) (w : Warp) : (s.setWarp c k w).cur = s.cur := rfl
@[simp] theorem State.setWarp_arg (s : State) (c k : Nat) (w : Warp) : (s.setWarp c k w).arg = s.arg := rfl
@[simp] theorem State.setWarp_ids (s : State) (c k : Nat) (w : Warp) : (s.setWarp c k w).ids = s.ids := rfl
@[simp] theorem State.setWarp_clock (s : State) (c k : Nat) (w : Warp) : (s.setWarp c k w).clock = s.clock := rfl
@[simp] theorem State.setWarp_power (s : State) (c k : Nat) (w : Warp) : (s.setWarp c k w).power = s.power := rfl
@[simp] theorem State.setWarp_idleSince (s : State) (c k : Nat) (w : Warp) : (s.setWarp c k w).idleSince = s.idleSince := rfl
@[simp] theorem State.setWarp_frzTrig (s : State) (c k : Nat) (w : Warp) : (s.setWarp c k w).frzTrig = s.frzTrig := rfl
@[simp] theorem State.setWarp_frozen (s : State) (c k : Nat) (w : Warp) : (s.setWarp c k w).frozen = s.frozen := rfl
@[simp] theorem State.setWarp_boot (s : State) (c k : Nat) (w : Warp) : (s.setWarp c k w).boot = s.boot := rfl
@[simp] theorem State.setWarp_noFloor (s : State) (c k : Nat) (w : Warp) : (s.setWarp c k w).noFloor = s.noFloor := rfl
@[simp] theorem State.setWarp_svnFloor (s : State) (c k : Nat) (w : Warp) : (s.setWarp c k w).svnFloor = s.svnFloor := rfl
@[simp] theorem State.setWarp_opPoint (s : State) (c k : Nat) (w : Warp) : (s.setWarp c k w).opPoint = s.opPoint := rfl
@[simp] theorem State.setWarp_opHold (s : State) (c k : Nat) (w : Warp) : (s.setWarp c k w).opHold = s.opHold := rfl
@[simp] theorem State.setWarp_pwrLimit (s : State) (c k : Nat) (w : Warp) : (s.setWarp c k w).pwrLimit = s.pwrLimit := rfl
@[simp] theorem State.setWarp_frzCtl (s : State) (c k : Nat) (w : Warp) : (s.setWarp c k w).frzCtl = s.frzCtl := rfl
@[simp] theorem State.setWarp_plcRetired (s : State) (c k : Nat) (w : Warp) : (s.setWarp c k w).plcRetired = s.plcRetired := rfl
@[simp] theorem State.setWarp_l2ret (s : State) (c k : Nat) (w : Warp) : (s.setWarp c k w).l2ret = s.l2ret := rfl
@[simp] theorem State.setWarp_clret (s : State) (c k : Nat) (w : Warp) : (s.setWarp c k w).clret = s.clret := rfl
@[simp] theorem State.setWarp_l2retDone (s : State) (c k : Nat) (w : Warp) : (s.setWarp c k w).l2retDone = s.l2retDone := rfl
@[simp] theorem State.setWarp_l2pend (s : State) (c k : Nat) (w : Warp) : (s.setWarp c k w).l2pend = s.l2pend := rfl
@[simp] theorem State.setWarp_l2full (s : State) (c k : Nat) (w : Warp) : (s.setWarp c k w).l2full = s.l2full := rfl
@[simp] theorem State.setWarp_hostBase (s : State) (c k : Nat) (w : Warp) : (s.setWarp c k w).hostBase = s.hostBase := rfl
@[simp] theorem State.setWarp_hostErr (s : State) (c k : Nat) (w : Warp) : (s.setWarp c k w).hostErr = s.hostErr := rfl
@[simp] theorem State.setWarp_hostWrites (s : State) (c k : Nat) (w : Warp) : (s.setWarp c k w).hostWrites = s.hostWrites := rfl
@[simp] theorem State.setWarp_hostReply (s : State) (c k : Nat) (w : Warp) : (s.setWarp c k w).hostReply = s.hostReply := rfl
@[simp] theorem State.setWarp_msix (s : State) (c k : Nat) (w : Warp) : (s.setWarp c k w).msix = s.msix := rfl
@[simp] theorem State.setWarp_regs (s : State) (c k : Nat) (w : Warp) : (s.setWarp c k w).regs = s.regs := rfl
@[simp] theorem State.setWarp_drip (s : State) (c k : Nat) (w : Warp) : (s.setWarp c k w).drip = s.drip := rfl
@[simp] theorem State.setWarp_mel (s : State) (c k : Nat) (w : Warp) : (s.setWarp c k w).mel = s.mel := rfl
@[simp] theorem State.setWarp_keys (s : State) (c k : Nat) (w : Warp) : (s.setWarp c k w).keys = s.keys := rfl
@[simp] theorem State.setWarp_pairs (s : State) (c k : Nat) (w : Warp) : (s.setWarp c k w).pairs = s.pairs := rfl
@[simp] theorem State.setWarp_exports (s : State) (c k : Nat) (w : Warp) : (s.setWarp c k w).exports = s.exports := rfl
@[simp] theorem State.setWarp_mig (s : State) (c k : Nat) (w : Warp) : (s.setWarp c k w).mig = s.mig := rfl
@[simp] theorem State.setWarp_migWait (s : State) (c k : Nat) (w : Warp) : (s.setWarp c k w).migWait = s.migWait := rfl
@[simp] theorem State.setWarp_migDone (s : State) (c k : Nat) (w : Warp) : (s.setWarp c k w).migDone = s.migDone := rfl
@[simp] theorem State.setWarp_cxl (s : State) (c k : Nat) (w : Warp) : (s.setWarp c k w).cxl = s.cxl := rfl
@[simp] theorem State.setWarp_cxlDown (s : State) (c k : Nat) (w : Warp) : (s.setWarp c k w).cxlDown = s.cxlDown := rfl
@[simp] theorem State.setWarp_termDone (s : State) (c k : Nat) (w : Warp) : (s.setWarp c k w).termDone = s.termDone := rfl
@[simp] theorem State.setWarp_cnresDone (s : State) (c k : Nat) (w : Warp) : (s.setWarp c k w).cnresDone = s.cnresDone := rfl
@[simp] theorem State.setWarp_mem (s : State) (c k : Nat) (w : Warp) : (s.setWarp c k w).mem = s.mem := rfl
@[simp] theorem State.setWarp_poison (s : State) (c k : Nat) (w : Warp) : (s.setWarp c k w).poison = s.poison := rfl
@[simp] theorem State.setWarp_seals (s : State) (c k : Nat) (w : Warp) : (s.setWarp c k w).seals = s.seals := rfl
@[simp] theorem State.setWarp_tagFails (s : State) (c k : Nat) (w : Warp) : (s.setWarp c k w).tagFails = s.tagFails := rfl
@[simp] theorem State.setWarp_scratch (s : State) (c k : Nat) (w : Warp) : (s.setWarp c k w).scratch = s.scratch := rfl
@[simp] theorem State.setWarp_scrPoison (s : State) (c k : Nat) (w : Warp) : (s.setWarp c k w).scrPoison = s.scrPoison := rfl
@[simp] theorem State.setWarp_lines (s : State) (c k : Nat) (w : Warp) : (s.setWarp c k w).lines = s.lines := rfl
@[simp] theorem State.setWarp_wire (s : State) (c k : Nat) (w : Warp) : (s.setWarp c k w).wire = s.wire := rfl
@[simp] theorem State.setWarp_links (s : State) (c k : Nat) (w : Warp) : (s.setWarp c k w).links = s.links := rfl
@[simp] theorem State.setWarp_arrived (s : State) (c k : Nat) (w : Warp) : (s.setWarp c k w).arrived = s.arrived := rfl
@[simp] theorem State.setWarp_bridgeDown (s : State) (c k : Nat) (w : Warp) : (s.setWarp c k w).bridgeDown = s.bridgeDown := rfl
@[simp] theorem State.setWarp_tlbDie (s : State) (c k : Nat) (w : Warp) : (s.setWarp c k w).tlbDie = s.tlbDie := rfl
@[simp] theorem State.setWarp_misses (s : State) (c k : Nat) (w : Warp) : (s.setWarp c k w).misses = s.misses := rfl
@[simp] theorem State.setWarp_pfaults (s : State) (c k : Nat) (w : Warp) : (s.setWarp c k w).pfaults = s.pfaults := rfl
@[simp] theorem State.setWarp_xlfail (s : State) (c k : Nat) (w : Warp) : (s.setWarp c k w).xlfail = s.xlfail := rfl
@[simp] theorem State.setWarp_owed (s : State) (c k : Nat) (w : Warp) : (s.setWarp c k w).owed = s.owed := rfl
@[simp] theorem State.setWarp_invs (s : State) (c k : Nat) (w : Warp) : (s.setWarp c k w).invs = s.invs := rfl
@[simp] theorem State.setWarp_ctxs (s : State) (c k : Nat) (w : Warp) : (s.setWarp c k w).ctxs = s.ctxs := rfl
@[simp] theorem State.setWarp_queues (s : State) (c k : Nat) (w : Warp) : (s.setWarp c k w).queues = s.queues := rfl
@[simp] theorem State.setWarp_qpushes (s : State) (c k : Nat) (w : Warp) : (s.setWarp c k w).qpushes = s.qpushes := rfl
@[simp] theorem State.setWarp_launches (s : State) (c k : Nat) (w : Warp) : (s.setWarp c k w).launches = s.launches := rfl
@[simp] theorem State.setWarp_graphs (s : State) (c k : Nat) (w : Warp) : (s.setWarp c k w).graphs = s.graphs := rfl
@[simp] theorem State.setWarp_phases (s : State) (c k : Nat) (w : Warp) : (s.setWarp c k w).phases = s.phases := rfl
@[simp] theorem State.setWarp_taskQ (s : State) (c k : Nat) (w : Warp) : (s.setWarp c k w).taskQ = s.taskQ := rfl
@[simp] theorem State.setWarp_taskRun (s : State) (c k : Nat) (w : Warp) : (s.setWarp c k w).taskRun = s.taskRun := rfl
@[simp] theorem State.setWarp_ringHeld (s : State) (c k : Nat) (w : Warp) : (s.setWarp c k w).ringHeld = s.ringHeld := rfl
@[simp] theorem State.setWarp_engines (s : State) (c k : Nat) (w : Warp) : (s.setWarp c k w).engines = s.engines := rfl
@[simp] theorem State.setWarp_cores (s : State) (c k : Nat) (w : Warp) : (s.setWarp c k w).cores = s.cores := rfl
@[simp] theorem State.setWarp_blocks (s : State) (c k : Nat) (w : Warp) : (s.setWarp c k w).blocks = s.blocks := rfl
@[simp] theorem State.setWarp_warps (s : State) (c k : Nat) (w : Warp) : (s.setWarp c k w).warps = s.warps.put (slotKey c k) w := rfl
@[simp] theorem State.setWarp_domains (s : State) (c k : Nat) (w : Warp) : (s.setWarp c k w).domains = s.domains := rfl
@[simp] theorem State.setWarp_defining (s : State) (c k : Nat) (w : Warp) : (s.setWarp c k w).defining = s.defining := rfl
@[simp] theorem State.setWarp_stoxia (s : State) (c k : Nat) (w : Warp) : (s.setWarp c k w).stoxia = s.stoxia := rfl
@[simp] theorem State.setWarp_peerReqs (s : State) (c k : Nat) (w : Warp) : (s.setWarp c k w).peerReqs = s.peerReqs := rfl
@[simp] theorem State.setWarp_peerHeld (s : State) (c k : Nat) (w : Warp) : (s.setWarp c k w).peerHeld = s.peerHeld := rfl
@[simp] theorem State.setWarp_pxData (s : State) (c k : Nat) (w : Warp) : (s.setWarp c k w).pxData = s.pxData := rfl
@[simp] theorem State.setWarp_podL2 (s : State) (c k : Nat) (w : Warp) : (s.setWarp c k w).podL2 = s.podL2 := rfl
@[simp] theorem State.setWarp_recent (s : State) (c k : Nat) (w : Warp) : (s.setWarp c k w).recent = s.recent := rfl
@[simp] theorem State.setWarp_raced (s : State) (c k : Nat) (w : Warp) : (s.setWarp c k w).raced = s.raced := rfl

@[simp] theorem State.setBlock_free (s : State) (b : Nat) (x : Block) : (s.setBlock b x).free = s.free := rfl
@[simp] theorem State.setBlock_inbox (s : State) (b : Nat) (x : Block) : (s.setBlock b x).inbox = s.inbox := rfl
@[simp] theorem State.setBlock_agenda (s : State) (b : Nat) (x : Block) : (s.setBlock b x).agenda = s.agenda := rfl
@[simp] theorem State.setBlock_cur (s : State) (b : Nat) (x : Block) : (s.setBlock b x).cur = s.cur := rfl
@[simp] theorem State.setBlock_arg (s : State) (b : Nat) (x : Block) : (s.setBlock b x).arg = s.arg := rfl
@[simp] theorem State.setBlock_ids (s : State) (b : Nat) (x : Block) : (s.setBlock b x).ids = s.ids := rfl
@[simp] theorem State.setBlock_clock (s : State) (b : Nat) (x : Block) : (s.setBlock b x).clock = s.clock := rfl
@[simp] theorem State.setBlock_power (s : State) (b : Nat) (x : Block) : (s.setBlock b x).power = s.power := rfl
@[simp] theorem State.setBlock_idleSince (s : State) (b : Nat) (x : Block) : (s.setBlock b x).idleSince = s.idleSince := rfl
@[simp] theorem State.setBlock_frzTrig (s : State) (b : Nat) (x : Block) : (s.setBlock b x).frzTrig = s.frzTrig := rfl
@[simp] theorem State.setBlock_frozen (s : State) (b : Nat) (x : Block) : (s.setBlock b x).frozen = s.frozen := rfl
@[simp] theorem State.setBlock_boot (s : State) (b : Nat) (x : Block) : (s.setBlock b x).boot = s.boot := rfl
@[simp] theorem State.setBlock_noFloor (s : State) (b : Nat) (x : Block) : (s.setBlock b x).noFloor = s.noFloor := rfl
@[simp] theorem State.setBlock_svnFloor (s : State) (b : Nat) (x : Block) : (s.setBlock b x).svnFloor = s.svnFloor := rfl
@[simp] theorem State.setBlock_opPoint (s : State) (b : Nat) (x : Block) : (s.setBlock b x).opPoint = s.opPoint := rfl
@[simp] theorem State.setBlock_opHold (s : State) (b : Nat) (x : Block) : (s.setBlock b x).opHold = s.opHold := rfl
@[simp] theorem State.setBlock_pwrLimit (s : State) (b : Nat) (x : Block) : (s.setBlock b x).pwrLimit = s.pwrLimit := rfl
@[simp] theorem State.setBlock_frzCtl (s : State) (b : Nat) (x : Block) : (s.setBlock b x).frzCtl = s.frzCtl := rfl
@[simp] theorem State.setBlock_plcRetired (s : State) (b : Nat) (x : Block) : (s.setBlock b x).plcRetired = s.plcRetired := rfl
@[simp] theorem State.setBlock_l2ret (s : State) (b : Nat) (x : Block) : (s.setBlock b x).l2ret = s.l2ret := rfl
@[simp] theorem State.setBlock_clret (s : State) (b : Nat) (x : Block) : (s.setBlock b x).clret = s.clret := rfl
@[simp] theorem State.setBlock_l2retDone (s : State) (b : Nat) (x : Block) : (s.setBlock b x).l2retDone = s.l2retDone := rfl
@[simp] theorem State.setBlock_l2pend (s : State) (b : Nat) (x : Block) : (s.setBlock b x).l2pend = s.l2pend := rfl
@[simp] theorem State.setBlock_l2full (s : State) (b : Nat) (x : Block) : (s.setBlock b x).l2full = s.l2full := rfl
@[simp] theorem State.setBlock_hostBase (s : State) (b : Nat) (x : Block) : (s.setBlock b x).hostBase = s.hostBase := rfl
@[simp] theorem State.setBlock_hostErr (s : State) (b : Nat) (x : Block) : (s.setBlock b x).hostErr = s.hostErr := rfl
@[simp] theorem State.setBlock_hostWrites (s : State) (b : Nat) (x : Block) : (s.setBlock b x).hostWrites = s.hostWrites := rfl
@[simp] theorem State.setBlock_hostReply (s : State) (b : Nat) (x : Block) : (s.setBlock b x).hostReply = s.hostReply := rfl
@[simp] theorem State.setBlock_msix (s : State) (b : Nat) (x : Block) : (s.setBlock b x).msix = s.msix := rfl
@[simp] theorem State.setBlock_regs (s : State) (b : Nat) (x : Block) : (s.setBlock b x).regs = s.regs := rfl
@[simp] theorem State.setBlock_drip (s : State) (b : Nat) (x : Block) : (s.setBlock b x).drip = s.drip := rfl
@[simp] theorem State.setBlock_mel (s : State) (b : Nat) (x : Block) : (s.setBlock b x).mel = s.mel := rfl
@[simp] theorem State.setBlock_keys (s : State) (b : Nat) (x : Block) : (s.setBlock b x).keys = s.keys := rfl
@[simp] theorem State.setBlock_pairs (s : State) (b : Nat) (x : Block) : (s.setBlock b x).pairs = s.pairs := rfl
@[simp] theorem State.setBlock_exports (s : State) (b : Nat) (x : Block) : (s.setBlock b x).exports = s.exports := rfl
@[simp] theorem State.setBlock_mig (s : State) (b : Nat) (x : Block) : (s.setBlock b x).mig = s.mig := rfl
@[simp] theorem State.setBlock_migWait (s : State) (b : Nat) (x : Block) : (s.setBlock b x).migWait = s.migWait := rfl
@[simp] theorem State.setBlock_migDone (s : State) (b : Nat) (x : Block) : (s.setBlock b x).migDone = s.migDone := rfl
@[simp] theorem State.setBlock_cxl (s : State) (b : Nat) (x : Block) : (s.setBlock b x).cxl = s.cxl := rfl
@[simp] theorem State.setBlock_cxlDown (s : State) (b : Nat) (x : Block) : (s.setBlock b x).cxlDown = s.cxlDown := rfl
@[simp] theorem State.setBlock_termDone (s : State) (b : Nat) (x : Block) : (s.setBlock b x).termDone = s.termDone := rfl
@[simp] theorem State.setBlock_cnresDone (s : State) (b : Nat) (x : Block) : (s.setBlock b x).cnresDone = s.cnresDone := rfl
@[simp] theorem State.setBlock_mem (s : State) (b : Nat) (x : Block) : (s.setBlock b x).mem = s.mem := rfl
@[simp] theorem State.setBlock_poison (s : State) (b : Nat) (x : Block) : (s.setBlock b x).poison = s.poison := rfl
@[simp] theorem State.setBlock_seals (s : State) (b : Nat) (x : Block) : (s.setBlock b x).seals = s.seals := rfl
@[simp] theorem State.setBlock_tagFails (s : State) (b : Nat) (x : Block) : (s.setBlock b x).tagFails = s.tagFails := rfl
@[simp] theorem State.setBlock_scratch (s : State) (b : Nat) (x : Block) : (s.setBlock b x).scratch = s.scratch := rfl
@[simp] theorem State.setBlock_scrPoison (s : State) (b : Nat) (x : Block) : (s.setBlock b x).scrPoison = s.scrPoison := rfl
@[simp] theorem State.setBlock_lines (s : State) (b : Nat) (x : Block) : (s.setBlock b x).lines = s.lines := rfl
@[simp] theorem State.setBlock_wire (s : State) (b : Nat) (x : Block) : (s.setBlock b x).wire = s.wire := rfl
@[simp] theorem State.setBlock_links (s : State) (b : Nat) (x : Block) : (s.setBlock b x).links = s.links := rfl
@[simp] theorem State.setBlock_arrived (s : State) (b : Nat) (x : Block) : (s.setBlock b x).arrived = s.arrived := rfl
@[simp] theorem State.setBlock_bridgeDown (s : State) (b : Nat) (x : Block) : (s.setBlock b x).bridgeDown = s.bridgeDown := rfl
@[simp] theorem State.setBlock_tlbDie (s : State) (b : Nat) (x : Block) : (s.setBlock b x).tlbDie = s.tlbDie := rfl
@[simp] theorem State.setBlock_misses (s : State) (b : Nat) (x : Block) : (s.setBlock b x).misses = s.misses := rfl
@[simp] theorem State.setBlock_pfaults (s : State) (b : Nat) (x : Block) : (s.setBlock b x).pfaults = s.pfaults := rfl
@[simp] theorem State.setBlock_xlfail (s : State) (b : Nat) (x : Block) : (s.setBlock b x).xlfail = s.xlfail := rfl
@[simp] theorem State.setBlock_owed (s : State) (b : Nat) (x : Block) : (s.setBlock b x).owed = s.owed := rfl
@[simp] theorem State.setBlock_invs (s : State) (b : Nat) (x : Block) : (s.setBlock b x).invs = s.invs := rfl
@[simp] theorem State.setBlock_ctxs (s : State) (b : Nat) (x : Block) : (s.setBlock b x).ctxs = s.ctxs := rfl
@[simp] theorem State.setBlock_queues (s : State) (b : Nat) (x : Block) : (s.setBlock b x).queues = s.queues := rfl
@[simp] theorem State.setBlock_qpushes (s : State) (b : Nat) (x : Block) : (s.setBlock b x).qpushes = s.qpushes := rfl
@[simp] theorem State.setBlock_launches (s : State) (b : Nat) (x : Block) : (s.setBlock b x).launches = s.launches := rfl
@[simp] theorem State.setBlock_graphs (s : State) (b : Nat) (x : Block) : (s.setBlock b x).graphs = s.graphs := rfl
@[simp] theorem State.setBlock_phases (s : State) (b : Nat) (x : Block) : (s.setBlock b x).phases = s.phases := rfl
@[simp] theorem State.setBlock_taskQ (s : State) (b : Nat) (x : Block) : (s.setBlock b x).taskQ = s.taskQ := rfl
@[simp] theorem State.setBlock_taskRun (s : State) (b : Nat) (x : Block) : (s.setBlock b x).taskRun = s.taskRun := rfl
@[simp] theorem State.setBlock_ringHeld (s : State) (b : Nat) (x : Block) : (s.setBlock b x).ringHeld = s.ringHeld := rfl
@[simp] theorem State.setBlock_engines (s : State) (b : Nat) (x : Block) : (s.setBlock b x).engines = s.engines := rfl
@[simp] theorem State.setBlock_cores (s : State) (b : Nat) (x : Block) : (s.setBlock b x).cores = s.cores := rfl
@[simp] theorem State.setBlock_blocks (s : State) (b : Nat) (x : Block) : (s.setBlock b x).blocks = s.blocks.put b x := rfl
@[simp] theorem State.setBlock_warps (s : State) (b : Nat) (x : Block) : (s.setBlock b x).warps = s.warps := rfl
@[simp] theorem State.setBlock_domains (s : State) (b : Nat) (x : Block) : (s.setBlock b x).domains = s.domains := rfl
@[simp] theorem State.setBlock_defining (s : State) (b : Nat) (x : Block) : (s.setBlock b x).defining = s.defining := rfl
@[simp] theorem State.setBlock_stoxia (s : State) (b : Nat) (x : Block) : (s.setBlock b x).stoxia = s.stoxia := rfl
@[simp] theorem State.setBlock_peerReqs (s : State) (b : Nat) (x : Block) : (s.setBlock b x).peerReqs = s.peerReqs := rfl
@[simp] theorem State.setBlock_peerHeld (s : State) (b : Nat) (x : Block) : (s.setBlock b x).peerHeld = s.peerHeld := rfl
@[simp] theorem State.setBlock_pxData (s : State) (b : Nat) (x : Block) : (s.setBlock b x).pxData = s.pxData := rfl
@[simp] theorem State.setBlock_podL2 (s : State) (b : Nat) (x : Block) : (s.setBlock b x).podL2 = s.podL2 := rfl
@[simp] theorem State.setBlock_recent (s : State) (b : Nat) (x : Block) : (s.setBlock b x).recent = s.recent := rfl
@[simp] theorem State.setBlock_raced (s : State) (b : Nat) (x : Block) : (s.setBlock b x).raced = s.raced := rfl

@[simp] theorem State.setCtx_free (s : State) (c : Nat) (x : Ctx) : (s.setCtx c x).free = s.free := rfl
@[simp] theorem State.setCtx_inbox (s : State) (c : Nat) (x : Ctx) : (s.setCtx c x).inbox = s.inbox := rfl
@[simp] theorem State.setCtx_agenda (s : State) (c : Nat) (x : Ctx) : (s.setCtx c x).agenda = s.agenda := rfl
@[simp] theorem State.setCtx_cur (s : State) (c : Nat) (x : Ctx) : (s.setCtx c x).cur = s.cur := rfl
@[simp] theorem State.setCtx_arg (s : State) (c : Nat) (x : Ctx) : (s.setCtx c x).arg = s.arg := rfl
@[simp] theorem State.setCtx_ids (s : State) (c : Nat) (x : Ctx) : (s.setCtx c x).ids = s.ids := rfl
@[simp] theorem State.setCtx_clock (s : State) (c : Nat) (x : Ctx) : (s.setCtx c x).clock = s.clock := rfl
@[simp] theorem State.setCtx_power (s : State) (c : Nat) (x : Ctx) : (s.setCtx c x).power = s.power := rfl
@[simp] theorem State.setCtx_idleSince (s : State) (c : Nat) (x : Ctx) : (s.setCtx c x).idleSince = s.idleSince := rfl
@[simp] theorem State.setCtx_frzTrig (s : State) (c : Nat) (x : Ctx) : (s.setCtx c x).frzTrig = s.frzTrig := rfl
@[simp] theorem State.setCtx_frozen (s : State) (c : Nat) (x : Ctx) : (s.setCtx c x).frozen = s.frozen := rfl
@[simp] theorem State.setCtx_boot (s : State) (c : Nat) (x : Ctx) : (s.setCtx c x).boot = s.boot := rfl
@[simp] theorem State.setCtx_noFloor (s : State) (c : Nat) (x : Ctx) : (s.setCtx c x).noFloor = s.noFloor := rfl
@[simp] theorem State.setCtx_svnFloor (s : State) (c : Nat) (x : Ctx) : (s.setCtx c x).svnFloor = s.svnFloor := rfl
@[simp] theorem State.setCtx_opPoint (s : State) (c : Nat) (x : Ctx) : (s.setCtx c x).opPoint = s.opPoint := rfl
@[simp] theorem State.setCtx_opHold (s : State) (c : Nat) (x : Ctx) : (s.setCtx c x).opHold = s.opHold := rfl
@[simp] theorem State.setCtx_pwrLimit (s : State) (c : Nat) (x : Ctx) : (s.setCtx c x).pwrLimit = s.pwrLimit := rfl
@[simp] theorem State.setCtx_frzCtl (s : State) (c : Nat) (x : Ctx) : (s.setCtx c x).frzCtl = s.frzCtl := rfl
@[simp] theorem State.setCtx_plcRetired (s : State) (c : Nat) (x : Ctx) : (s.setCtx c x).plcRetired = s.plcRetired := rfl
@[simp] theorem State.setCtx_l2ret (s : State) (c : Nat) (x : Ctx) : (s.setCtx c x).l2ret = s.l2ret := rfl
@[simp] theorem State.setCtx_clret (s : State) (c : Nat) (x : Ctx) : (s.setCtx c x).clret = s.clret := rfl
@[simp] theorem State.setCtx_l2retDone (s : State) (c : Nat) (x : Ctx) : (s.setCtx c x).l2retDone = s.l2retDone := rfl
@[simp] theorem State.setCtx_l2pend (s : State) (c : Nat) (x : Ctx) : (s.setCtx c x).l2pend = s.l2pend := rfl
@[simp] theorem State.setCtx_l2full (s : State) (c : Nat) (x : Ctx) : (s.setCtx c x).l2full = s.l2full := rfl
@[simp] theorem State.setCtx_hostBase (s : State) (c : Nat) (x : Ctx) : (s.setCtx c x).hostBase = s.hostBase := rfl
@[simp] theorem State.setCtx_hostErr (s : State) (c : Nat) (x : Ctx) : (s.setCtx c x).hostErr = s.hostErr := rfl
@[simp] theorem State.setCtx_hostWrites (s : State) (c : Nat) (x : Ctx) : (s.setCtx c x).hostWrites = s.hostWrites := rfl
@[simp] theorem State.setCtx_hostReply (s : State) (c : Nat) (x : Ctx) : (s.setCtx c x).hostReply = s.hostReply := rfl
@[simp] theorem State.setCtx_msix (s : State) (c : Nat) (x : Ctx) : (s.setCtx c x).msix = s.msix := rfl
@[simp] theorem State.setCtx_regs (s : State) (c : Nat) (x : Ctx) : (s.setCtx c x).regs = s.regs := rfl
@[simp] theorem State.setCtx_drip (s : State) (c : Nat) (x : Ctx) : (s.setCtx c x).drip = s.drip := rfl
@[simp] theorem State.setCtx_mel (s : State) (c : Nat) (x : Ctx) : (s.setCtx c x).mel = s.mel := rfl
@[simp] theorem State.setCtx_keys (s : State) (c : Nat) (x : Ctx) : (s.setCtx c x).keys = s.keys := rfl
@[simp] theorem State.setCtx_pairs (s : State) (c : Nat) (x : Ctx) : (s.setCtx c x).pairs = s.pairs := rfl
@[simp] theorem State.setCtx_exports (s : State) (c : Nat) (x : Ctx) : (s.setCtx c x).exports = s.exports := rfl
@[simp] theorem State.setCtx_mig (s : State) (c : Nat) (x : Ctx) : (s.setCtx c x).mig = s.mig := rfl
@[simp] theorem State.setCtx_migWait (s : State) (c : Nat) (x : Ctx) : (s.setCtx c x).migWait = s.migWait := rfl
@[simp] theorem State.setCtx_migDone (s : State) (c : Nat) (x : Ctx) : (s.setCtx c x).migDone = s.migDone := rfl
@[simp] theorem State.setCtx_cxl (s : State) (c : Nat) (x : Ctx) : (s.setCtx c x).cxl = s.cxl := rfl
@[simp] theorem State.setCtx_cxlDown (s : State) (c : Nat) (x : Ctx) : (s.setCtx c x).cxlDown = s.cxlDown := rfl
@[simp] theorem State.setCtx_termDone (s : State) (c : Nat) (x : Ctx) : (s.setCtx c x).termDone = s.termDone := rfl
@[simp] theorem State.setCtx_cnresDone (s : State) (c : Nat) (x : Ctx) : (s.setCtx c x).cnresDone = s.cnresDone := rfl
@[simp] theorem State.setCtx_mem (s : State) (c : Nat) (x : Ctx) : (s.setCtx c x).mem = s.mem := rfl
@[simp] theorem State.setCtx_poison (s : State) (c : Nat) (x : Ctx) : (s.setCtx c x).poison = s.poison := rfl
@[simp] theorem State.setCtx_seals (s : State) (c : Nat) (x : Ctx) : (s.setCtx c x).seals = s.seals := rfl
@[simp] theorem State.setCtx_tagFails (s : State) (c : Nat) (x : Ctx) : (s.setCtx c x).tagFails = s.tagFails := rfl
@[simp] theorem State.setCtx_scratch (s : State) (c : Nat) (x : Ctx) : (s.setCtx c x).scratch = s.scratch := rfl
@[simp] theorem State.setCtx_scrPoison (s : State) (c : Nat) (x : Ctx) : (s.setCtx c x).scrPoison = s.scrPoison := rfl
@[simp] theorem State.setCtx_lines (s : State) (c : Nat) (x : Ctx) : (s.setCtx c x).lines = s.lines := rfl
@[simp] theorem State.setCtx_wire (s : State) (c : Nat) (x : Ctx) : (s.setCtx c x).wire = s.wire := rfl
@[simp] theorem State.setCtx_links (s : State) (c : Nat) (x : Ctx) : (s.setCtx c x).links = s.links := rfl
@[simp] theorem State.setCtx_arrived (s : State) (c : Nat) (x : Ctx) : (s.setCtx c x).arrived = s.arrived := rfl
@[simp] theorem State.setCtx_bridgeDown (s : State) (c : Nat) (x : Ctx) : (s.setCtx c x).bridgeDown = s.bridgeDown := rfl
@[simp] theorem State.setCtx_tlbDie (s : State) (c : Nat) (x : Ctx) : (s.setCtx c x).tlbDie = s.tlbDie := rfl
@[simp] theorem State.setCtx_misses (s : State) (c : Nat) (x : Ctx) : (s.setCtx c x).misses = s.misses := rfl
@[simp] theorem State.setCtx_pfaults (s : State) (c : Nat) (x : Ctx) : (s.setCtx c x).pfaults = s.pfaults := rfl
@[simp] theorem State.setCtx_xlfail (s : State) (c : Nat) (x : Ctx) : (s.setCtx c x).xlfail = s.xlfail := rfl
@[simp] theorem State.setCtx_owed (s : State) (c : Nat) (x : Ctx) : (s.setCtx c x).owed = s.owed := rfl
@[simp] theorem State.setCtx_invs (s : State) (c : Nat) (x : Ctx) : (s.setCtx c x).invs = s.invs := rfl
@[simp] theorem State.setCtx_ctxs (s : State) (c : Nat) (x : Ctx) : (s.setCtx c x).ctxs = s.ctxs.put c x := rfl
@[simp] theorem State.setCtx_queues (s : State) (c : Nat) (x : Ctx) : (s.setCtx c x).queues = s.queues := rfl
@[simp] theorem State.setCtx_qpushes (s : State) (c : Nat) (x : Ctx) : (s.setCtx c x).qpushes = s.qpushes := rfl
@[simp] theorem State.setCtx_launches (s : State) (c : Nat) (x : Ctx) : (s.setCtx c x).launches = s.launches := rfl
@[simp] theorem State.setCtx_graphs (s : State) (c : Nat) (x : Ctx) : (s.setCtx c x).graphs = s.graphs := rfl
@[simp] theorem State.setCtx_phases (s : State) (c : Nat) (x : Ctx) : (s.setCtx c x).phases = s.phases := rfl
@[simp] theorem State.setCtx_taskQ (s : State) (c : Nat) (x : Ctx) : (s.setCtx c x).taskQ = s.taskQ := rfl
@[simp] theorem State.setCtx_taskRun (s : State) (c : Nat) (x : Ctx) : (s.setCtx c x).taskRun = s.taskRun := rfl
@[simp] theorem State.setCtx_ringHeld (s : State) (c : Nat) (x : Ctx) : (s.setCtx c x).ringHeld = s.ringHeld := rfl
@[simp] theorem State.setCtx_engines (s : State) (c : Nat) (x : Ctx) : (s.setCtx c x).engines = s.engines := rfl
@[simp] theorem State.setCtx_cores (s : State) (c : Nat) (x : Ctx) : (s.setCtx c x).cores = s.cores := rfl
@[simp] theorem State.setCtx_blocks (s : State) (c : Nat) (x : Ctx) : (s.setCtx c x).blocks = s.blocks := rfl
@[simp] theorem State.setCtx_warps (s : State) (c : Nat) (x : Ctx) : (s.setCtx c x).warps = s.warps := rfl
@[simp] theorem State.setCtx_domains (s : State) (c : Nat) (x : Ctx) : (s.setCtx c x).domains = s.domains := rfl
@[simp] theorem State.setCtx_defining (s : State) (c : Nat) (x : Ctx) : (s.setCtx c x).defining = s.defining := rfl
@[simp] theorem State.setCtx_stoxia (s : State) (c : Nat) (x : Ctx) : (s.setCtx c x).stoxia = s.stoxia := rfl
@[simp] theorem State.setCtx_peerReqs (s : State) (c : Nat) (x : Ctx) : (s.setCtx c x).peerReqs = s.peerReqs := rfl
@[simp] theorem State.setCtx_peerHeld (s : State) (c : Nat) (x : Ctx) : (s.setCtx c x).peerHeld = s.peerHeld := rfl
@[simp] theorem State.setCtx_pxData (s : State) (c : Nat) (x : Ctx) : (s.setCtx c x).pxData = s.pxData := rfl
@[simp] theorem State.setCtx_podL2 (s : State) (c : Nat) (x : Ctx) : (s.setCtx c x).podL2 = s.podL2 := rfl
@[simp] theorem State.setCtx_recent (s : State) (c : Nat) (x : Ctx) : (s.setCtx c x).recent = s.recent := rfl
@[simp] theorem State.setCtx_raced (s : State) (c : Nat) (x : Ctx) : (s.setCtx c x).raced = s.raced := rfl

@[simp] theorem State.setLaunch_free (s : State) (n : Nat) (l : Launch) : (s.setLaunch n l).free = s.free := rfl
@[simp] theorem State.setLaunch_inbox (s : State) (n : Nat) (l : Launch) : (s.setLaunch n l).inbox = s.inbox := rfl
@[simp] theorem State.setLaunch_agenda (s : State) (n : Nat) (l : Launch) : (s.setLaunch n l).agenda = s.agenda := rfl
@[simp] theorem State.setLaunch_cur (s : State) (n : Nat) (l : Launch) : (s.setLaunch n l).cur = s.cur := rfl
@[simp] theorem State.setLaunch_arg (s : State) (n : Nat) (l : Launch) : (s.setLaunch n l).arg = s.arg := rfl
@[simp] theorem State.setLaunch_ids (s : State) (n : Nat) (l : Launch) : (s.setLaunch n l).ids = s.ids := rfl
@[simp] theorem State.setLaunch_clock (s : State) (n : Nat) (l : Launch) : (s.setLaunch n l).clock = s.clock := rfl
@[simp] theorem State.setLaunch_power (s : State) (n : Nat) (l : Launch) : (s.setLaunch n l).power = s.power := rfl
@[simp] theorem State.setLaunch_idleSince (s : State) (n : Nat) (l : Launch) : (s.setLaunch n l).idleSince = s.idleSince := rfl
@[simp] theorem State.setLaunch_frzTrig (s : State) (n : Nat) (l : Launch) : (s.setLaunch n l).frzTrig = s.frzTrig := rfl
@[simp] theorem State.setLaunch_frozen (s : State) (n : Nat) (l : Launch) : (s.setLaunch n l).frozen = s.frozen := rfl
@[simp] theorem State.setLaunch_boot (s : State) (n : Nat) (l : Launch) : (s.setLaunch n l).boot = s.boot := rfl
@[simp] theorem State.setLaunch_noFloor (s : State) (n : Nat) (l : Launch) : (s.setLaunch n l).noFloor = s.noFloor := rfl
@[simp] theorem State.setLaunch_svnFloor (s : State) (n : Nat) (l : Launch) : (s.setLaunch n l).svnFloor = s.svnFloor := rfl
@[simp] theorem State.setLaunch_opPoint (s : State) (n : Nat) (l : Launch) : (s.setLaunch n l).opPoint = s.opPoint := rfl
@[simp] theorem State.setLaunch_opHold (s : State) (n : Nat) (l : Launch) : (s.setLaunch n l).opHold = s.opHold := rfl
@[simp] theorem State.setLaunch_pwrLimit (s : State) (n : Nat) (l : Launch) : (s.setLaunch n l).pwrLimit = s.pwrLimit := rfl
@[simp] theorem State.setLaunch_frzCtl (s : State) (n : Nat) (l : Launch) : (s.setLaunch n l).frzCtl = s.frzCtl := rfl
@[simp] theorem State.setLaunch_plcRetired (s : State) (n : Nat) (l : Launch) : (s.setLaunch n l).plcRetired = s.plcRetired := rfl
@[simp] theorem State.setLaunch_l2ret (s : State) (n : Nat) (l : Launch) : (s.setLaunch n l).l2ret = s.l2ret := rfl
@[simp] theorem State.setLaunch_clret (s : State) (n : Nat) (l : Launch) : (s.setLaunch n l).clret = s.clret := rfl
@[simp] theorem State.setLaunch_l2retDone (s : State) (n : Nat) (l : Launch) : (s.setLaunch n l).l2retDone = s.l2retDone := rfl
@[simp] theorem State.setLaunch_l2pend (s : State) (n : Nat) (l : Launch) : (s.setLaunch n l).l2pend = s.l2pend := rfl
@[simp] theorem State.setLaunch_l2full (s : State) (n : Nat) (l : Launch) : (s.setLaunch n l).l2full = s.l2full := rfl
@[simp] theorem State.setLaunch_hostBase (s : State) (n : Nat) (l : Launch) : (s.setLaunch n l).hostBase = s.hostBase := rfl
@[simp] theorem State.setLaunch_hostErr (s : State) (n : Nat) (l : Launch) : (s.setLaunch n l).hostErr = s.hostErr := rfl
@[simp] theorem State.setLaunch_hostWrites (s : State) (n : Nat) (l : Launch) : (s.setLaunch n l).hostWrites = s.hostWrites := rfl
@[simp] theorem State.setLaunch_hostReply (s : State) (n : Nat) (l : Launch) : (s.setLaunch n l).hostReply = s.hostReply := rfl
@[simp] theorem State.setLaunch_msix (s : State) (n : Nat) (l : Launch) : (s.setLaunch n l).msix = s.msix := rfl
@[simp] theorem State.setLaunch_regs (s : State) (n : Nat) (l : Launch) : (s.setLaunch n l).regs = s.regs := rfl
@[simp] theorem State.setLaunch_drip (s : State) (n : Nat) (l : Launch) : (s.setLaunch n l).drip = s.drip := rfl
@[simp] theorem State.setLaunch_mel (s : State) (n : Nat) (l : Launch) : (s.setLaunch n l).mel = s.mel := rfl
@[simp] theorem State.setLaunch_keys (s : State) (n : Nat) (l : Launch) : (s.setLaunch n l).keys = s.keys := rfl
@[simp] theorem State.setLaunch_pairs (s : State) (n : Nat) (l : Launch) : (s.setLaunch n l).pairs = s.pairs := rfl
@[simp] theorem State.setLaunch_exports (s : State) (n : Nat) (l : Launch) : (s.setLaunch n l).exports = s.exports := rfl
@[simp] theorem State.setLaunch_mig (s : State) (n : Nat) (l : Launch) : (s.setLaunch n l).mig = s.mig := rfl
@[simp] theorem State.setLaunch_migWait (s : State) (n : Nat) (l : Launch) : (s.setLaunch n l).migWait = s.migWait := rfl
@[simp] theorem State.setLaunch_migDone (s : State) (n : Nat) (l : Launch) : (s.setLaunch n l).migDone = s.migDone := rfl
@[simp] theorem State.setLaunch_cxl (s : State) (n : Nat) (l : Launch) : (s.setLaunch n l).cxl = s.cxl := rfl
@[simp] theorem State.setLaunch_cxlDown (s : State) (n : Nat) (l : Launch) : (s.setLaunch n l).cxlDown = s.cxlDown := rfl
@[simp] theorem State.setLaunch_termDone (s : State) (n : Nat) (l : Launch) : (s.setLaunch n l).termDone = s.termDone := rfl
@[simp] theorem State.setLaunch_cnresDone (s : State) (n : Nat) (l : Launch) : (s.setLaunch n l).cnresDone = s.cnresDone := rfl
@[simp] theorem State.setLaunch_mem (s : State) (n : Nat) (l : Launch) : (s.setLaunch n l).mem = s.mem := rfl
@[simp] theorem State.setLaunch_poison (s : State) (n : Nat) (l : Launch) : (s.setLaunch n l).poison = s.poison := rfl
@[simp] theorem State.setLaunch_seals (s : State) (n : Nat) (l : Launch) : (s.setLaunch n l).seals = s.seals := rfl
@[simp] theorem State.setLaunch_tagFails (s : State) (n : Nat) (l : Launch) : (s.setLaunch n l).tagFails = s.tagFails := rfl
@[simp] theorem State.setLaunch_scratch (s : State) (n : Nat) (l : Launch) : (s.setLaunch n l).scratch = s.scratch := rfl
@[simp] theorem State.setLaunch_scrPoison (s : State) (n : Nat) (l : Launch) : (s.setLaunch n l).scrPoison = s.scrPoison := rfl
@[simp] theorem State.setLaunch_lines (s : State) (n : Nat) (l : Launch) : (s.setLaunch n l).lines = s.lines := rfl
@[simp] theorem State.setLaunch_wire (s : State) (n : Nat) (l : Launch) : (s.setLaunch n l).wire = s.wire := rfl
@[simp] theorem State.setLaunch_links (s : State) (n : Nat) (l : Launch) : (s.setLaunch n l).links = s.links := rfl
@[simp] theorem State.setLaunch_arrived (s : State) (n : Nat) (l : Launch) : (s.setLaunch n l).arrived = s.arrived := rfl
@[simp] theorem State.setLaunch_bridgeDown (s : State) (n : Nat) (l : Launch) : (s.setLaunch n l).bridgeDown = s.bridgeDown := rfl
@[simp] theorem State.setLaunch_tlbDie (s : State) (n : Nat) (l : Launch) : (s.setLaunch n l).tlbDie = s.tlbDie := rfl
@[simp] theorem State.setLaunch_misses (s : State) (n : Nat) (l : Launch) : (s.setLaunch n l).misses = s.misses := rfl
@[simp] theorem State.setLaunch_pfaults (s : State) (n : Nat) (l : Launch) : (s.setLaunch n l).pfaults = s.pfaults := rfl
@[simp] theorem State.setLaunch_xlfail (s : State) (n : Nat) (l : Launch) : (s.setLaunch n l).xlfail = s.xlfail := rfl
@[simp] theorem State.setLaunch_owed (s : State) (n : Nat) (l : Launch) : (s.setLaunch n l).owed = s.owed := rfl
@[simp] theorem State.setLaunch_invs (s : State) (n : Nat) (l : Launch) : (s.setLaunch n l).invs = s.invs := rfl
@[simp] theorem State.setLaunch_ctxs (s : State) (n : Nat) (l : Launch) : (s.setLaunch n l).ctxs = s.ctxs := rfl
@[simp] theorem State.setLaunch_queues (s : State) (n : Nat) (l : Launch) : (s.setLaunch n l).queues = s.queues := rfl
@[simp] theorem State.setLaunch_qpushes (s : State) (n : Nat) (l : Launch) : (s.setLaunch n l).qpushes = s.qpushes := rfl
@[simp] theorem State.setLaunch_launches (s : State) (n : Nat) (l : Launch) : (s.setLaunch n l).launches = s.launches.put n l := rfl
@[simp] theorem State.setLaunch_graphs (s : State) (n : Nat) (l : Launch) : (s.setLaunch n l).graphs = s.graphs := rfl
@[simp] theorem State.setLaunch_phases (s : State) (n : Nat) (l : Launch) : (s.setLaunch n l).phases = s.phases := rfl
@[simp] theorem State.setLaunch_taskQ (s : State) (n : Nat) (l : Launch) : (s.setLaunch n l).taskQ = s.taskQ := rfl
@[simp] theorem State.setLaunch_taskRun (s : State) (n : Nat) (l : Launch) : (s.setLaunch n l).taskRun = s.taskRun := rfl
@[simp] theorem State.setLaunch_ringHeld (s : State) (n : Nat) (l : Launch) : (s.setLaunch n l).ringHeld = s.ringHeld := rfl
@[simp] theorem State.setLaunch_engines (s : State) (n : Nat) (l : Launch) : (s.setLaunch n l).engines = s.engines := rfl
@[simp] theorem State.setLaunch_cores (s : State) (n : Nat) (l : Launch) : (s.setLaunch n l).cores = s.cores := rfl
@[simp] theorem State.setLaunch_blocks (s : State) (n : Nat) (l : Launch) : (s.setLaunch n l).blocks = s.blocks := rfl
@[simp] theorem State.setLaunch_warps (s : State) (n : Nat) (l : Launch) : (s.setLaunch n l).warps = s.warps := rfl
@[simp] theorem State.setLaunch_domains (s : State) (n : Nat) (l : Launch) : (s.setLaunch n l).domains = s.domains := rfl
@[simp] theorem State.setLaunch_defining (s : State) (n : Nat) (l : Launch) : (s.setLaunch n l).defining = s.defining := rfl
@[simp] theorem State.setLaunch_stoxia (s : State) (n : Nat) (l : Launch) : (s.setLaunch n l).stoxia = s.stoxia := rfl
@[simp] theorem State.setLaunch_peerReqs (s : State) (n : Nat) (l : Launch) : (s.setLaunch n l).peerReqs = s.peerReqs := rfl
@[simp] theorem State.setLaunch_peerHeld (s : State) (n : Nat) (l : Launch) : (s.setLaunch n l).peerHeld = s.peerHeld := rfl
@[simp] theorem State.setLaunch_pxData (s : State) (n : Nat) (l : Launch) : (s.setLaunch n l).pxData = s.pxData := rfl
@[simp] theorem State.setLaunch_podL2 (s : State) (n : Nat) (l : Launch) : (s.setLaunch n l).podL2 = s.podL2 := rfl
@[simp] theorem State.setLaunch_recent (s : State) (n : Nat) (l : Launch) : (s.setLaunch n l).recent = s.recent := rfl
@[simp] theorem State.setLaunch_raced (s : State) (n : Nat) (l : Launch) : (s.setLaunch n l).raced = s.raced := rfl

@[simp] theorem State.setQueue_free (s : State) (n : Nat) (q : Queue) : (s.setQueue n q).free = s.free := rfl
@[simp] theorem State.setQueue_inbox (s : State) (n : Nat) (q : Queue) : (s.setQueue n q).inbox = s.inbox := rfl
@[simp] theorem State.setQueue_agenda (s : State) (n : Nat) (q : Queue) : (s.setQueue n q).agenda = s.agenda := rfl
@[simp] theorem State.setQueue_cur (s : State) (n : Nat) (q : Queue) : (s.setQueue n q).cur = s.cur := rfl
@[simp] theorem State.setQueue_arg (s : State) (n : Nat) (q : Queue) : (s.setQueue n q).arg = s.arg := rfl
@[simp] theorem State.setQueue_ids (s : State) (n : Nat) (q : Queue) : (s.setQueue n q).ids = s.ids := rfl
@[simp] theorem State.setQueue_clock (s : State) (n : Nat) (q : Queue) : (s.setQueue n q).clock = s.clock := rfl
@[simp] theorem State.setQueue_power (s : State) (n : Nat) (q : Queue) : (s.setQueue n q).power = s.power := rfl
@[simp] theorem State.setQueue_idleSince (s : State) (n : Nat) (q : Queue) : (s.setQueue n q).idleSince = s.idleSince := rfl
@[simp] theorem State.setQueue_frzTrig (s : State) (n : Nat) (q : Queue) : (s.setQueue n q).frzTrig = s.frzTrig := rfl
@[simp] theorem State.setQueue_frozen (s : State) (n : Nat) (q : Queue) : (s.setQueue n q).frozen = s.frozen := rfl
@[simp] theorem State.setQueue_boot (s : State) (n : Nat) (q : Queue) : (s.setQueue n q).boot = s.boot := rfl
@[simp] theorem State.setQueue_noFloor (s : State) (n : Nat) (q : Queue) : (s.setQueue n q).noFloor = s.noFloor := rfl
@[simp] theorem State.setQueue_svnFloor (s : State) (n : Nat) (q : Queue) : (s.setQueue n q).svnFloor = s.svnFloor := rfl
@[simp] theorem State.setQueue_opPoint (s : State) (n : Nat) (q : Queue) : (s.setQueue n q).opPoint = s.opPoint := rfl
@[simp] theorem State.setQueue_opHold (s : State) (n : Nat) (q : Queue) : (s.setQueue n q).opHold = s.opHold := rfl
@[simp] theorem State.setQueue_pwrLimit (s : State) (n : Nat) (q : Queue) : (s.setQueue n q).pwrLimit = s.pwrLimit := rfl
@[simp] theorem State.setQueue_frzCtl (s : State) (n : Nat) (q : Queue) : (s.setQueue n q).frzCtl = s.frzCtl := rfl
@[simp] theorem State.setQueue_plcRetired (s : State) (n : Nat) (q : Queue) : (s.setQueue n q).plcRetired = s.plcRetired := rfl
@[simp] theorem State.setQueue_l2ret (s : State) (n : Nat) (q : Queue) : (s.setQueue n q).l2ret = s.l2ret := rfl
@[simp] theorem State.setQueue_clret (s : State) (n : Nat) (q : Queue) : (s.setQueue n q).clret = s.clret := rfl
@[simp] theorem State.setQueue_l2retDone (s : State) (n : Nat) (q : Queue) : (s.setQueue n q).l2retDone = s.l2retDone := rfl
@[simp] theorem State.setQueue_l2pend (s : State) (n : Nat) (q : Queue) : (s.setQueue n q).l2pend = s.l2pend := rfl
@[simp] theorem State.setQueue_l2full (s : State) (n : Nat) (q : Queue) : (s.setQueue n q).l2full = s.l2full := rfl
@[simp] theorem State.setQueue_hostBase (s : State) (n : Nat) (q : Queue) : (s.setQueue n q).hostBase = s.hostBase := rfl
@[simp] theorem State.setQueue_hostErr (s : State) (n : Nat) (q : Queue) : (s.setQueue n q).hostErr = s.hostErr := rfl
@[simp] theorem State.setQueue_hostWrites (s : State) (n : Nat) (q : Queue) : (s.setQueue n q).hostWrites = s.hostWrites := rfl
@[simp] theorem State.setQueue_hostReply (s : State) (n : Nat) (q : Queue) : (s.setQueue n q).hostReply = s.hostReply := rfl
@[simp] theorem State.setQueue_msix (s : State) (n : Nat) (q : Queue) : (s.setQueue n q).msix = s.msix := rfl
@[simp] theorem State.setQueue_regs (s : State) (n : Nat) (q : Queue) : (s.setQueue n q).regs = s.regs := rfl
@[simp] theorem State.setQueue_drip (s : State) (n : Nat) (q : Queue) : (s.setQueue n q).drip = s.drip := rfl
@[simp] theorem State.setQueue_mel (s : State) (n : Nat) (q : Queue) : (s.setQueue n q).mel = s.mel := rfl
@[simp] theorem State.setQueue_keys (s : State) (n : Nat) (q : Queue) : (s.setQueue n q).keys = s.keys := rfl
@[simp] theorem State.setQueue_pairs (s : State) (n : Nat) (q : Queue) : (s.setQueue n q).pairs = s.pairs := rfl
@[simp] theorem State.setQueue_exports (s : State) (n : Nat) (q : Queue) : (s.setQueue n q).exports = s.exports := rfl
@[simp] theorem State.setQueue_mig (s : State) (n : Nat) (q : Queue) : (s.setQueue n q).mig = s.mig := rfl
@[simp] theorem State.setQueue_migWait (s : State) (n : Nat) (q : Queue) : (s.setQueue n q).migWait = s.migWait := rfl
@[simp] theorem State.setQueue_migDone (s : State) (n : Nat) (q : Queue) : (s.setQueue n q).migDone = s.migDone := rfl
@[simp] theorem State.setQueue_cxl (s : State) (n : Nat) (q : Queue) : (s.setQueue n q).cxl = s.cxl := rfl
@[simp] theorem State.setQueue_cxlDown (s : State) (n : Nat) (q : Queue) : (s.setQueue n q).cxlDown = s.cxlDown := rfl
@[simp] theorem State.setQueue_termDone (s : State) (n : Nat) (q : Queue) : (s.setQueue n q).termDone = s.termDone := rfl
@[simp] theorem State.setQueue_cnresDone (s : State) (n : Nat) (q : Queue) : (s.setQueue n q).cnresDone = s.cnresDone := rfl
@[simp] theorem State.setQueue_mem (s : State) (n : Nat) (q : Queue) : (s.setQueue n q).mem = s.mem := rfl
@[simp] theorem State.setQueue_poison (s : State) (n : Nat) (q : Queue) : (s.setQueue n q).poison = s.poison := rfl
@[simp] theorem State.setQueue_seals (s : State) (n : Nat) (q : Queue) : (s.setQueue n q).seals = s.seals := rfl
@[simp] theorem State.setQueue_tagFails (s : State) (n : Nat) (q : Queue) : (s.setQueue n q).tagFails = s.tagFails := rfl
@[simp] theorem State.setQueue_scratch (s : State) (n : Nat) (q : Queue) : (s.setQueue n q).scratch = s.scratch := rfl
@[simp] theorem State.setQueue_scrPoison (s : State) (n : Nat) (q : Queue) : (s.setQueue n q).scrPoison = s.scrPoison := rfl
@[simp] theorem State.setQueue_lines (s : State) (n : Nat) (q : Queue) : (s.setQueue n q).lines = s.lines := rfl
@[simp] theorem State.setQueue_wire (s : State) (n : Nat) (q : Queue) : (s.setQueue n q).wire = s.wire := rfl
@[simp] theorem State.setQueue_links (s : State) (n : Nat) (q : Queue) : (s.setQueue n q).links = s.links := rfl
@[simp] theorem State.setQueue_arrived (s : State) (n : Nat) (q : Queue) : (s.setQueue n q).arrived = s.arrived := rfl
@[simp] theorem State.setQueue_bridgeDown (s : State) (n : Nat) (q : Queue) : (s.setQueue n q).bridgeDown = s.bridgeDown := rfl
@[simp] theorem State.setQueue_tlbDie (s : State) (n : Nat) (q : Queue) : (s.setQueue n q).tlbDie = s.tlbDie := rfl
@[simp] theorem State.setQueue_misses (s : State) (n : Nat) (q : Queue) : (s.setQueue n q).misses = s.misses := rfl
@[simp] theorem State.setQueue_pfaults (s : State) (n : Nat) (q : Queue) : (s.setQueue n q).pfaults = s.pfaults := rfl
@[simp] theorem State.setQueue_xlfail (s : State) (n : Nat) (q : Queue) : (s.setQueue n q).xlfail = s.xlfail := rfl
@[simp] theorem State.setQueue_owed (s : State) (n : Nat) (q : Queue) : (s.setQueue n q).owed = s.owed := rfl
@[simp] theorem State.setQueue_invs (s : State) (n : Nat) (q : Queue) : (s.setQueue n q).invs = s.invs := rfl
@[simp] theorem State.setQueue_ctxs (s : State) (n : Nat) (q : Queue) : (s.setQueue n q).ctxs = s.ctxs := rfl
@[simp] theorem State.setQueue_queues (s : State) (n : Nat) (q : Queue) : (s.setQueue n q).queues = s.queues.put n q := rfl
@[simp] theorem State.setQueue_qpushes (s : State) (n : Nat) (q : Queue) : (s.setQueue n q).qpushes = s.qpushes := rfl
@[simp] theorem State.setQueue_launches (s : State) (n : Nat) (q : Queue) : (s.setQueue n q).launches = s.launches := rfl
@[simp] theorem State.setQueue_graphs (s : State) (n : Nat) (q : Queue) : (s.setQueue n q).graphs = s.graphs := rfl
@[simp] theorem State.setQueue_phases (s : State) (n : Nat) (q : Queue) : (s.setQueue n q).phases = s.phases := rfl
@[simp] theorem State.setQueue_taskQ (s : State) (n : Nat) (q : Queue) : (s.setQueue n q).taskQ = s.taskQ := rfl
@[simp] theorem State.setQueue_taskRun (s : State) (n : Nat) (q : Queue) : (s.setQueue n q).taskRun = s.taskRun := rfl
@[simp] theorem State.setQueue_ringHeld (s : State) (n : Nat) (q : Queue) : (s.setQueue n q).ringHeld = s.ringHeld := rfl
@[simp] theorem State.setQueue_engines (s : State) (n : Nat) (q : Queue) : (s.setQueue n q).engines = s.engines := rfl
@[simp] theorem State.setQueue_cores (s : State) (n : Nat) (q : Queue) : (s.setQueue n q).cores = s.cores := rfl
@[simp] theorem State.setQueue_blocks (s : State) (n : Nat) (q : Queue) : (s.setQueue n q).blocks = s.blocks := rfl
@[simp] theorem State.setQueue_warps (s : State) (n : Nat) (q : Queue) : (s.setQueue n q).warps = s.warps := rfl
@[simp] theorem State.setQueue_domains (s : State) (n : Nat) (q : Queue) : (s.setQueue n q).domains = s.domains := rfl
@[simp] theorem State.setQueue_defining (s : State) (n : Nat) (q : Queue) : (s.setQueue n q).defining = s.defining := rfl
@[simp] theorem State.setQueue_stoxia (s : State) (n : Nat) (q : Queue) : (s.setQueue n q).stoxia = s.stoxia := rfl
@[simp] theorem State.setQueue_peerReqs (s : State) (n : Nat) (q : Queue) : (s.setQueue n q).peerReqs = s.peerReqs := rfl
@[simp] theorem State.setQueue_peerHeld (s : State) (n : Nat) (q : Queue) : (s.setQueue n q).peerHeld = s.peerHeld := rfl
@[simp] theorem State.setQueue_pxData (s : State) (n : Nat) (q : Queue) : (s.setQueue n q).pxData = s.pxData := rfl
@[simp] theorem State.setQueue_podL2 (s : State) (n : Nat) (q : Queue) : (s.setQueue n q).podL2 = s.podL2 := rfl
@[simp] theorem State.setQueue_recent (s : State) (n : Nat) (q : Queue) : (s.setQueue n q).recent = s.recent := rfl
@[simp] theorem State.setQueue_raced (s : State) (n : Nat) (q : Queue) : (s.setQueue n q).raced = s.raced := rfl

@[simp] theorem State.setLine_free (s : State) (n : Nat) (l : DirLine) : (s.setLine n l).free = s.free := rfl
@[simp] theorem State.setLine_inbox (s : State) (n : Nat) (l : DirLine) : (s.setLine n l).inbox = s.inbox := rfl
@[simp] theorem State.setLine_agenda (s : State) (n : Nat) (l : DirLine) : (s.setLine n l).agenda = s.agenda := rfl
@[simp] theorem State.setLine_cur (s : State) (n : Nat) (l : DirLine) : (s.setLine n l).cur = s.cur := rfl
@[simp] theorem State.setLine_arg (s : State) (n : Nat) (l : DirLine) : (s.setLine n l).arg = s.arg := rfl
@[simp] theorem State.setLine_ids (s : State) (n : Nat) (l : DirLine) : (s.setLine n l).ids = s.ids := rfl
@[simp] theorem State.setLine_clock (s : State) (n : Nat) (l : DirLine) : (s.setLine n l).clock = s.clock := rfl
@[simp] theorem State.setLine_power (s : State) (n : Nat) (l : DirLine) : (s.setLine n l).power = s.power := rfl
@[simp] theorem State.setLine_idleSince (s : State) (n : Nat) (l : DirLine) : (s.setLine n l).idleSince = s.idleSince := rfl
@[simp] theorem State.setLine_frzTrig (s : State) (n : Nat) (l : DirLine) : (s.setLine n l).frzTrig = s.frzTrig := rfl
@[simp] theorem State.setLine_frozen (s : State) (n : Nat) (l : DirLine) : (s.setLine n l).frozen = s.frozen := rfl
@[simp] theorem State.setLine_boot (s : State) (n : Nat) (l : DirLine) : (s.setLine n l).boot = s.boot := rfl
@[simp] theorem State.setLine_noFloor (s : State) (n : Nat) (l : DirLine) : (s.setLine n l).noFloor = s.noFloor := rfl
@[simp] theorem State.setLine_svnFloor (s : State) (n : Nat) (l : DirLine) : (s.setLine n l).svnFloor = s.svnFloor := rfl
@[simp] theorem State.setLine_opPoint (s : State) (n : Nat) (l : DirLine) : (s.setLine n l).opPoint = s.opPoint := rfl
@[simp] theorem State.setLine_opHold (s : State) (n : Nat) (l : DirLine) : (s.setLine n l).opHold = s.opHold := rfl
@[simp] theorem State.setLine_pwrLimit (s : State) (n : Nat) (l : DirLine) : (s.setLine n l).pwrLimit = s.pwrLimit := rfl
@[simp] theorem State.setLine_frzCtl (s : State) (n : Nat) (l : DirLine) : (s.setLine n l).frzCtl = s.frzCtl := rfl
@[simp] theorem State.setLine_plcRetired (s : State) (n : Nat) (l : DirLine) : (s.setLine n l).plcRetired = s.plcRetired := rfl
@[simp] theorem State.setLine_l2ret (s : State) (n : Nat) (l : DirLine) : (s.setLine n l).l2ret = s.l2ret := rfl
@[simp] theorem State.setLine_clret (s : State) (n : Nat) (l : DirLine) : (s.setLine n l).clret = s.clret := rfl
@[simp] theorem State.setLine_l2retDone (s : State) (n : Nat) (l : DirLine) : (s.setLine n l).l2retDone = s.l2retDone := rfl
@[simp] theorem State.setLine_l2pend (s : State) (n : Nat) (l : DirLine) : (s.setLine n l).l2pend = s.l2pend := rfl
@[simp] theorem State.setLine_l2full (s : State) (n : Nat) (l : DirLine) : (s.setLine n l).l2full = s.l2full := rfl
@[simp] theorem State.setLine_hostBase (s : State) (n : Nat) (l : DirLine) : (s.setLine n l).hostBase = s.hostBase := rfl
@[simp] theorem State.setLine_hostErr (s : State) (n : Nat) (l : DirLine) : (s.setLine n l).hostErr = s.hostErr := rfl
@[simp] theorem State.setLine_hostWrites (s : State) (n : Nat) (l : DirLine) : (s.setLine n l).hostWrites = s.hostWrites := rfl
@[simp] theorem State.setLine_hostReply (s : State) (n : Nat) (l : DirLine) : (s.setLine n l).hostReply = s.hostReply := rfl
@[simp] theorem State.setLine_msix (s : State) (n : Nat) (l : DirLine) : (s.setLine n l).msix = s.msix := rfl
@[simp] theorem State.setLine_regs (s : State) (n : Nat) (l : DirLine) : (s.setLine n l).regs = s.regs := rfl
@[simp] theorem State.setLine_drip (s : State) (n : Nat) (l : DirLine) : (s.setLine n l).drip = s.drip := rfl
@[simp] theorem State.setLine_mel (s : State) (n : Nat) (l : DirLine) : (s.setLine n l).mel = s.mel := rfl
@[simp] theorem State.setLine_keys (s : State) (n : Nat) (l : DirLine) : (s.setLine n l).keys = s.keys := rfl
@[simp] theorem State.setLine_pairs (s : State) (n : Nat) (l : DirLine) : (s.setLine n l).pairs = s.pairs := rfl
@[simp] theorem State.setLine_exports (s : State) (n : Nat) (l : DirLine) : (s.setLine n l).exports = s.exports := rfl
@[simp] theorem State.setLine_mig (s : State) (n : Nat) (l : DirLine) : (s.setLine n l).mig = s.mig := rfl
@[simp] theorem State.setLine_migWait (s : State) (n : Nat) (l : DirLine) : (s.setLine n l).migWait = s.migWait := rfl
@[simp] theorem State.setLine_migDone (s : State) (n : Nat) (l : DirLine) : (s.setLine n l).migDone = s.migDone := rfl
@[simp] theorem State.setLine_cxl (s : State) (n : Nat) (l : DirLine) : (s.setLine n l).cxl = s.cxl := rfl
@[simp] theorem State.setLine_cxlDown (s : State) (n : Nat) (l : DirLine) : (s.setLine n l).cxlDown = s.cxlDown := rfl
@[simp] theorem State.setLine_termDone (s : State) (n : Nat) (l : DirLine) : (s.setLine n l).termDone = s.termDone := rfl
@[simp] theorem State.setLine_cnresDone (s : State) (n : Nat) (l : DirLine) : (s.setLine n l).cnresDone = s.cnresDone := rfl
@[simp] theorem State.setLine_mem (s : State) (n : Nat) (l : DirLine) : (s.setLine n l).mem = s.mem := rfl
@[simp] theorem State.setLine_poison (s : State) (n : Nat) (l : DirLine) : (s.setLine n l).poison = s.poison := rfl
@[simp] theorem State.setLine_seals (s : State) (n : Nat) (l : DirLine) : (s.setLine n l).seals = s.seals := rfl
@[simp] theorem State.setLine_tagFails (s : State) (n : Nat) (l : DirLine) : (s.setLine n l).tagFails = s.tagFails := rfl
@[simp] theorem State.setLine_scratch (s : State) (n : Nat) (l : DirLine) : (s.setLine n l).scratch = s.scratch := rfl
@[simp] theorem State.setLine_scrPoison (s : State) (n : Nat) (l : DirLine) : (s.setLine n l).scrPoison = s.scrPoison := rfl
@[simp] theorem State.setLine_lines (s : State) (n : Nat) (l : DirLine) : (s.setLine n l).lines = s.lines.put n { l with late := if l.moving then l.late else [] } := rfl
@[simp] theorem State.setLine_wire (s : State) (n : Nat) (l : DirLine) : (s.setLine n l).wire = s.wire := rfl
@[simp] theorem State.setLine_links (s : State) (n : Nat) (l : DirLine) : (s.setLine n l).links = s.links := rfl
@[simp] theorem State.setLine_arrived (s : State) (n : Nat) (l : DirLine) : (s.setLine n l).arrived = s.arrived := rfl
@[simp] theorem State.setLine_bridgeDown (s : State) (n : Nat) (l : DirLine) : (s.setLine n l).bridgeDown = s.bridgeDown := rfl
@[simp] theorem State.setLine_tlbDie (s : State) (n : Nat) (l : DirLine) : (s.setLine n l).tlbDie = s.tlbDie := rfl
@[simp] theorem State.setLine_misses (s : State) (n : Nat) (l : DirLine) : (s.setLine n l).misses = s.misses := rfl
@[simp] theorem State.setLine_pfaults (s : State) (n : Nat) (l : DirLine) : (s.setLine n l).pfaults = s.pfaults := rfl
@[simp] theorem State.setLine_xlfail (s : State) (n : Nat) (l : DirLine) : (s.setLine n l).xlfail = s.xlfail := rfl
@[simp] theorem State.setLine_owed (s : State) (n : Nat) (l : DirLine) : (s.setLine n l).owed = s.owed := rfl
@[simp] theorem State.setLine_invs (s : State) (n : Nat) (l : DirLine) : (s.setLine n l).invs = s.invs := rfl
@[simp] theorem State.setLine_ctxs (s : State) (n : Nat) (l : DirLine) : (s.setLine n l).ctxs = s.ctxs := rfl
@[simp] theorem State.setLine_queues (s : State) (n : Nat) (l : DirLine) : (s.setLine n l).queues = s.queues := rfl
@[simp] theorem State.setLine_qpushes (s : State) (n : Nat) (l : DirLine) : (s.setLine n l).qpushes = s.qpushes := rfl
@[simp] theorem State.setLine_launches (s : State) (n : Nat) (l : DirLine) : (s.setLine n l).launches = s.launches := rfl
@[simp] theorem State.setLine_graphs (s : State) (n : Nat) (l : DirLine) : (s.setLine n l).graphs = s.graphs := rfl
@[simp] theorem State.setLine_phases (s : State) (n : Nat) (l : DirLine) : (s.setLine n l).phases = s.phases := rfl
@[simp] theorem State.setLine_taskQ (s : State) (n : Nat) (l : DirLine) : (s.setLine n l).taskQ = s.taskQ := rfl
@[simp] theorem State.setLine_taskRun (s : State) (n : Nat) (l : DirLine) : (s.setLine n l).taskRun = s.taskRun := rfl
@[simp] theorem State.setLine_ringHeld (s : State) (n : Nat) (l : DirLine) : (s.setLine n l).ringHeld = s.ringHeld := rfl
@[simp] theorem State.setLine_engines (s : State) (n : Nat) (l : DirLine) : (s.setLine n l).engines = s.engines := rfl
@[simp] theorem State.setLine_cores (s : State) (n : Nat) (l : DirLine) : (s.setLine n l).cores = s.cores := rfl
@[simp] theorem State.setLine_blocks (s : State) (n : Nat) (l : DirLine) : (s.setLine n l).blocks = s.blocks := rfl
@[simp] theorem State.setLine_warps (s : State) (n : Nat) (l : DirLine) : (s.setLine n l).warps = s.warps := rfl
@[simp] theorem State.setLine_domains (s : State) (n : Nat) (l : DirLine) : (s.setLine n l).domains = s.domains := rfl
@[simp] theorem State.setLine_defining (s : State) (n : Nat) (l : DirLine) : (s.setLine n l).defining = s.defining := rfl
@[simp] theorem State.setLine_stoxia (s : State) (n : Nat) (l : DirLine) : (s.setLine n l).stoxia = s.stoxia := rfl
@[simp] theorem State.setLine_peerReqs (s : State) (n : Nat) (l : DirLine) : (s.setLine n l).peerReqs = s.peerReqs := rfl
@[simp] theorem State.setLine_peerHeld (s : State) (n : Nat) (l : DirLine) : (s.setLine n l).peerHeld = s.peerHeld := rfl
@[simp] theorem State.setLine_pxData (s : State) (n : Nat) (l : DirLine) : (s.setLine n l).pxData = s.pxData := rfl
@[simp] theorem State.setLine_podL2 (s : State) (n : Nat) (l : DirLine) : (s.setLine n l).podL2 = s.podL2 := rfl
@[simp] theorem State.setLine_recent (s : State) (n : Nat) (l : DirLine) : (s.setLine n l).recent = s.recent := rfl
@[simp] theorem State.setLine_raced (s : State) (n : Nat) (l : DirLine) : (s.setLine n l).raced = s.raced := rfl

@[simp] theorem State.setEngine_free (s : State) (e : Nat) (l : List StreamRec) : (s.setEngine e l).free = s.free := rfl
@[simp] theorem State.setEngine_inbox (s : State) (e : Nat) (l : List StreamRec) : (s.setEngine e l).inbox = s.inbox := rfl
@[simp] theorem State.setEngine_agenda (s : State) (e : Nat) (l : List StreamRec) : (s.setEngine e l).agenda = s.agenda := rfl
@[simp] theorem State.setEngine_cur (s : State) (e : Nat) (l : List StreamRec) : (s.setEngine e l).cur = s.cur := rfl
@[simp] theorem State.setEngine_arg (s : State) (e : Nat) (l : List StreamRec) : (s.setEngine e l).arg = s.arg := rfl
@[simp] theorem State.setEngine_ids (s : State) (e : Nat) (l : List StreamRec) : (s.setEngine e l).ids = s.ids := rfl
@[simp] theorem State.setEngine_clock (s : State) (e : Nat) (l : List StreamRec) : (s.setEngine e l).clock = s.clock := rfl
@[simp] theorem State.setEngine_power (s : State) (e : Nat) (l : List StreamRec) : (s.setEngine e l).power = s.power := rfl
@[simp] theorem State.setEngine_idleSince (s : State) (e : Nat) (l : List StreamRec) : (s.setEngine e l).idleSince = s.idleSince := rfl
@[simp] theorem State.setEngine_frzTrig (s : State) (e : Nat) (l : List StreamRec) : (s.setEngine e l).frzTrig = s.frzTrig := rfl
@[simp] theorem State.setEngine_frozen (s : State) (e : Nat) (l : List StreamRec) : (s.setEngine e l).frozen = s.frozen := rfl
@[simp] theorem State.setEngine_boot (s : State) (e : Nat) (l : List StreamRec) : (s.setEngine e l).boot = s.boot := rfl
@[simp] theorem State.setEngine_noFloor (s : State) (e : Nat) (l : List StreamRec) : (s.setEngine e l).noFloor = s.noFloor := rfl
@[simp] theorem State.setEngine_svnFloor (s : State) (e : Nat) (l : List StreamRec) : (s.setEngine e l).svnFloor = s.svnFloor := rfl
@[simp] theorem State.setEngine_opPoint (s : State) (e : Nat) (l : List StreamRec) : (s.setEngine e l).opPoint = s.opPoint := rfl
@[simp] theorem State.setEngine_opHold (s : State) (e : Nat) (l : List StreamRec) : (s.setEngine e l).opHold = s.opHold := rfl
@[simp] theorem State.setEngine_pwrLimit (s : State) (e : Nat) (l : List StreamRec) : (s.setEngine e l).pwrLimit = s.pwrLimit := rfl
@[simp] theorem State.setEngine_frzCtl (s : State) (e : Nat) (l : List StreamRec) : (s.setEngine e l).frzCtl = s.frzCtl := rfl
@[simp] theorem State.setEngine_plcRetired (s : State) (e : Nat) (l : List StreamRec) : (s.setEngine e l).plcRetired = s.plcRetired := rfl
@[simp] theorem State.setEngine_l2ret (s : State) (e : Nat) (l : List StreamRec) : (s.setEngine e l).l2ret = s.l2ret := rfl
@[simp] theorem State.setEngine_clret (s : State) (e : Nat) (l : List StreamRec) : (s.setEngine e l).clret = s.clret := rfl
@[simp] theorem State.setEngine_l2retDone (s : State) (e : Nat) (l : List StreamRec) : (s.setEngine e l).l2retDone = s.l2retDone := rfl
@[simp] theorem State.setEngine_l2pend (s : State) (e : Nat) (l : List StreamRec) : (s.setEngine e l).l2pend = s.l2pend := rfl
@[simp] theorem State.setEngine_l2full (s : State) (e : Nat) (l : List StreamRec) : (s.setEngine e l).l2full = s.l2full := rfl
@[simp] theorem State.setEngine_hostBase (s : State) (e : Nat) (l : List StreamRec) : (s.setEngine e l).hostBase = s.hostBase := rfl
@[simp] theorem State.setEngine_hostErr (s : State) (e : Nat) (l : List StreamRec) : (s.setEngine e l).hostErr = s.hostErr := rfl
@[simp] theorem State.setEngine_hostWrites (s : State) (e : Nat) (l : List StreamRec) : (s.setEngine e l).hostWrites = s.hostWrites := rfl
@[simp] theorem State.setEngine_hostReply (s : State) (e : Nat) (l : List StreamRec) : (s.setEngine e l).hostReply = s.hostReply := rfl
@[simp] theorem State.setEngine_msix (s : State) (e : Nat) (l : List StreamRec) : (s.setEngine e l).msix = s.msix := rfl
@[simp] theorem State.setEngine_regs (s : State) (e : Nat) (l : List StreamRec) : (s.setEngine e l).regs = s.regs := rfl
@[simp] theorem State.setEngine_drip (s : State) (e : Nat) (l : List StreamRec) : (s.setEngine e l).drip = s.drip := rfl
@[simp] theorem State.setEngine_mel (s : State) (e : Nat) (l : List StreamRec) : (s.setEngine e l).mel = s.mel := rfl
@[simp] theorem State.setEngine_keys (s : State) (e : Nat) (l : List StreamRec) : (s.setEngine e l).keys = s.keys := rfl
@[simp] theorem State.setEngine_pairs (s : State) (e : Nat) (l : List StreamRec) : (s.setEngine e l).pairs = s.pairs := rfl
@[simp] theorem State.setEngine_exports (s : State) (e : Nat) (l : List StreamRec) : (s.setEngine e l).exports = s.exports := rfl
@[simp] theorem State.setEngine_mig (s : State) (e : Nat) (l : List StreamRec) : (s.setEngine e l).mig = s.mig := rfl
@[simp] theorem State.setEngine_migWait (s : State) (e : Nat) (l : List StreamRec) : (s.setEngine e l).migWait = s.migWait := rfl
@[simp] theorem State.setEngine_migDone (s : State) (e : Nat) (l : List StreamRec) : (s.setEngine e l).migDone = s.migDone := rfl
@[simp] theorem State.setEngine_cxl (s : State) (e : Nat) (l : List StreamRec) : (s.setEngine e l).cxl = s.cxl := rfl
@[simp] theorem State.setEngine_cxlDown (s : State) (e : Nat) (l : List StreamRec) : (s.setEngine e l).cxlDown = s.cxlDown := rfl
@[simp] theorem State.setEngine_termDone (s : State) (e : Nat) (l : List StreamRec) : (s.setEngine e l).termDone = s.termDone := rfl
@[simp] theorem State.setEngine_cnresDone (s : State) (e : Nat) (l : List StreamRec) : (s.setEngine e l).cnresDone = s.cnresDone := rfl
@[simp] theorem State.setEngine_mem (s : State) (e : Nat) (l : List StreamRec) : (s.setEngine e l).mem = s.mem := rfl
@[simp] theorem State.setEngine_poison (s : State) (e : Nat) (l : List StreamRec) : (s.setEngine e l).poison = s.poison := rfl
@[simp] theorem State.setEngine_seals (s : State) (e : Nat) (l : List StreamRec) : (s.setEngine e l).seals = s.seals := rfl
@[simp] theorem State.setEngine_tagFails (s : State) (e : Nat) (l : List StreamRec) : (s.setEngine e l).tagFails = s.tagFails := rfl
@[simp] theorem State.setEngine_scratch (s : State) (e : Nat) (l : List StreamRec) : (s.setEngine e l).scratch = s.scratch := rfl
@[simp] theorem State.setEngine_scrPoison (s : State) (e : Nat) (l : List StreamRec) : (s.setEngine e l).scrPoison = s.scrPoison := rfl
@[simp] theorem State.setEngine_lines (s : State) (e : Nat) (l : List StreamRec) : (s.setEngine e l).lines = s.lines := rfl
@[simp] theorem State.setEngine_wire (s : State) (e : Nat) (l : List StreamRec) : (s.setEngine e l).wire = s.wire := rfl
@[simp] theorem State.setEngine_links (s : State) (e : Nat) (l : List StreamRec) : (s.setEngine e l).links = s.links := rfl
@[simp] theorem State.setEngine_arrived (s : State) (e : Nat) (l : List StreamRec) : (s.setEngine e l).arrived = s.arrived := rfl
@[simp] theorem State.setEngine_bridgeDown (s : State) (e : Nat) (l : List StreamRec) : (s.setEngine e l).bridgeDown = s.bridgeDown := rfl
@[simp] theorem State.setEngine_tlbDie (s : State) (e : Nat) (l : List StreamRec) : (s.setEngine e l).tlbDie = s.tlbDie := rfl
@[simp] theorem State.setEngine_misses (s : State) (e : Nat) (l : List StreamRec) : (s.setEngine e l).misses = s.misses := rfl
@[simp] theorem State.setEngine_pfaults (s : State) (e : Nat) (l : List StreamRec) : (s.setEngine e l).pfaults = s.pfaults := rfl
@[simp] theorem State.setEngine_xlfail (s : State) (e : Nat) (l : List StreamRec) : (s.setEngine e l).xlfail = s.xlfail := rfl
@[simp] theorem State.setEngine_owed (s : State) (e : Nat) (l : List StreamRec) : (s.setEngine e l).owed = s.owed := rfl
@[simp] theorem State.setEngine_invs (s : State) (e : Nat) (l : List StreamRec) : (s.setEngine e l).invs = s.invs := rfl
@[simp] theorem State.setEngine_ctxs (s : State) (e : Nat) (l : List StreamRec) : (s.setEngine e l).ctxs = s.ctxs := rfl
@[simp] theorem State.setEngine_queues (s : State) (e : Nat) (l : List StreamRec) : (s.setEngine e l).queues = s.queues := rfl
@[simp] theorem State.setEngine_qpushes (s : State) (e : Nat) (l : List StreamRec) : (s.setEngine e l).qpushes = s.qpushes := rfl
@[simp] theorem State.setEngine_launches (s : State) (e : Nat) (l : List StreamRec) : (s.setEngine e l).launches = s.launches := rfl
@[simp] theorem State.setEngine_graphs (s : State) (e : Nat) (l : List StreamRec) : (s.setEngine e l).graphs = s.graphs := rfl
@[simp] theorem State.setEngine_phases (s : State) (e : Nat) (l : List StreamRec) : (s.setEngine e l).phases = s.phases := rfl
@[simp] theorem State.setEngine_taskQ (s : State) (e : Nat) (l : List StreamRec) : (s.setEngine e l).taskQ = s.taskQ := rfl
@[simp] theorem State.setEngine_taskRun (s : State) (e : Nat) (l : List StreamRec) : (s.setEngine e l).taskRun = s.taskRun := rfl
@[simp] theorem State.setEngine_ringHeld (s : State) (e : Nat) (l : List StreamRec) : (s.setEngine e l).ringHeld = s.ringHeld := rfl
@[simp] theorem State.setEngine_engines (s : State) (e : Nat) (l : List StreamRec) : (s.setEngine e l).engines = s.engines.put e l := rfl
@[simp] theorem State.setEngine_cores (s : State) (e : Nat) (l : List StreamRec) : (s.setEngine e l).cores = s.cores := rfl
@[simp] theorem State.setEngine_blocks (s : State) (e : Nat) (l : List StreamRec) : (s.setEngine e l).blocks = s.blocks := rfl
@[simp] theorem State.setEngine_warps (s : State) (e : Nat) (l : List StreamRec) : (s.setEngine e l).warps = s.warps := rfl
@[simp] theorem State.setEngine_domains (s : State) (e : Nat) (l : List StreamRec) : (s.setEngine e l).domains = s.domains := rfl
@[simp] theorem State.setEngine_defining (s : State) (e : Nat) (l : List StreamRec) : (s.setEngine e l).defining = s.defining := rfl
@[simp] theorem State.setEngine_stoxia (s : State) (e : Nat) (l : List StreamRec) : (s.setEngine e l).stoxia = s.stoxia := rfl
@[simp] theorem State.setEngine_peerReqs (s : State) (e : Nat) (l : List StreamRec) : (s.setEngine e l).peerReqs = s.peerReqs := rfl
@[simp] theorem State.setEngine_peerHeld (s : State) (e : Nat) (l : List StreamRec) : (s.setEngine e l).peerHeld = s.peerHeld := rfl
@[simp] theorem State.setEngine_pxData (s : State) (e : Nat) (l : List StreamRec) : (s.setEngine e l).pxData = s.pxData := rfl
@[simp] theorem State.setEngine_podL2 (s : State) (e : Nat) (l : List StreamRec) : (s.setEngine e l).podL2 = s.podL2 := rfl
@[simp] theorem State.setEngine_recent (s : State) (e : Nat) (l : List StreamRec) : (s.setEngine e l).recent = s.recent := rfl
@[simp] theorem State.setEngine_raced (s : State) (e : Nat) (l : List StreamRec) : (s.setEngine e l).raced = s.raced := rfl

end Sys2Proof.Machine
end

