-- ==== Sys2Proof/Laws/Store.lean ====
section
/-! SUPPORT. Reading after writing in keyed lists and in memory, and the canonical form of memory, which every memory operation keeps. -/
namespace Sys2Proof.Machine
open Sys2Proof

/-! Keyed lists. -/

@[simp] theorem Assoc.find_put_same {α : Type} (m : Assoc α) (n : Nat) (x : α) : (m.put n x).find n = some x := by
  induction m with
  | nil => simp [Assoc.put, Assoc.find]
  | cons e t ih =>
    obtain ⟨k, v⟩ := e
    simp only [Assoc.put]
    split
    · simp [Assoc.find]
    · split
      · simp [Assoc.find]
      · rw [Assoc.find, if_neg (by omega), ih]

theorem Assoc.find_put_other {α : Type} (m : Assoc α) (n i : Nat) (x : α) (h : n ≠ i) : (m.put n x).find i = m.find i := by
  induction m with
  | nil => simp [Assoc.put, Assoc.find, h]
  | cons e t ih =>
    obtain ⟨k, v⟩ := e
    simp only [Assoc.put]
    split
    · rw [Assoc.find, if_neg h]
    · split
      · rename_i h1 h2
        rw [Assoc.find, if_neg h, Assoc.find, if_neg (by omega)]
      · simp only [Assoc.find, ih]

@[simp] theorem Assoc.getD_put_same {α : Type} (m : Assoc α) (n : Nat) (x d : α) : (m.put n x).getD n d = x := by
  simp [Assoc.getD]

theorem Assoc.getD_put_other {α : Type} (m : Assoc α) (n i : Nat) (x d : α) (h : n ≠ i) : (m.put n x).getD i d = m.getD i d := by
  simp [Assoc.getD, Assoc.find_put_other m n i x h]

theorem Assoc.find_del_other {α : Type} (m : Assoc α) (n i : Nat) (h : n ≠ i) : (m.del n).find i = m.find i := by
  induction m with
  | nil => rfl
  | cons e t ih =>
    obtain ⟨k, v⟩ := e
    simp only [Assoc.del]
    split
    · rw [ih, Assoc.find, if_neg (by omega)]
    · simp only [Assoc.find, ih]

@[simp] theorem Assoc.find_del_same {α : Type} (m : Assoc α) (n : Nat) : (m.del n).find n = none := by
  induction m with
  | nil => rfl
  | cons e t ih =>
    obtain ⟨k, v⟩ := e
    simp only [Assoc.del]
    split
    · exact ih
    · rename_i h; rw [Assoc.find, if_neg h, ih]

/-! Memory. -/

/-- The canonical form of a longer list: its head is listed below the rest, and its rest is canonical. -/
theorem Memory.wf_cons (k : Nat) (v : Byte) (t : List Host.Cell) :
    Memory.wf ((k, v) :: t) = true ↔ v ≠ Memory.unlisted ∧ (∀ e, t.head? = some e → k < e.1) ∧ Memory.wf t = true := by
  cases t with
  | nil => simp [Memory.wf]
  | cons e t => obtain ⟨k', v'⟩ := e; simp only [Memory.wf]; simp [and_assoc]

/-- In a canonical list every address after the head lies above it. -/
theorem Memory.wf_above (t : List Host.Cell) : ∀ (k : Nat) (v : Byte), Memory.wf ((k, v) :: t) = true → ∀ e ∈ t, k < e.1 := by
  induction t with
  | nil => simp
  | cons e t ih =>
    intro k v h x hx
    obtain ⟨k', v'⟩ := e
    rw [Memory.wf_cons] at h
    have h1 := h.2.1 (k', v') rfl
    rcases List.mem_cons.mp hx with rfl | hx
    · exact h1
    · have := ih k' v' h.2.2 x hx; simp at h1; omega

theorem Memory.read_above (t : List Host.Cell) (a : Nat) (h : ∀ e ∈ t, a < e.1) : Memory.read t a = Memory.unlisted := by
  induction t with
  | nil => rfl
  | cons e t ih =>
    obtain ⟨k, v⟩ := e
    have hk := h (k, v) (by simp)
    rw [Memory.read, if_neg (by simp at hk; omega), ih (fun e he => h e (by simp [he]))]

theorem Memory.head_erase (m : List Host.Cell) (a k : Nat) (h : ∀ e ∈ m, k < e.1) :
    ∀ e, (Memory.erase m a).head? = some e → k < e.1 := by
  have hm : ∀ m : List Host.Cell, ∀ e ∈ Memory.erase m a, e ∈ m := by
    intro m; induction m with
    | nil => simp [Memory.erase]
    | cons x t ih =>
      obtain ⟨k', v'⟩ := x
      intro e he
      simp only [Memory.erase] at he
      split at he
      · exact List.mem_cons_of_mem _ he
      · rcases List.mem_cons.mp he with rfl | he
        · simp
        · exact List.mem_cons_of_mem _ (ih e he)
  intro e he
  exact h e (hm m e (List.mem_of_head? he))

theorem Memory.wf_erase (m : List Host.Cell) (a : Nat) (h : Memory.wf m = true) : Memory.wf (Memory.erase m a) = true := by
  induction m with
  | nil => rfl
  | cons e t ih =>
    obtain ⟨k, v⟩ := e
    have hab := Memory.wf_above t k v h
    rw [Memory.wf_cons] at h
    simp only [Memory.erase]
    split
    · exact h.2.2
    · exact (Memory.wf_cons _ _ _).2 ⟨h.1, Memory.head_erase t a k hab, ih h.2.2⟩

theorem Memory.wf_insert (m : List Host.Cell) (a : Nat) (b : Byte) (hb : b ≠ Memory.unlisted) (h : Memory.wf m = true) :
    Memory.wf (Memory.insert m a b) = true := by
  induction m with
  | nil => simp [Memory.insert, Memory.wf, hb]
  | cons e t ih =>
    obtain ⟨k, v⟩ := e
    simp only [Memory.insert]
    split
    · rename_i hlt
      exact (Memory.wf_cons _ _ _).2 ⟨hb, by simp [hlt], h⟩
    · rw [Memory.wf_cons] at h
      split
      · rename_i he; subst he
        exact (Memory.wf_cons _ _ _).2 ⟨hb, h.2⟩
      · refine (Memory.wf_cons _ _ _).2 ⟨h.1, ?_, ih h.2.2⟩
        rename_i h1 h2
        intro x hx
        cases t with
        | nil => simp [Memory.insert] at hx; subst hx; simp; omega
        | cons y t =>
          obtain ⟨k', v'⟩ := y
          have hk := h.2.1 (k', v') rfl
          simp only [Memory.insert] at hx
          split at hx
          · simp at hx; subst hx; simp; omega
          · split at hx
            · simp at hx; subst hx; simp; omega
            · simp at hx; subst hx; exact hk

/-- A write keeps the canonical form. -/
theorem Memory.wf_write (m : List Host.Cell) (a : Nat) (b : Byte) (h : Memory.wf m = true) : Memory.wf (Memory.write m a b) = true := by
  unfold Memory.write
  split
  · exact Memory.wf_erase m a h
  · exact Memory.wf_insert m a b ‹_› h

theorem Memory.wf_writeAll (bs : List Byte) : ∀ (m : List Host.Cell) (a : Nat), Memory.wf m = true → Memory.wf (Memory.writeAll m a bs) = true := by
  induction bs with
  | nil => intro m a h; exact h
  | cons b t ih => intro m a h; exact ih _ _ (Memory.wf_write m a b h)

theorem Memory.read_erase_other (m : List Host.Cell) (a i : Nat) (h : a ≠ i) : Memory.read (Memory.erase m a) i = Memory.read m i := by
  induction m with
  | nil => rfl
  | cons e t ih =>
    obtain ⟨k, v⟩ := e
    simp only [Memory.erase]
    split
    · rw [Memory.read, if_neg (by omega)]
    · simp only [Memory.read, ih]

theorem Memory.read_erase_same (m : List Host.Cell) (a : Nat) (h : Memory.wf m = true) : Memory.read (Memory.erase m a) a = Memory.unlisted := by
  induction m with
  | nil => rfl
  | cons e t ih =>
    obtain ⟨k, v⟩ := e
    have hab := Memory.wf_above t k v h
    rw [Memory.wf_cons] at h
    simp only [Memory.erase]
    split
    · rename_i hk; subst hk; exact Memory.read_above t k hab
    · rename_i hk; rw [Memory.read, if_neg hk, ih h.2.2]

theorem Memory.read_insert_same (m : List Host.Cell) (a : Nat) (b : Byte) : Memory.read (Memory.insert m a b) a = b := by
  induction m with
  | nil => simp [Memory.insert, Memory.read]
  | cons e t ih =>
    obtain ⟨k, v⟩ := e
    simp only [Memory.insert]
    split
    · simp [Memory.read]
    · split
      · simp [Memory.read]
      · rw [Memory.read, if_neg (by omega), ih]

theorem Memory.read_insert_other (m : List Host.Cell) (a i : Nat) (b : Byte) (h : a ≠ i) : Memory.read (Memory.insert m a b) i = Memory.read m i := by
  induction m with
  | nil => simp [Memory.insert, Memory.read, h]
  | cons e t ih =>
    obtain ⟨k, v⟩ := e
    simp only [Memory.insert]
    split
    · rw [Memory.read, if_neg h]
    · split
      · rw [Memory.read, if_neg h, Memory.read, if_neg (by omega)]
      · simp only [Memory.read, ih]

/-- A byte written reads as written. -/
theorem Memory.read_write_same (m : List Host.Cell) (a : Nat) (b : Byte) (h : Memory.wf m = true) : Memory.read (Memory.write m a b) a = b := by
  unfold Memory.write
  split
  · rename_i hb; rw [hb]; exact Memory.read_erase_same m a h
  · exact Memory.read_insert_same m a b

/-- A write leaves every other byte alone. -/
theorem Memory.read_write_other (m : List Host.Cell) (a i : Nat) (b : Byte) (h : a ≠ i) : Memory.read (Memory.write m a b) i = Memory.read m i := by
  unfold Memory.write
  split
  · exact Memory.read_erase_other m a i h
  · exact Memory.read_insert_other m a i b h

end Sys2Proof.Machine
end

