-- ==== Sys2Proof/Laws/Steps.lean ====
section
/-! SUPPORT. What a step takes, case by case. -/
namespace Sys2Proof.Machine
open Sys2Proof

theorem step_input {s : State} {i : Instr} {a : Arg} {rest : List (Instr × Arg)} (h : s.inbox = (i, a) :: rest) :
    step s = if a.wf && (encodeWord i).isNone then exec i { s with inbox := rest, cur := .none, arg := a } else .next { s with inbox := rest } := by
  unfold step; split
  · simp_all
  · simp_all

theorem step_frozen {s : State} (h : s.inbox = []) (hf : s.frozen = true) : step s = .fault .frozen := by
  unfold step; split
  · simp_all
  · simp [hf]

theorem step_warp {s : State} {c k : Nat} {rest : List Turn} (h : s.inbox = []) (hf : s.frozen = false) (ha : s.agenda = .warp c k :: rest) :
    step s = match State.turnWarp { s with agenda := rest } c k with
      | .issue i t => exec i t
      | .idle t => .next t := by
  unfold step; split
  · rename_i h'; rw [h] at h'; cases h'
  · rw [if_neg (by simp [hf])]
    split <;> rename_i h' <;> rw [ha] at h' <;> cases h' <;> rfl

theorem step_event {s : State} {i : Instr} {a : Arg} {rest : List Turn} (h : s.inbox = []) (hf : s.frozen = false) (ha : s.agenda = .ev i a :: rest) :
    step s = exec i { s with agenda := rest, cur := .none, arg := a } := by
  unfold step; split
  · rename_i h'; rw [h] at h'; cases h'
  · rw [if_neg (by simp [hf])]
    split <;> rename_i h' <;> rw [ha] at h' <;> cases h' <;> rfl

theorem step_seq {s : State} {c : Nat} {rest : List Turn} (h : s.inbox = []) (hf : s.frozen = false) (ha : s.agenda = .seq c :: rest) :
    step s = exec .sequencerBundleIssue { s with agenda := rest, cur := .none, arg := { core := c } } := by
  unfold step; split
  · rename_i h'; rw [h] at h'; cases h'
  · rw [if_neg (by simp [hf])]
    split <;> rename_i h' <;> rw [ha] at h' <;> cases h' <;> rfl

theorem step_tick {s : State} (h : s.inbox = []) (hf : s.frozen = false) (ha : s.agenda = []) : step s = .next s.tick := by
  unfold step; split
  · rename_i h'; rw [h] at h'; cases h'
  · rw [if_neg (by simp [hf])]
    split <;> rename_i h' <;> rw [ha] at h' <;> cases h' <;> rfl

@[simp] theorem warp_setWarp_same (s : State) (c k : Nat) (w : Warp) : (s.setWarp c k w).warp c k = some w := by
  simp [State.warp, State.setWarp]

end Sys2Proof.Machine
end

