-- ==== Sys2Proof/Laws/System.lean ====
section
/-! SUPPORT. What a word of opcodes 0x100 to 0x16A comes to when the warp runs it once, and an access that every lane reaches. -/
namespace Sys2Proof.Machine
open Sys2Proof

theorem lanesOf_ne_nil {m : Word32} (h : m ≠ 0) : lanesOf m ≠ [] := by
  intro e
  apply h
  apply BitVec.eq_of_getLsbD_eq
  intro i hi
  have h1 : ∀ l ∈ List.range 32, laneBit m l = false := by
    intro l hl
    cases h2 : laneBit m l
    · rfl
    · have : l ∈ lanesOf m := List.mem_filter.mpr ⟨hl, h2⟩
      simp [e] at this
  simpa [laneBit] using h1 i (by simpa using hi)

theorem head_lanesOf {m : Word32} (h : m ≠ 0) : (lanesOf m).head? = some (lowLane m) := by
  cases e : lanesOf m with
  | nil => exact absurd e (lanesOf_ne_nil h)
  | cons a t => simp [lowLane, e]

theorem sysRun_ok {s : State} {c k : Nat} {w : Warp} {g : BitVec 4} (h : s.SysActing c k w g) (body : Nat → WRes) :
    s.sysRun c k w g body = body (lowLane (s.taking c k w g)) := by
  unfold State.sysRun
  rw [prep_ok h.free]
  simp [head_lanesOf h.takes]

theorem fullRun_ok {s : State} {c k : Nat} {w : Warp} {g : BitVec 4} (h : s.SysActing c k w g) (full : w.active = w.live) (body : Nat → WRes) :
    s.fullRun c k w g body = body (lowLane (s.taking c k w g)) := by
  unfold State.fullRun; rw [sysRun_ok h]; simp [full]

theorem sys_next {s : State} {c k : Nat} {w : Warp} {g : BitVec 4} (h : s.SysActing c k w g) (f : Nat → Nat → Warp → WRes) :
    asWarp s f = .next (s.finish c k (f c k w)) := asWarp_next h.acting f

theorem finish_sysResult (s t : State) (c k : Nat) (f : RR) (ws : List (Nat × Word64)) :
    Host.Outcome.next (s.finish c k (t.sysResult c k f ws)) = t.sysDone c k f ws := rfl
theorem finish_ctlResult (s t : State) (c k : Nat) (ws : List (Nat × Word64)) :
    Host.Outcome.next (s.finish c k (t.ctlResult c k ws)) = t.ctlDone c k ws := rfl
theorem finish_again (s t : State) (c k : Nat) (w : Warp) : Host.Outcome.next (s.finish c k (t.again c k w)) = t.sysAgain c k w := rfl

/-- A pending miss, a trap or a fault in no lane: each lane's place is reached. -/
theorem reach_ok (s : State) (c k : Nat) (acc : Acc) (sp : Nat) (as : List LaneAcc) (st : Nat → Store)
    (h : ∀ a ∈ as, a.pre = .ok (st a.lane)) (free : ∀ a ∈ as, s.storeBusy (st a.lane) = false) : s.reach c k acc sp as = .ok (as.map fun a => (a, st a.lane)) := by
  have e : as = as.map fun a => { a with pre := .ok (st a.lane) } := by
    rw [List.map_congr_left (g := id)]
    · simp
    · intro a ha
      cases a
      simp only [id, LaneAcc.mk.injEq, true_and]
      exact (h _ ha).symm
  have trap : ∀ a : LaneAcc, trapOf sp { a with pre := .ok (st a.lane) } = none := fun _ => rfl
  have none1 : ∀ l : List LaneAcc, (l.findSome? fun _ => (none : Option TrapInfo)) = none := fun l => by simp
  rw [e]
  unfold State.reach
  simp only [List.findSome?_map, List.flatMap_map, List.filterMap_map, Function.comp_def, trap, none1, List.map_map]
  have hb : ((as.map fun a => (({ a with pre := .ok (st a.lane) } : LaneAcc), st a.lane)).any fun x => s.storeBusy x.2) = false := by
    simpa [List.any_eq_false] using free
  cases as with
  | nil => simp
  | cons a t =>
    simp only [List.any_map, List.any_cons, Bool.or_eq_false_iff, Function.comp_def] at hb
    have none2 : ∀ (α : Type) (l : List LaneAcc), (l.flatMap fun _ => ([] : List α)) = [] := fun _ l => by simp
    simp only [none2]
    simp [hb.1]
    exact fun x hx => free x (by simp [hx])

/-- A memory word whose operands are the warp's and whose lanes all reach bytes of this package. -/
theorem memRun_ok {s : State} {c k : Nat} {w : Warp} {f : MEM} {acc : Acc} {atomic : Bool} {srcs dsts : List Nat} {st : Nat → Store}
    (h : s.Unhindered c k w { g := f.g, srcs := (baseSrc f.base).toList ++ groupSrcs srcs, dsts := dsts }) (hr : s.Reaches c k w f acc atomic st)
    (perform : List (LaneAcc × Store) → WRes) :
    s.memRun c k w f acc atomic srcs dsts perform =
      perform ((lanesOf (s.taking c k w f.g)).map fun l => (s.laneAcc c k w f acc atomic (MEM.bytes f) l, st l)) := by
  unfold State.memRun
  rw [prep_ok h]
  dsimp only
  have e : (f.ord.getLsbD 1 && s.postedOut c k) = false := by
    cases h1 : f.ord.getLsbD 1
    · rfl
    · rw [hr.released h1]; simp
  rw [e]
  simp only [Bool.false_eq_true, if_false]
  rw [reach_ok s c k acc f.sp.toNat _ st]
  · rw [List.map_map]; rfl
  · intro a ha
    obtain ⟨l, hl, rfl⟩ := List.mem_map.mp ha
    exact hr.met l hl
  · intro a ha
    obtain ⟨l, hl, rfl⟩ := List.mem_map.mp ha
    exact (hr.here l hl).2.2

end Sys2Proof.Machine
end

