-- ==== Sys2Proof/Tests/Slice0.lean ====
section
/-! SUPPORT. Own tests: operands and instructions that are not well-formed; words of the spec's worked examples and words written out from its encodings; results of the spec's worked examples; and, for each statement with hypotheses, states and operands that meet them. -/
namespace Sys2Proof.Tests
open Sys2Proof Sys2Proof.Machine
set_option Elab.async false

/-! Helpers. -/

/-- A next state holds this. -/
def holds (o : Host.Outcome State Fault Refusal) (p : State → Bool) : Bool := match o with
  | .next t => p t
  | _ => false

/-- What the decoder reads, if anything. -/
def reads (w : Word64) : Option Instr := (decodeWarp w).toOption

/-- Eight tiles of context 0 with one holder. -/
def owned (first hold : Nat) : Assoc Tile := (List.range 8).map fun i => (first + i, ({ ctx := 0, hold := hold, st := .owned } : Tile))

/-- Warp 0 of slot 0: 256 v registers, inside a clause. -/
def wp : Warp := { block := 0, idx := 0, pc := 0x10008, clause := some (0x10000, 0xC100000000000000), tmap := (List.range 8).map (· + 8) }

/-- Block 0 of core 0, with a sequencer. -/
def blk : Block := { core := 0, ctx := 0, launch := 0, number := 0, header := 0x6E77000000000030#64, kobj := 0x10000, lpb := 0, param := 0, slots := [0], hasSeq := true, seqTiles := List.range 8 }

/-- Context 0. -/
def cx : Ctx := { root := 0, laneBase := 0, laneSize := 0, fmode := 0 }

/-- Core 0. -/
def co : Core := { tiles := owned 0 48 ++ owned 8 0 }

/-- The package with one warp acting. -/
def st : State := { State.reset with
  power := .active, cur := .warp 0 0, ctxs := [(0, cx)], cores := [(0, co)], blocks := [(0, blk)], warps := [(0, wp)] }

/-- The same with another warp. -/
def withW (w : Warp) : State := { st with warps := [(0, w)] }

/-- A sequencer. -/
def sq : Seq := { block := 0, pc := 0x20000 }

/-- Slot sl of the sequencer acts. -/
def slot (sl : Slot) (q : Seq) : State := { st with cur := .slot 0 sl, cores := [(0, { co with seq := some q })] }

/-- A device step with these operands. -/
def dev (a : Arg) : State := { st with cur := .none, arg := a }

/-- The same with a store to a peer posted and not acknowledged. -/
def outstanding (s : State) : State := { s with ids := 1, peerReqs := [{ id := 0, core := 0, slot := 0, ctx := 0, posted := true, addr := 0, lane := 0, data := 0, size := 4, pkg := 1, die := 0 }] }

/-- Bytes, all alike. -/
def bytes (n : Nat) (b : Byte) : List Byte := List.replicate n b

/-- The operands of a step about a message, a command, a ring, a collective or a migration, at their defaults. -/
def a0 : Arg := {}

/-- The conditions of Unhindered, checked. -/
def unhindered (s : State) (c k : Nat) (w : Warp) (n : Need) : Bool :=
  n.g != 0xF && (!n.sdst || (!w.isRegrouped && uniformGuard w.active (s.taking c k w n.g))) &&
  (s.poisonOf c k w (s.taking c k w n.g) n.srcs == none) && (s.checkV c k w (n.srcs.flatMap Src.vregs ++ n.dsts) == none) &&
  (s.wakeBanks c (s.tilesFor c k w (n.srcs.flatMap Src.vregs ++ n.dsts)) == none)

theorem unhindered_of {s : State} {c k : Nat} {w : Warp} {n : Need} (h : unhindered s c k w n = true) : s.Unhindered c k w n := by
  simp only [unhindered, Bool.and_eq_true, Bool.or_eq_true, bne_iff_ne, beq_iff_eq, Bool.not_eq_true', ne_eq] at h
  obtain ⟨⟨⟨⟨h1, h2⟩, h3⟩, h4⟩, h5⟩ := h
  refine ⟨h1, fun h => ?_, fun h => ?_, h3, h4, h5⟩ <;> rcases h2 with h2 | h2 <;> simp_all

theorem acting (w : Warp) : (withW w).Acting 0 0 w := ⟨rfl, rfl⟩

/-! Well-formedness: a term that each check refuses. -/

theorem test_wf_die : Arg.wf { die := 2 } = false := by decide
theorem test_wf_core : Arg.wf { core := 192 } = false := by decide
theorem test_wf_slot : Arg.wf { slot := 48 } = false := by decide
theorem test_wf_ctx : Arg.wf { ctx := 64 } = false := by decide
theorem test_wf_dom : Arg.wf { dom := 4096 } = false := by decide
theorem test_wf_reg_ctx : Arg.wf { reg := .traph 64 } = false := by decide
theorem test_wf_reg_export : Arg.wf { reg := .exportRange 64 0 } = false := by decide
theorem test_wf_reg_die : Arg.wf { reg := .melBase 2 } = false := by decide
theorem test_wf_reg_drip : Arg.wf { reg := .drip 6 8 } = false := by decide
theorem test_wf_reg_drip_class : Arg.wf { reg := .drip 8 0 } = false := by decide
theorem test_wf_reg_queue : Arg.wf { reg := .queue 4096 .ctx } = false := by decide
theorem test_wf_reg_task : Arg.wf { reg := .taskBind 512 } = false := by decide
theorem test_wf_msg_die : Arg.wf { msg := { a0.msg with die := 2 } } = false := by decide
theorem test_wf_msg_data : Arg.wf { msg := { a0.msg with data := [0] } } = false := by decide
theorem test_wf_msg_line : Arg.wf { msg := { a0.msg with data := bytes 128 0, opa := 1 } } = false := by decide +kernel
theorem test_wf_msg_poison : Arg.wf { msg := { a0.msg with data := bytes 128 0, spois := 4 } } = false := by decide +kernel
theorem test_wf_cmd : Arg.wf { cmd := { a0.cmd with q := 4096 } } = false := by decide
theorem test_wf_ring_ctx : Arg.wf { ring := { a0.ring with ctx := 64 } } = false := by decide
theorem test_wf_ring_warp : Arg.wf { ring := { a0.ring with who := .warp 0 48 } } = false := by decide
theorem test_wf_ring_engine : Arg.wf { ring := { a0.ring with who := .engine 24 } } = false := by decide
theorem test_wf_coll_ctx : Arg.wf { coll := { a0.coll with ctx := 64 } } = false := by decide
theorem test_wf_coll_dom : Arg.wf { coll := { a0.coll with domid := 4096 } } = false := by decide
theorem test_wf_pairs : [Instr.brx ⟨7, 0, 0x20000⟩, .brxG ⟨7, 0, 0⟩, .give ⟨7, 0, 0, 0, 0, 0, 8, 0, 0⟩, .giveSeq ⟨7, 0, 0, 0, 0, 0, 0, 0, 0⟩, .take ⟨7, 0, 0, 0, 0, 0, 8, 0, 0⟩,
    .takeAny ⟨7, 0, 0, 0, 0, 0, 0, 0, 0⟩, .cpyl ⟨7, 0, 0, 0, 0, 4, 0, 0, 0⟩, .cpylSt ⟨7, 0, 0, 0, 0, 0, 0, 0, 0⟩, .slotpost ⟨7, 0, 0, 0, 0, 0, 2, 0, 0⟩,
    .slotpostEnd ⟨7, 0, 0, 0, 0, 0, 0, 0, 0⟩].all (fun i => !i.wf) = true := by decide
theorem test_wf_default : Arg.wf {} = true := by decide

/-! Words: those the spec's examples write out (R313, R316, R318, R343, R361, R366, R416, R419-R437, R447, R449, R464, R468, R471, R476), and for families without one, a word written from the encoding. -/

theorem test_word_iadd : reads 0x005C101814004002 = some (.iadd { g := 7, dst := 4, sa := 6, sb := 5, sc := 0, ty := 2, md := 0, sbd := 0, us := 2 }) := by decide +kernel
theorem test_word_ctz : reads 0x04DC2C2400003004 = some (.ctz { g := 7, dst := 11, sa := 9, sb := 0, sc := 0, ty := 1, md := 64, sbd := 0, us := 4 }) := by decide +kernel
theorem test_word_ffma : reads 0x10E8282C30350400 = some (.ffma { g := 10, dst := 10, sa := 11, sb := 12, sc := 13, ty := 8, md := 16, sbd := 0, us := 0 }) := by decide +kernel
theorem test_word_fadd : reads 0x101C040000010000 = some (.fadd { g := 7, dst := 1, sa := 0, sb := 0, sc := 0, ty := 8, md := 0, sbd := 0, us := 0 }) := by decide +kernel
theorem test_word_fmax : reads 0x115C808000010000 = some (.fmax { g := 7, dst := 32, sa := 32, sb := 0, sc := 0, ty := 8, md := 0, sbd := 0, us := 0 }) := by decide +kernel
theorem test_word_cvtpk : reads 0x205C808084012000 = some (.cvtpk { g := 7, dst := 32, sa := 32, sb := 33, sc := 0, ty := 9, md := 0, sbd := 0, us := 0 }) := by decide +kernel
theorem test_word_movi : reads 0x245C000000000000 = some (.movi { g := 7, dst := 0, sa := 0, imm := 0, us := 0 }) := by decide +kernel
theorem test_word_vote : reads 0x251C243000183801 = some (.vote { g := 7, dst := 9, sa := 12, sb := 0, sc := 6, ty := 1, md := 0x60, sbd := 0, us := 1 }) := by decide +kernel
theorem test_word_redux : reads 0x259C344800183001 = some (.redux { g := 7, dst := 13, sa := 18, sb := 0, sc := 6, ty := 1, md := 0x40, sbd := 0, us := 1 }) := by decide +kernel
theorem test_word_shfl : reads 0x24DC504838182403 = some (.shfl { g := 7, dst := 20, sa := 18, sb := 14, sc := 6, ty := 1, md := 16, sbd := 0, us := 3 }) := by decide +kernel
theorem test_word_brx : reads 0x2C44000000E00000 = some (.brx { g := 1, tgt := 0x38, md := 0 }) := by decide +kernel
theorem test_word_exit : reads 0x2D5C000000000000 = some (.exit { g := 7, tgt := 0, md := 0 }) := by decide +kernel
theorem test_word_ld : reads 0x341C501C00101249 = some (.ld { g := 7, data := 20, base := 7, off := 0x40, sp := 2, sz := 2, ord := 1, scope := 1, sbd := 1 }) := by decide +kernel
theorem test_word_st : reads 0x345C040400010A00 = some (.st { g := 7, data := 1, base := 1, off := 4, sp := 1, sz := 2, ord := 0, scope := 0, sbd := 0 }) := by decide +kernel
theorem test_word_atom : reads 0x349C200800040ADA = some (.atom { g := 7, data := 8, base := 2, off := 16, sp := 1, sz := 2, ord := 3, scope := 3, sbd := 2 }) := by decide +kernel
theorem test_word_ldc : reads 0x35DC200400140A5A = some (.ldc { g := 7, data := 8, base := 1, off := 0x50, sp := 1, sz := 2, ord := 1, scope := 3, sbd := 2 }) := by decide +kernel
theorem test_word_cpyl : reads 0x405C041014000006 = some (.cpyl { g := 7, dst := 1, sa := 4, sb := 5, sc := 0, ty := 0, md := 0, sbd := 0, us := 6 }) := by decide +kernel
theorem test_word_cwall : reads 0x40DC002000000004 = some (.cwall { g := 7, dst := 0, sa := 8, sb := 0, sc := 0, ty := 0, md := 0, sbd := 0, us := 4 }) := by decide +kernel
theorem test_word_bar : reads 0x429C080000006000 = some (.bar { g := 7, dst := 2, sa := 0, sb := 0, sc := 0, ty := 3, md := 0, sbd := 0, us := 0 }) := by decide +kernel
theorem test_word_fence : reads 0x42DC000000000040 = some (.fence { g := 7, dst := 0, sa := 0, sb := 0, sc := 0, ty := 0, md := 1, sbd := 0, us := 0 }) := by decide +kernel
theorem test_word_xfence : reads 0x431C0000000082C0 = some (.xfence { g := 7, dst := 0, sa := 0, sb := 0, sc := 0, ty := 4, md := 0xB, sbd := 0, us := 0 }) := by decide +kernel
theorem test_word_give : reads 0x441C000000002040 = some (.give { g := 7, dst := 0, sa := 0, sb := 0, sc := 0, ty := 1, md := 1, sbd := 0, us := 0 }) := by decide +kernel
theorem test_word_give_seq : reads 0x441C000000000240 = some (.giveSeq { g := 7, dst := 0, sa := 0, sb := 0, sc := 0, ty := 0, md := 9, sbd := 0, us := 0 }) := by decide +kernel
theorem test_word_take_any : reads 0x445C100000000288 = some (.takeAny { g := 7, dst := 4, sa := 0, sb := 0, sc := 0, ty := 0, md := 10, sbd := 1, us := 0 }) := by decide +kernel
theorem test_word_coll : reads 0x501C001000000004 = some (.coll { g := 7, dst := 0, sa := 4, sb := 0, sc := 0, ty := 0, md := 0, sbd := 0, us := 4 }) := by decide +kernel
theorem test_word_collx : reads 0x50DC281800000014 = some (.collx { g := 7, dst := 10, sa := 6, sb := 0, sc := 0, ty := 0, md := 0, sbd := 2, us := 4 }) := by decide +kernel
theorem test_word_collw : reads 0x505C2C240000001C = some (.collw { g := 7, dst := 11, sa := 9, sb := 0, sc := 0, ty := 0, md := 0, sbd := 3, us := 4 }) := by decide +kernel
theorem test_word_sigclaim : reads 0x521C600000000018 = some (.sigclaim { g := 7, dst := 24, sa := 0, sb := 0, sc := 0, ty := 0, md := 0, sbd := 3, us := 0 }) := by decide +kernel
theorem test_word_sigdone : reads 0x525C1C6000000014 = some (.sigdone { g := 7, dst := 7, sa := 24, sb := 0, sc := 0, ty := 0, md := 0, sbd := 2, us := 4 }) := by decide +kernel
theorem test_word_sigyield : reads 0x529C1C6000000014 = some (.sigyield { g := 7, dst := 7, sa := 24, sb := 0, sc := 0, ty := 0, md := 0, sbd := 2, us := 4 }) := by decide +kernel
theorem test_word_sigstage : reads 0x52DC004000000004 = some (.sigstage { g := 7, dst := 0, sa := 16, sb := 0, sc := 0, ty := 0, md := 0, sbd := 0, us := 4 }) := by decide +kernel
theorem test_word_sigswap : reads 0x531C1C0000000020 = some (.sigswap { g := 7, dst := 7, sa := 0, sb := 0, sc := 0, ty := 0, md := 0, sbd := 4, us := 0 }) := by decide +kernel
theorem test_word_trap : reads 0x581C0000000000A8 = some (.trap { g := 7, dst := 0, sa := 0, imm := 0x2A, us := 0 }) := by decide +kernel
theorem test_word_getctl : reads 0x589C0C000000004A = some (.getctl { g := 7, dst := 3, sa := 0, imm := 0x12, us := 2 }) := by decide +kernel
theorem test_word_loopi : (decodeSlot .b 0xF09C000005000003).toOption = some (.loopi { g := 7, tgt := 0x140, md := 3 }) := by decide +kernel
theorem test_word_loopb : (decodeSlot .b 0xF0DFFFFFFD000000).toOption = some (.loopb { g := 7, tgt := 0xFFFFFF40, md := 0 }) := by decide +kernel
theorem test_word_shalt : (decodeSlot .b 0xF15C000000000000).toOption = some (.shalt { g := 7, tgt := 0, md := 0 }) := by decide +kernel
theorem test_word_s_iaddi : (decodeSlot .s 0x081C04FC00000400).toOption = some (.iaddi { g := 7, dst := 1, sa := 63, imm := 256, us := 0 }) := by decide +kernel
theorem test_word_hadvc : (decodeSlot .s 0xA21D440000000004).toOption = some (.hadvc { g := 7, dst := 0x51, sa := 0, imm := 1, us := 0 }) := by decide +kernel
theorem test_word_sgive : (decodeSlot .s 0xA29C000000000008).toOption = some (.sgive { g := 7, dst := 0, sa := 0, imm := 2, us := 0 }) := by decide +kernel
theorem test_word_stake : (decodeSlot .s 0xA2DC000000000008).toOption = some (.stake { g := 7, dst := 0, sa := 0, imm := 2, us := 0 }) := by decide +kernel
theorem test_word_mma : (decodeSlot .m 0xE01C204060012000).toOption = some (.mma { g := 7, dt := 8, ta := 16, tb := 24, tc := 0, ty := 9, ax := 0, md := 0, hd := 0 }) := by decide +kernel
theorem test_word_mma_q1 : (decodeSlot .m 0xE01C10080C012400).toOption = some (.mma { g := 7, dt := 4, ta := 2, tb := 3, tc := 0, ty := 9, ax := 0, md := 0x40, hd := 0 }) := by decide +kernel
theorem test_word_mzero : (decodeSlot .m 0xE09C080000000000).toOption = some (.mzero { g := 7, dt := 2, ta := 0, tb := 0, tc := 0, ty := 0, ax := 0, md := 0, hd := 0 }) := by decide +kernel
theorem test_word_tld : (decodeSlot .c0 0xE81E040004000000).toOption = some (.tld { g := 7, data := 0x81, base := 0, off := 0x1000, sp := 0, sz := 0, ord := 0, scope := 0, sbd := 0 }) := by decide +kernel
theorem test_word_tst : (decodeSlot .c0 0xE85C10000C000000).toOption = some (.tst { g := 7, data := 4, base := 0, off := 0x3000, sp := 0, sz := 0, ord := 0, scope := 0, sbd := 0 }) := by decide +kernel
/-- VADD.F32 t2, t0, t1 with m7: opcode 0x300, guard 0111, DT 2, TA 0, TB 1, TY 8, and the mask left at its plain code (R313, R328). -/
theorem test_word_vadd : (decodeSlot .v0 0xC01C080004010000).toOption.isSome = true := by decide +kernel
/-- A word of a slot is no word of a warp, and of no other slot (R325). -/
theorem test_word_slots : (reads 0xF15C000000000000, [Slot.s, .v0, .v1, .m, .c0, .c1].filterMap fun sl => (decodeSlot sl 0xF15C000000000000).toOption) = (none, []) := by decide +kernel
/-- NOP with a bit set below its guard, an opcode R328 does not list, a comparison code that ICMP does not have, and a rounding mode of 6 are no instructions (R310, R288, R329, R342). -/
theorem test_word_illegal : [0x001C000000000001, 0x069C000000000000, 0x061C000000000600, 0x101C040000010C00].filterMap reads = [] := by decide +kernel

/-! Witnesses. Each theorem shows a state and operands that meet the hypotheses of a statement, or of one clause of it, together. -/

/-- DecodeOfEncode: a row's fields that are legal for a warp, with the highest register number, and for a slot. -/
theorem witness_DecodeOfEncode :
    (rrRows.any fun r => r.legal .warp ⟨0xE, 254, 254, 252, 0, 2, 0, 0, 0⟩ && r.var ⟨0xE, 254, 254, 252, 0, 2, 0, 0, 0⟩) = true ∧
    (riRows.any fun r => r.legal .warp ⟨7, 255, 0, 0xFFFFFFFF, 0⟩ && r.var ⟨7, 255, 0, 0xFFFFFFFF, 0⟩) = true ∧
    (memRows.any fun r => r.legal .warp ⟨7, 20, 7, 0xFFFFF, 2, 2, 1, 1, 6⟩ && r.var ⟨7, 20, 7, 0xFFFFF, 2, 2, 1, 1, 6⟩) = true ∧
    (brRows.any fun r => r.legal .warp ⟨1, 0xFFFFFFF8, 0⟩ && r.var ⟨1, 0xFFFFFFF8, 0⟩) = true ∧
    (tileRows.any fun r => r.legal (.slot .m) ⟨7, 8, 16, 24, 0, 9, 0, 0, 0⟩ && r.var ⟨7, 8, 16, 24, 0, 9, 0, 0, 0⟩) = true := by decide +kernel

/-- EncodeOfDecode. -/
theorem witness_EncodeOfDecode : (decodeFor .warp 0x005C101814004002).toOption.isSome = true ∧ (decodeFor (.slot .b) 0xF09C000005000003).toOption.isSome = true := by decide +kernel

/-- A warp whose next word is IADD.I64 v4, v6, s5, about to issue. -/
def placed : State := State.reset.withFetchWord 64 0x005C101814004002
/-- The warp of that state. -/
def placedW : Warp := (placed.warp 0 0).getD wp

/-- WarpStepRunsDecoded, inside a clause. -/
theorem witness_WarpStepRunsDecoded :
    placed.inbox = [] ∧ placed.frozen = false ∧ placed.agenda = [.warp 0 0] ∧ placed.warp 0 0 = some placedW ∧ placedW.st = .ready ∧ placedW.wait = none ∧
    placedW.active ≠ 0 ∧ placedW.stack.length ≤ 16 ∧ placed.runnable 0 0 placedW = true ∧ placedW.clause.isSome = true ∧
    (let s0 := ({ placed with agenda := [] } : State).setWarp 0 0 placedW
     (match s0.check (s0.fetchAgt 0 0 placedW) .fetch 1 placedW.pc 8 with
      | .ok (.mem (p :: _)) => (s0.core 0).ibuf.find (s0.migTarget p.pa / 128) == none && !s0.lineBusy p.pa 8 &&
          (s0.codePoison (s0.fetchAgt 0 0 placedW) (pteKey p.pte) (s0.migTarget p.pa)).isNone &&
          ((decodeWarp (wordOf (s0.codeBytes (pteKey p.pte) (s0.migTarget p.pa) 8))).toOption).any fun i => clausePlace ((placedW.clause.getD (0, 0)).2) placedW.pos i
      | _ => false) = true) := by decide +kernel

/-- A core whose instruction buffer holds a line. -/
def bufd : State := { st with cores := [(0, { co with ibuf := [(8192, leBytes 8 0 ++ leBytes 8 0x005C101814004002)] })] }
/-- WarpStepRunsDecoded, from a line that the instruction buffer holds: whether the fetch takes it is a free choice. -/
theorem witness_WarpStepRunsDecoded_buffer (h : Config.freeNew 0 1048584 = false) : bufd.ibufHit 0 1048584 = some 0x005C101814004002 := by
  have e : bufd.ibufHit 0 1048584 = (if Config.freeNew 0 1048584 then none else some (wordOf (((leBytes 8 0 ++ leBytes 8 0x005C101814004002).drop 8).take 8))) := rfl
  rw [e, h]
  decide +kernel

/-- A warp at a clause header in the last 8 bytes of a line. -/
def headW : Warp := { placedW with pc := 0x10078, clause := none }
/-- The package with the header and the word there. -/
def headed : State := { placed with mem := [] }.setPhysBytes 0x100078 (leBytes 8 0xC100000000000000 ++ leBytes 8 0x005C101814004002)
/-- WarpStepRunsDecoded, at a clause header. -/
theorem witness_WarpStepRunsDecoded_header :
    (let s0 := ({ headed with agenda := [] } : State).setWarp 0 0 headW
     (match s0.fetchWord 0 (s0.fetchAgt 0 0 headW) headW.pc.toNat with
      | .word h t =>
        let v : Warp := { headW with clause := some (headW.pc, h), pos := 0, pc := headW.pc + 8 }
        headerOk h && waitsMet headW h && (t.clauseHeld 0 0 headW h).isNone &&
        (match (t.setWarp 0 0 v).fetchWord 0 ((t.setWarp 0 0 v).fetchAgt 0 0 v) v.pc.toNat with
         | .word x _ => ((decodeWarp x).toOption).any fun i => clausePlace h 0 i
         | _ => false)
      | _ => false) = true) ∧ headW.clause = none ∧ headW.pc.toNat % 8 = 0 ∧ headW.active ≠ 0 ∧ headed.runnable 0 0 headW = true := by decide +kernel

/-- StepTurns: a slot's word and its result; an input that is run and one that is dropped; a frozen package; device and sequencer turns; an empty agenda. -/
theorem witness_StepTurns :
    (decodeSlot .b 0xF15C000000000000).toOption = some (.shalt { g := 7, tgt := 0, md := 0 }) ∧
    holds (execSlot (.shalt { g := 7, tgt := 0, md := 0 }) { slot .b sq with cur := .slot 0 .b }) (fun _ => true) = true ∧
    Arg.wf { value := 5 } = true ∧ encodeWord .hostwinFenceRead = none ∧
    Arg.wf { die := 2 } = false ∧ encodeWord (.nop ⟨0, 0⟩) ≠ none ∧
    ({ st with frozen := true, inbox := [] } : State).inbox = [] ∧
    ({ st with agenda := [.ev .dripDrain {}] } : State).agenda = [.ev .dripDrain {}] ∧
    ({ st with agenda := [.seq 0] } : State).agenda = [.seq 0] ∧ ({ st with agenda := [.select] } : State).agenda = [.select] ∧
    (match placed.turnWarp 0 0 with
     | .issue _ _ => true
     | .idle _ => false) = true ∧
    (match State.turnWarp { st with warps := [] } 0 0 with
     | .issue _ _ => false
     | .idle _ => true) = true ∧ st.agenda = [] ∧ st.inbox = [] ∧ st.frozen = false := by decide +kernel

/-- EveryInstructionGoesOn: a device step, a word for the warp that acts, and one for a slot. -/
theorem witness_EveryInstructionGoesOn :
    encodeWord .dripDrain = none ∧ (decodeWarp 0x005C101814004002).toOption.isSome = true ∧ st.warp 0 0 = some wp ∧
    (slot .b sq).seq 0 = some sq ∧ (decodeSlot .b 0xF15C000000000000).toOption.isSome = true := by decide +kernel

/-- FrozenPackageStandsStill: a frozen package with an input of another kind. -/
theorem witness_FrozenPackageStandsStill :
    (let s : State := { st with frozen := true, inbox := [(.hostwinFenceRead, {})] }
     s.frozen = true ∧ (s.inbox.all fun x => !([Instr.reset, .powerLoss, .bootImage, .readout].contains x.1)) = true ∧ holds (step s) (fun _ => true) = true) := by decide +kernel

/-- ResetAndPowerLoss: a cold reset, and a warm one of a package with power. -/
theorem witness_ResetAndPowerLoss :
    (dev { flag := true }).arg.flag = true ∧ (dev {}).arg.flag = false ∧ (dev {}).power ≠ .off := by decide +kernel

/-- An image of 320 bytes that keeps the rules of R458: its magic, its length, SVN 1, PKGID 32,767, 8 GiB in each stack, eight operating points at 3,300 MHz and 600 mV. -/
def image : List Byte :=
  leBytes 4 0x47544238 ++ leBytes 4 320 ++ leBytes 4 1 ++ leBytes 2 32767 ++ [0, 0] ++ bytes 12 8 ++ leBytes 2 0 ++ leBytes 2 0 ++
  ((List.range 8).flatMap fun _ => leBytes 2 3300 ++ leBytes 2 600 ++ leBytes 4 0) ++ bytes 224 0

/-- BootAndControlLink: an image with the floor at its SVN, one below the floor, and one of zeros; ATTEST, KEYLOAD of the first and the last slot, WAKE, and readouts. -/
theorem witness_BootAndControlLink :
    ({ State.reset with arg := { bytes := image }, svnFloor := some 1 } : State).power = .recovery ∧ imageOk image = true ∧ image.length = 320 ∧
    (1 : Word32).toNat ≤ fieldAt image 0x08 4 ∧ ¬ (2 : Word32).toNat ≤ fieldAt image 0x08 4 ∧ imageOk (bytes 320 0) = false ∧
    (dev { bytes := bytes 64 1 }).clocked = true ∧ (dev {}).power ≠ .recovery ∧ ({ st with boot := some (bootOf image) } : State).boot.isSome = true ∧
    (dev { id := 1 }).keys.find 1 = none ∧ (dev { id := 255 }).keys.find 255 = none ∧ (dev { id := 255 }).seals = [] ∧ ((dev {}).ctx 0).isSome = true ∧
    ({ st with power := .standby } : State).frozen = false ∧
    (let s : State := { st with frozen := true, boot := some (bootOf image), arg := { addr := 2 ^ 40, len := 8 } }
     s.inHbm s.arg.addr s.arg.len = true ∧ 0 < s.arg.len) ∧ (dev {}).arg.len = 0 := by decide +kernel

/-- PowerAndFreeze: a quiet package, a change of point, the power one watt over its limit, 96 and 110 degrees; the freeze line untriggered, triggered 32 cycles ago and 31 cycles ago; stopped clocks. -/
theorem witness_PowerAndFreeze :
    (let s : State := { State.reset with power := .active, idleSince := some 0, clock := 3300000 }
     s.clocked = true ∧ s.quiet = true ∧ (s.idleSince.any fun t => decide (t + 3300000 ≤ s.clock)) = true) ∧
    (dev { id := 7 }).arg.id < 8 ∧ (dev { value := 2401 }).pwrLimit < 2401 ∧ (dev {}).opPoint ≠ 0 ∧
    95 < (dev { value := 96 }).arg.value.toNat ∧ 110 ≤ (dev { value := 110 }).arg.value.toNat ∧ (dev {}).clocked = true ∧ (dev {}).frzTrig = none ∧
    ({ st with frzTrig := some 0, clock := 32 } : State).clocked = true ∧ 0 + 32 ≤ 32 ∧ 31 < 0 + 32 ∧
    encodeWord .dripDrain = none ∧ [Instr.reset, .powerLoss, .bootImage, .wake, .readout].contains .dripDrain = false ∧
    ({ st with power := .standby } : State).clocked = false := by decide +kernel

/-- BanksDripsAndPorts: bank 15 with a suspended tile, with free tiles, and due to return; a drip counter at 1 and at the top of its range; a trained port. -/
theorem witness_BanksDripsAndPorts :
    (let s : State := { dev { core := 191, id := 15, bank := .retention } with cores := [(191, { tiles := [(120, { ctx := 0, hold := 0, st := .suspended })] })] }
     s.clocked = true ∧ s.bank 191 15 = { st := .on } ∧ ((List.range 8).all fun i => [TileSt.free, .suspended, .retained].contains (s.tile 191 (8 * 15 + i)).st) = true ∧
     (s.tile 191 (8 * 15 + 0)).st ≠ .free) ∧
    (let s : State := dev { core := 0, id := 15, bank := .gated }
     s.bank 0 15 = { st := .on } ∧ ((List.range 8).all fun i => (s.tile 0 (8 * 15 + i)).st == .free) = true) ∧
    (let s : State := { dev { core := 0, id := 0 } with cores := [(0, { banks := [(0, { st := .retention, backAt := some 5 })] })], clock := 5 }
     (s.bank 0 0).backAt = some 5 ∧ 5 ≤ s.clock) ∧
    (let s : State := { dev { addr := 1, id := 3071 } with drip := [(1, 3071, { level := 1 })] }
     (s.dripOf 1 3071).level ≠ 0) ∧
    (let s : State := { dev { addr := 5, id := 0, flag := true } with drip := [(5, 0, { level := 0xFFFE, brim := 0xFFFF })] }
     (s.dripOf 5 0).en = true ∧ 0 < unitCount 5 ∧ (s.dripOf 5 0).level < min 0xFFFF ((s.dripOf 5 0).level + (s.dripOf 5 0).inc) ∧ (s.dripOf 5 0).armed = true ∧
     max 1 (s.dripOf 5 0).brim ≤ min 0xFFFF ((s.dripOf 5 0).level + (s.dripOf 5 0).inc)) ∧
    (let s : State := { dev { id := 7 } with cxl := [(7, 4)] }
     (s.cxl.find 7).isSome = true ∧ s.cxlDown.contains 7 = false) := by decide +kernel

/-- MemoryForm: a memory in its form with a whole-line copy. -/
theorem witness_MemoryForm :
    (let s : State := { st with mem := [(0, 1), (2 ^ 40, 2)], lines := [(0, { homeCopy := some (bytes 128 0) })] }
     Memory.wf s.mem = true ∧ (s.lines.all fun e => (match e.2.homeCopy with
       | some x => x.length == 128
       | none => true) && (match e.2.remCopy with
       | some x => x.length == 128
       | none => true)) = true) := by decide +kernel

/-- HostWrites: the last queue's tail; its states 0, 1 and 2, with a context that lives and one under termination; each register, PWR.LIMIT at both ends of its range and beyond each, and a base in the middle of a window. -/
theorem witness_HostWrites :
    (dev { id := 4095, value := 1 }).clocked = true ∧ (4095 : Nat) < 4096 ∧ (2 : Word64).toNat < 3 ∧
    ((dev {}).ctx 0).all (fun x => x.terminating == none) = true ∧
    ({ st with ctxs := [(0, { cx with terminating := some { reason := 4, since := 0 } })] } : State).ctx 0 = some { cx with terminating := some { reason := 4, since := 0 } } ∧
    (dev { reg := .traph 0 }).ctx 0 = some cx ∧ (dev { reg := .fqStat 0, flag := true }).arg.flag = true ∧ 1200 ≤ (1200 : Word64).toNat ∧ (2400 : Word64).toNat ≤ 2400 ∧ (1199 : Word64).toNat < 1200 ∧ 2600 < (2601 : Word64).toNat := by decide +kernel
theorem witness_HostWrites_limit : (2400 : Word64).toNat ≤ (if Config.is880M then 2600 else 2400) ∧ (if Config.is880M then 2600 else 2400) < (2601 : Word64).toNat := by
  cases Config.is880M <;> decide

/-- HostWindowAndRetirement: an access that reaches memory and one that does not, at the window's last byte; slices retired up to eight; IDLE with slices pending. -/
theorem witness_HostWindowAndRetirement :
    (let s : State := { dev { addr := 0xFFFFF, bytes := [0], len := 1 } with boot := some (bootOf image) }
     s.clocked = true ∧ s.hostReach s.arg.addr s.arg.bytes.length = true ∧ s.hostReach s.arg.addr s.arg.len = true) ∧
    (let s : State := dev { addr := 0, bytes := [0], len := 1 }
     s.hostReach s.arg.addr s.arg.bytes.length = false ∧ s.hostReach s.arg.addr s.arg.len = false) ∧
    (let s : State := { dev { bits := 1 } with l2ret := 0xFF }
     slicesRetired s.l2ret 0 ≤ 8 ∧ slicesRetired s.l2ret 1 ≤ 8) ∧
    ({ st with power := .idle, l2pend := true } : State).clocked = true := by decide +kernel

/-- JobDescriptor: for a package with 4 MiB of scratch on each die and a live context 1 that holds it, a descriptor for context 2 that fails at each of the seven checks and at none before, and one that passes. -/
def carve : State := { dev { ctx := 2 } with boot := some { bootOf image with scr0 := 1, scr1 := 16 }, ctxs := [(1, { cx with scr0 := (0, 1) })] }
/-- A descriptor. -/
def desc (root base size fmode : Nat) (off0 len0 off1 len1 rsv : Nat) : List Byte :=
  leBytes 8 root ++ leBytes 8 base ++ leBytes 4 size ++ leBytes 1 fmode ++ bytes 3 0 ++ leBytes 2 off0 ++ leBytes 2 len0 ++ leBytes 2 off1 ++ leBytes 2 len1 ++ leBytes 32 rsv
theorem witness_JobDescriptor :
    ([desc 0x20000 0 1 0 0 0 0 0 0, desc 0 0x8000 1 0 0 0 0 0 0, desc 0 0 0 0 0 0 0 0 0, desc 0 0 1024 2 0 0 0 0 0, desc 0 0 1 1 1 1 0 0 0, desc 0 0 1 0 0 1 0 0 0,
      desc 0 0 1 0 0 0 0 16 1, desc 0 0 1 1 0 0 0 16 0].map fun b => (b.length, carve.jobFault 2 b)) =
    [(64, some 1), (64, some 2), (64, some 3), (64, some 4), (64, some 5), (64, some 6), (64, some 7), (64, none)] ∧
    carve.clocked = true ∧ carve.ctx 2 = none ∧ windowsBase = 0x00FFF00000000000 ∧
    carve.jobFault 2 (desc 0 (0x00FFF00000000000 - 294912 * 1024 * 65536) 1024 0 0 0 0 0 0) = none := by decide +kernel

/-! Witnesses: register words of warps. -/

/-- Operands in v registers, of a type. -/
def rv (ty : BitVec 5) : RR := { g := 7, dst := 4, sa := 6, sb := 8, sc := 10, ty := ty, md := 0, sbd := 0, us := 0 }
/-- Operands in s registers, of a type, with guard not p6 (R311). -/
def rs (ty : BitVec 5) : RR := { g := 0xE, dst := 11, sa := 255, sb := 0, sc := 9, ty := ty, md := 64, sbd := 0, us := 7 }
/-- Operands at the last v registers. -/
def rl (ty : BitVec 5) : RR := { rv ty with dst := 254, sa := 254, sb := 254, sc := 254 }

theorem free (n : Need) (h : unhindered st 0 0 wp n = true) : st.Acting 0 0 wp ∧ st.Unhindered 0 0 wp n := ⟨⟨rfl, rfl⟩, unhindered_of h⟩

/-- IntegerResults, IntegerBits, RegisterWordFrame: one, two and three sources, 32 and 64 bits, v registers up to the last pair, s registers. -/
theorem witness_IntegerResults : ∀ f ∈ [rv 0, rv 1, rv 2, rv 3, rl 2, rs 0, rs 3], ∀ n ∈ [1, 2, 3], st.Acting 0 0 wp ∧ st.Unhindered 0 0 wp (rrNeed f n (ty64 f.ty) (rrDest f)) := by
  have h : ([rv 0, rv 1, rv 2, rv 3, rl 2, rs 0, rs 3].all fun f => [1, 2, 3].all fun n => unhindered st 0 0 wp (rrNeed f n (ty64 f.ty) (rrDest f))) = true := by decide +kernel
  intro f hf n hn
  exact free _ (List.all_eq_true.mp (List.all_eq_true.mp h f hf) n hn)
/-- RegisterWordFrame: such words answer a next state. -/
theorem witness_RegisterWordFrame : ([exec (.iadd (rv 1)) st, exec (.imad (rs 3)) st, exec (.mov (rl 2)) st, exec (.fadd (rv 8)) st, exec (.fdiv (rv 8)) st].all fun o => holds o fun _ => true) = true ∧
    wp.isRegrouped = false ∧ st.warps.find (homeKey 0 0) = none := by decide +kernel
/-- IntegerBits: the values' cases: a bit set, none set; a field of no bits, of all, one that ends at bit 31 and one that begins there. -/
theorem witness_IntegerBits : (0x80000000 : Word64).getLsbD 31 = true ∧ ((List.range 64).all fun i => !(0 : Word64).getLsbD i) = true ∧
    ((0x0008 : Word64).extractLsb' 8 8).toNat = 0 ∧ min ((0x2000 : Word64).extractLsb' 8 8).toNat 32 = 32 ∧
    min ((0x041C : Word64).extractLsb' 8 8).toNat 32 = 4 ∧ ((0x041C : Word64).extractLsb' 0 8).toNat = 28 ∧ ((0x041F : Word64).extractLsb' 0 8).toNat = 31 := by decide +kernel
/-- ImmediatesAndCompares: a 32-bit and a 64-bit form; predicates p0 and p6; words with a v source in a 64-bit form, ICMPI with US[1] and with code 6, ICMP with code 6, with MD[12] and with p code 8. -/
theorem witness_ImmediatesAndCompares :
    unhindered st 0 0 wp { g := 7, srcs := [⟨255, false, false⟩], dsts := [255], sdst := false } = true ∧
    unhindered st 0 0 wp { g := 7, srcs := [⟨63, true, true⟩], dsts := [], sdst := true } = true ∧
    unhindered st 0 0 wp { g := 7, srcs := RR.srcs (rv 1) 2 false } = true ∧ (6 : Nat) ≠ 7 ∧
    ([0x081C041800000402, 0x095C000000000002, 0x095D800000000000].all fun x => (reads x).isNone) = true ∧
    ((0x081C041800000402 : Word64).extractLsb' 54 10).toNat = 0x20 ∧ (0x081C041800000402 : Word64).getLsbD 1 = true ∧ (0x081C041800000402 : Word64).getLsbD 0 = false ∧
    ((0x095C000000000002 : Word64).extractLsb' 54 10).toNat = 0x25 ∧ ((0x095D800000000000 : Word64).extractLsb' 46 4).toNat = 6 ∧
    ((0x061C000000000600 : Word64).extractLsb' 54 10).toNat = 0x18 ∧ ((0x061C000000000600 : Word64).extractLsb' 8 4).toNat = 6 ∧
    (0x061C000000001000 : Word64).getLsbD 12 = true ∧ ((0x061C200000000000 : Word64).extractLsb' 42 8).toNat = 8 := by decide +kernel
/-- MoveAndSpecialResults: SEL under p7 with an s destination, MOVS, BSEL, GETSP of every width. -/
theorem witness_MoveAndSpecialResults :
    (let f := { rs 3 with sc := 7 }
     unhindered st 0 0 wp (rrNeed f 2 (ty64 f.ty) (rrDest f)) = true ∧ ((lanesOf (st.taking 0 0 wp f.g)).all fun l => st.predBit 0 0 wp l 7) = true) ∧
    (let f := { rs 3 with sc := 0 }
     ((lanesOf (st.taking 0 0 wp f.g)).all fun l => !st.predBit 0 0 wp l 0) = true) ∧
    unhindered st 0 0 wp (rrNeed (rv 1) 1 false { code := 4, isS := true, wide := false, ty := 1 }) = true ∧
    unhindered st 0 0 wp (rrNeed (rv 0) 3 false { code := 4, isS := false, wide := false, ty := 1 }) = true ∧
    unhindered st 0 0 wp (rrNeed (rv 0) 0 false { code := 254, isS := false, wide := true, ty := 1 }) = true ∧
    unhindered st 0 0 wp { g := 7, dsts := [4], sdst := false } = true ∧ wp.isRegrouped = false ∧ st.block wp.block = some blk := by decide +kernel

/-- A warp whose s6 names every lane as a member. -/
def wm : Warp := { wp with sregs := [(6, 0xFFFFFFFF), (7, 0xFFFFFFFE)] }
/-- An exchange with that mask. -/
def rx (md : BitVec 7) (ty : BitVec 5) : RR := { g := 7, dst := 20, sa := 18, sb := 14, sc := 6, ty := ty, md := md, sbd := 0, us := 1 }
/-- LaneExchanges: all 32 lanes, each SUB code; WARPSYNC with every lane named, with lane 0 left out, with no lane taking part, and with a posted store. -/
theorem witness_LaneExchanges :
    (let s := withW wm
     let f := rx 0 1
     s.cm16 wm = false ∧ wm.exited = 0 ∧ s.taking 0 0 wm 7 = 0xFFFFFFFF ∧ ((List.range 32).all fun l => laneBit ((s.readS 0 0 wm l f.sc.toNat).extractLsb' 0 32) l) = true ∧
     unhindered s 0 0 wm { g := 7, srcs := [⟨18, false, false⟩, ⟨14, false, false⟩], dsts := (rrDest f).vregs, sdst := false } = true ∧
     unhindered s 0 0 wm (rrNeed f 1 (ty64 f.ty) (rrDest f)) = true ∧ unhindered s 0 0 wm (rrNeed f 1 false { code := 20, isS := false, wide := false, ty := 1 }) = true ∧
     ([0x00, 0x10, 0x20, 0x30].map fun m => (rx m 1).sub2) = [0, 1, 2, 3] ∧
     unhindered s 0 0 wm { g := 7 } = true ∧ ((List.range 32).all fun l => (s.readS 0 0 wm l 6).extractLsb' 0 32 &&& ~~~ s.taking 0 0 wm 7 == 0) = true ∧
     laneBit ((s.readS 0 0 wm 0 7).extractLsb' 0 32) 0 = false ∧ ((List.range 32).all fun l => (s.readS 0 0 wm l 7).extractLsb' 0 32 &&& ~~~ s.taking 0 0 wm 7 == 0) = true ∧
     s.postedOut 0 0 = false ∧ (outstanding s).postedOut 0 0 = true ∧ unhindered (outstanding s) 0 0 wm { g := 7 } = true ∧ s.taking 0 0 wm 0 = 0) := by decide +kernel
/-- LaneResultsRead: no result in flight; the last even register with 64 bits; an s register; a guard under which no lane takes part. -/
theorem witness_LaneResultsRead :
    st.warp 0 0 = some wp ∧ wp.isRegrouped = false ∧ wp.flights = [] ∧ st.warps.find (homeKey 0 0) = none ∧ (254 : Nat) % 2 = 0 ∧ wp.tileOf 254 = some 15 ∧ wp.tileOf 255 = some 15 ∧
    lanesOf (st.taking 0 0 wp 7) = List.range 32 ∧ st.taking 0 0 wp 0 = 0 := by decide +kernel
/-- FloatResults, PackedAndConverted: F32, F16 and B16 elements in v and s registers; FCLASS; conversions from and to types of each width. -/
theorem witness_FloatResults :
    ([rv 8, rv 9, rv 10, rs 8].all fun f => [1, 2, 3].all fun n => unhindered st 0 0 wp (rrNeed f n false { code := f.dst.toNat, isS := f.ud, wide := false, ty := f.ty, sbd := some f.sbd.toNat })) = true ∧
    (([8, 9, 10] : List (BitVec 5)).map fmtOf) = [.f32, .f16, .b16] ∧
    unhindered st 0 0 wp { g := 7, srcs := RR.srcs (rv 8) 2 false } = true ∧
    (let f := { rv 2 with sc := 8 }
     unhindered st 0 0 wp (rrNeed f 1 (ty64 (f.sc.extractLsb' 0 5)) (rrDest f)) = true) ∧
    (let f := { rv 8 with sc := 3 }
     unhindered st 0 0 wp (rrNeed f 1 (ty64 (f.sc.extractLsb' 0 5)) (rrDest f)) = true) ∧
    positions 9 = 2 ∧ positions 12 = 4 := by decide +kernel
/-- RoundingAndSpecialValues: a value that needs no rounding and one halfway; NaNs, infinities of unlike signs, an infinity and a zero, zeros of unlike signs, in each format. -/
theorem witness_RoundingAndSpecialValues :
    (0 : Int) < 1 ∧ 2 % 2 ^ ((1 : Int) - 0).toNat = 0 ∧ 3 % 2 ^ ((1 : Int) - 0).toNat ≠ 0 ∧
    Fmt.val .f32 0x7FC00000 = .nan 0x7FC00000 ∧ Fmt.val .f32 0x7F800001 = .nan 0x7F800001 ∧ Fmt.val .f32 0x7F800000 = .inf false ∧ Fmt.val .f32 0xFF800000 = .inf true ∧
    (match Fmt.val .f16 0x8000, Fmt.val .f16 0 with
     | .fin true 0 _, .fin false 0 _ => true
     | _, _ => false) = true ∧ Fmt.val .b16 0x7F80 = .inf false ∧ 0x8000 < 2 ^ Fmt.bits .f16 ∧ 0xFF800000 < 2 ^ Fmt.bits .f32 := by decide +kernel

/-! Witnesses: control flow, traps and system words. -/

/-- A branch with a guard. -/
def br (g : BitVec 4) (md : BitVec 18) : BR := { g := g, tgt := 0x38, md := md }
/-- A warp whose p1 holds in lane 0 alone. -/
def wd : Warp := { wp with preds := [(1, 1)], sregs := [(0, 0x10000)], spilled := 255, stack := List.replicate 14 ⟨0, 0, .reconv⟩ }
/-- The lanes of that warp regrouped. -/
def wg : Warp := { wd with isRegrouped := true, homes := List.replicate 32 0, stack := List.replicate 269 ⟨0, 0, .reconv⟩ }
/-- Branches: every active lane's guard true, no lane's, one lane's; the stack nearly full; a base that every lane reads alike; a regrouped warp. -/
theorem witness_Branches :
    (let s := withW wd
     unhindered s 0 0 wd { g := 7 } = true ∧ s.taking 0 0 wd 7 = wd.active ∧ wd.active ≠ 0 ∧ wd.isRegrouped = false ∧ s.spillFull 0 0 wd = false ∧ wd.residents < 15 ∧
     unhindered s 0 0 wd { g := 0 } = true ∧ s.taking 0 0 wd 0 = 0 ∧ unhindered s 0 0 wd { g := 1 } = true ∧ s.taking 0 0 wd 1 ≠ 0 ∧ s.taking 0 0 wd 1 ≠ wd.active ∧
     unhindered s 0 0 wd { g := 7, srcs := (baseSrc 1).toList } = true ∧ ((lanesOf wd.active).all fun l => s.baseVal 0 0 wd l 1 == 0x10000) = true) ∧
    (let s := withW wg
     unhindered s 0 0 wg { g := 1 } = true ∧ s.taking 0 0 wg 1 ≠ 0 ∧ s.taking 0 0 wg 1 ≠ wg.active ∧ s.spillFull 0 0 wg = false ∧ wg.residents < 15) := by decide +kernel

/-- A block with a regroup point at the warp's PC, and its warp waiting there. -/
def blkG : Block := { blk with regroupPcs := [0x10008], regroupTimers := [(0x10008, 0, 0)] }
def ww (t : Word32) : Warp := { wp with st := .waiting, wait := some (.regroup 0x10008 0 0xFFFFFFFF t 0x10040) }
/-- Regroups: a warp arriving with every lane's count 0; a waiting warp all of whose lanes take the branch, and one none of whose lanes does, whose time of 4,096 cycles is up; a regroup that completes. -/
theorem witness_Regroups :
    (let s : State := { st with blocks := [(0, blkG)] }
     unhindered s 0 0 wp { g := 7 } = true ∧ s.block 0 = some blkG ∧ blkG.regroupPcs.contains wp.pc = true ∧ ((lanesOf wp.active).all fun l => wp.countOf wp.pc l == 0) = true) ∧
    (let s : State := { dev { id := 0 } with blocks := [(0, blkG)], warps := [(0, ww 0xFFFFFFFF)], clock := 4096 }
     s.clocked = true ∧ s.block s.arg.id = some blkG ∧ blkG.slots = [0] ∧ blkG.st = .resident ∧ s.warp 0 0 = some (ww 0xFFFFFFFF) ∧ s.warps.find (homeKey 0 0) = none ∧
     (ww 0).isRegrouped = false ∧ (ww 0).st = .waiting ∧ (ww 0).active ≠ 0 ∧ 0 + 4096 ≤ s.clock ∧ s.regroupReady blkG = true) := by decide +kernel

/-- JoinReturnExit: entries of each kind on the stack, an empty stack; EXIT of all lanes, of none, and of one. -/
theorem witness_JoinReturnExit :
    wp.isRegrouped = false ∧ ((1 : Word32) &&& ~~~ wp.exited ≠ 0) ∧ wp.stack = [] ∧ wp.spilled = 0 ∧ wp.active ≠ 0 ∧ (wp.mids.all fun x => x.1 != 0x10040) = true ∧
    unhindered st 0 0 wp { g := 7 } = true ∧ st.taking 0 0 wp 7 ≠ 0 ∧ wp.exited ||| st.taking 0 0 wp 7 = 0xFFFFFFFF ∧
    unhindered st 0 0 wp { g := 0 } = true ∧ st.taking 0 0 wp 0 = 0 ∧
    (let m := (withW wd).taking 0 0 wd 1
     m ≠ 0 ∧ wd.exited ||| m ≠ 0xFFFFFFFF ∧ wd.active &&& ~~~ m ≠ 0) := by decide +kernel

/-- Context 0 with a handler. -/
def handled : State := { st with ctxs := [(0, { cx with traph := 0x20000 })] }
/-- Traps, SoftwareTraps: a warp outside trap mode with a handler named; one in trap mode; one with none; a context under termination; a regrouped warp and its home; a guard under which no lane takes part. -/
theorem witness_Traps :
    handled.warp 0 0 = some wp ∧ wp.isRegrouped = false ∧ wp.st ≠ .trap ∧ wp.flights = [] ∧ (handled.ctx (handled.ctxOf wp)).any (fun x => x.traph != 0) = true ∧
    ({ wp with st := .trap } : Warp).st = .trap ∧ st.frzCtl.trapen = false ∧ (st.ctx (st.ctxOf wp)).any (fun x => x.traph == 0) = true ∧
    (lanesOf (st.taking 0 0 wp 7)).head? = some 0 ∧ st.taking 0 0 wp 0 = 0 ∧
    (({ st with ctxs := [(0, { cx with terminating := some { reason := 4, since := 0 } })] } : State).ctx 0).any (fun x => x.terminating.isSome) = true := by decide +kernel
theorem witness_SoftwareTraps :
    (let s : State := { st with warps := [(0, wg), (homeKey 0 0, wp)], blocks := [(0, { blk with regroups := [⟨0x10008, 0x10040, 0x10010, [(0, 0xFFFFFFFF)], true, [], [0], []⟩] })] }
     s.warp 0 0 = some wg ∧ wg.isRegrouped = true ∧ ((s.dissolve wg.block).warp 0 (wg.homeOf 0 0)).any (fun h => !h.isRegrouped) = true) ∧
    (reads 0x581C0000000000A8).isSome = true := by decide +kernel

/-- TrapReturnAndControlRegisters: RFT in trap mode with TRAP.NPC kept and changed, not aligned, and outside trap mode; GETCTL and SETCTL with each value at the end of its range. -/
theorem witness_TrapReturnAndControlRegisters :
    (let w : Warp := { wp with st := .trap, traps := { npc := 0x10008, entryNpc := 0x10008 } }
     w.st = .trap ∧ w.traps.npc.toNat % 8 = 0 ∧ w.traps.npc = w.traps.entryNpc) ∧
    (0x10010 : Word64) ≠ 0x10008 ∧ (0x10001 : Word64).toNat % 8 ≠ 0 ∧ wp.st ≠ .trap ∧
    unhindered st 0 0 wp { g := 7, sdst := true } = true ∧ st.taking 0 0 wp 7 ≠ 0 ∧ st.block wp.block = some blk ∧ blk.hasSeq = true ∧ ({ blk with hasSeq := false } : Block).hasSeq = false ∧
    (let w : Warp := { wp with sregs := [(0, 4), (1, 5), (2, 31), (3, 32), (4, 1)] }
     ([0, 1, 2, 3, 4].map fun n => (withW w).readS 0 0 w (lowLane ((withW w).taking 0 0 w 7)) n) = [4, 5, 31, 32, 1]) := by decide +kernel

/-- LogAndClock: FELRD and CLOCK with their bits, a block with a sequencer and one without, a result in flight; a log whose fields are at their largest. -/
theorem witness_LogAndClock :
    unhindered st 0 0 wp { g := 7, sdst := true } = true ∧ st.taking 0 0 wp 7 ≠ 0 ∧ wp.flights = [] ∧ (0 : BitVec 7).getLsbD 0 = false ∧ (1 : BitVec 7).getLsbD 0 = true ∧ (0 : BitVec 7).getLsbD 1 = false ∧ (2 : BitVec 7).getLsbD 1 = true ∧
    (slot .s sq).block wp.block = some blk ∧ blk.hasSeq = true ∧ (slot .s sq).seq 0 = some sq ∧ ({ blk with hasSeq := false } : Block).hasSeq = false ∧ ({ wp with flights := [⟨5, 1, 0, []⟩] } : Warp).flights ≠ [] ∧
    (255 : Nat) < 256 ∧ (31 : Nat) < 32 ∧ (65535 : Nat) < 65536 := by decide +kernel

/-! Witnesses: memory, tiles, barriers, copies. -/

/-- A configuration: 8 GiB in each stack, scratch on both dies. -/
def bt : Boot := { pkgid := 3, hbmlen := List.replicate 12 8, scr0 := 1, scr1 := 1, brret := 0, debug := false, svn := 1, opp := [], hash := 0 }
/-- A leaf that maps the first GiB of virtual memory to the first GiB of die 0, readable, writable and executable. -/
def leaf : BitVec 128 := BitVec.ofNat 128 (0xF * 2 ^ 64)
/-- That leaf in a TLB. -/
def tlbE : TlbEntry := ⟨0, 0, 16384, leaf⟩
/-- A warp with addresses, counts and masks in its s registers. -/
def wq : Warp := { wp with sregs := [(0, 0x100000), (1, 0x100001), (2, 15), (3, 8), (4, 1), (5, 64), (6, 0x200000), (7, 127), (8, 0x300000), (9, 4096)] }
/-- The package with that warp acting, memory mapped by TLBs and by page tables at 0 and 0x50000. -/
def mw (w : Warp) : State := { withW w with
  boot := some bt, mem := [(2, 5), (8, 1), (0x50008, 0xF)], tlbDie := ([tlbE], [tlbE]), cores := [(0, { co with tlb := [tlbE] })] }
/-- The same about a device step. -/
def md (a : Arg) : State := { mw wq with cur := .none, arg := a }

/-- The conditions of SysActing, checked. -/
def sys (s : State) (w : Warp) (g : BitVec 4) : Bool :=
  unhindered s 0 0 w { g := g, sdst := true } && s.taking 0 0 w g != 0 && s.warp 0 0 == some w && (match s.cur with
    | .warp 0 0 => true
    | _ => false)
/-- The conditions of Reaches, checked for one place. -/
def reaches (s : State) (w : Warp) (f : MEM) (acc : Acc) (atomic : Bool) (st : Store) : Bool :=
  w.pxRes == [] && (!f.ord.getLsbD 1 || !s.postedOut 0 0) &&
  (lanesOf (s.taking 0 0 w f.g)).all fun l => (match s.meet (s.laneAgt 0 0 w l) acc f.sp.toNat (atomic || MEM.ordered f) (s.laneAddr 0 0 w f atomic l) (MEM.bytes f) with
    | .ok x => x == st
    | _ => false) && st.peers == [] && !s.severed (s.laneAgt 0 0 w l) st && !s.storeBusy st
/-- LD, ST and the rest at [s0 + 0x40], 4 bytes and 16 bytes. -/
def mf (sz : BitVec 3) : MEM := { g := 7, data := 20, base := 1, off := 0x40, sp := 1, sz := sz, ord := 0, scope := 0, sbd := 1 }
/-- The place those words reach. -/
def at40 (n : Nat) : Store := .mem [⟨0x100040, n, leaf⟩]
/-- WarpLoads, WarpStores, WarpAtomics: 4-byte and 16-byte accesses of all lanes to one place; an atomic of one lane; CCTL with DATA 0 and 1. -/
theorem witness_WarpLoads :
    (let s := mw wq
     reaches s wq (mf 2) .read false (at40 4) = true ∧ reaches s wq (mf 4) .read false (at40 16) = true ∧ MEM.ordered (mf 2) = false ∧ MEM.ordered { mf 2 with ord := 1 } = true ∧ s.storeBusy (at40 4) = false ∧ s.taking 0 0 wq 7 ≠ 0 ∧
     unhindered s 0 0 wq { g := 7, srcs := (baseSrc 1).toList, dsts := dataGroup 20 16 } = true ∧ unhindered s 0 0 wq { g := 7, srcs := (baseSrc 1).toList, sdst := true } = true ∧
     (match s.loadBytes (s.laneAgt 0 0 wq 0) true (at40 4) 4 with
      | (_, none) => true
      | _ => false) = true ∧
     (match s.meet (s.laneAgt 0 0 wq 0) .read 1 false (s.laneAddr 0 0 wq (mf 2) false 0) 1 with
      | .ok _ => true
      | _ => false) = true ∧ ({ mf 2 with data := 1 } : MEM).data = 1 ∧ (mf 2).data ≠ 1) := by decide +kernel
theorem witness_WarpStores :
    (let s := mw wq
     reaches s wq (mf 2) .write false (at40 4) = true ∧ reaches s wq (mf 4) .write false (at40 16) = true ∧ Memory.wf s.mem = true ∧ s.lines = [] ∧ pteKey leaf = 0 ∧
     unhindered s 0 0 wq { g := 7, srcs := (baseSrc 1).toList ++ groupSrcs (dataGroup 20 16) } = true) := by decide +kernel
/-- The same memory under key 1, with the sector of those accesses encrypted under key 2; and the second TiB of physical memory, on die 1. -/
def keyed : BitVec 128 := BitVec.ofNat 128 (0xF * 2 ^ 64 + 2 ^ 80)
def farLeaf : BitVec 128 := BitVec.ofNat 128 (2 ^ 40 + 0xF * 2 ^ 64)
def mwWith (e : BitVec 128) (w : Warp) : State :=
  { mw w with keys := [(1, 0), (2, 1)], seals := [(16385, ⟨2, 0, true, none⟩)], tlbDie := ([⟨0, 0, 16384, e⟩], [⟨0, 0, 16384, e⟩]), cores := [(0, { co with tlb := [⟨0, 0, 16384, e⟩] })] }
/-- WarpStores: one lane's store of 4 bytes of a sector whose integrity check fails, and of the place with nothing lost. -/
theorem witness_WarpStores_lost :
    (let w : Warp := { wq with active := 1 }
     let s := mwWith keyed w
     reaches s w (mf 2) .write false (.mem [⟨0x100040, 4, keyed⟩]) = true ∧ lanesOf (s.taking 0 0 w 7) = [0] ∧ pteKey keyed = 1 ∧ s.sealedBy 1 16385 = false ∧ coversSector 0x100040 4 16385 = false ∧
     sectorsOf 0x100040 4 = [16385] ∧ (mw w).sealedBy 0 16385 = true) := by decide +kernel
theorem witness_WarpStores_sector (h : Config.freeNew 0 (16385 + 2 ^ 100) = false) : (mwWith keyed wq).writeLost 1 0x100040 4 = [16385] := by
  have h1 : sectorsOf 0x100040 4 = [16385] := by decide +kernel
  have h2 : (mwWith keyed wq).sealedBy 1 16385 = false := by decide +kernel
  have h3 : coversSector 0x100040 4 16385 = false := by decide +kernel
  have h4 : (mwWith keyed wq).free = 0 := rfl
  simpa [State.writeLost, State.tagBad, State.misread, h1, h2, h3, h4] using h
/-- A warp with one active lane. -/
def w1 : Warp := { wq with active := 1 }
theorem witness_WarpAtomics :
    (let s := mw w1
     let f : MEM := { mf 2 with off := 0x40 }
     reaches s w1 f .atomic true (at40 4) = true ∧ s.crosses (s.laneAgt 0 0 w1 0) (at40 4) = false ∧
     (let t := mwWith farLeaf w1
      let far : Store := .mem [⟨0x100040 + 2 ^ 40, 4, farLeaf⟩]
      reaches t w1 f .atomic true far = true ∧ t.crosses (t.laneAgt 0 0 w1 0) far = true) ∧ s.taking 0 0 w1 7 = 1 ∧ lanesOf (s.taking 0 0 w1 7) = [0] ∧
     ((List.range 4).all fun i => (s.poisonFor (s.laneAgt 0 0 w1 0) false (pteKey leaf) (s.migTarget 0x100040 + i) 1).isNone) = true ∧
     unhindered s 0 0 w1 { g := 7, srcs := (baseSrc 1).toList ++ groupSrcs (dataGroup 20 4 ++ dataGroup 21 4), dsts := dataGroup 20 4 } = true) := by decide +kernel

/-- A word of the system group: DST s20, SA s2, SB s3, SC s4. -/
def sf (md : BitVec 7) (ty : BitVec 5) : RR := { g := 7, dst := 20, sa := 2, sb := 3, sc := 4, ty := ty, md := md, sbd := 1, us := 7 }
/-- A warp whose last map entry is free. -/
def we : Warp := { wq with tmap := [8, 9, 10, 11, 12, 13, 14, 0xFF] }
/-- Core 0 with tile 15 as given. -/
def tile15 (w : Warp) (t : Tile) : State := { mw w with cores := [(0, { co with tiles := (co.tiles.del 15).put 15 t, tlb := [tlbE] })] }
/-- TileExchange: tile 15 owned in entry 7, a receiver that exists and none, a sequencer and none, nothing in flight; entry 7 free with tile 15 takeable, with a write outstanding and with no tile given; the last tile for TOWN; no free tile, and a free tile of a bank that is on. -/
theorem witness_TileExchange :
    (let s := mw wq
     sys s wq 7 = true ∧ s.block wq.block = some blk ∧ RR.entry (sf 7 0) = 7 ∧ wq.entry 7 = 15 ∧ (s.tile 0 15).ownedBy 0 0 = true ∧ blk.slots[0]? = some 0 ∧ blk.slots[1]? = none ∧
     blk.hasSeq = true ∧ wq.inFlightTo 15 = 0 ∧ s.sysArg 0 0 wq 7 7 = BitVec.ofNat 64 127) ∧
    (let s := tile15 we { ctx := 0, hold := 0, st := .given }
     sys s we 7 = true ∧ we.entry 7 = 0xFF ∧ blk.abandoned = false ∧ s.sysArg 0 0 we 7 2 = BitVec.ofNat 64 15 ∧ (s.tile 0 15).st ≠ .free ∧ (s.tile 0 15).ctx = blk.ctx ∧
     (s.tile 0 15).takeable 0 0 s.clock = true ∧ s.givenTo 0 0 0 = some 15) ∧
    (let s := tile15 we { ctx := 0, hold := 0, st := .given, pend := 1 }
     (s.tile 0 15).takeable 0 0 s.clock = false) ∧
    (mw we).givenTo 0 0 0 = none ∧ ({ blk with abandoned := true } : Block).abandoned = true ∧
    (let s : State := { mw we with cores := [(0, { tiles := (List.range 128).map fun i => (i, { ctx := 0, hold := 0, st := .owned }) })] }
     s.freeTiles 0 = []) ∧
    (let s := mw we
     (s.freeTiles 0).head? = some 16 ∧ (s.bank 0 (16 / 8)).st = .on) := by decide +kernel
/-- The device steps of TileExchange: a TAKE that waits while its tile has become takeable; results that land, in an s register and in a tile given away; an SGIVE in effect. -/
theorem witness_TileExchange_steps :
    (let w : Warp := { we with st := .waiting, wait := some (.take (some 15) 7 20 1) }
     let s : State := { tile15 w { ctx := 0, hold := 0, st := .given } with cur := .none, arg := { core := 0, slot := 0 } }
     s.clocked = true ∧ s.warp 0 0 = some w ∧ w.st ≠ .suspended ∧ s.takeNow 0 (s.ctxOf w) 0 (some 15) = some 15) ∧
    (let w : Warp := { we with flights := [⟨5, 1, 0, [.sreg 3 1]⟩, ⟨6, 1, 0, [.elem 15 1023 ⟨1, none⟩]⟩] }
     let s : State := { tile15 w { ctx := 0, hold := 48, st := .given, pend := 1 } with cur := .none, arg := { core := 0, slot := 0, id := 6 } }
     s.warps.find (homeKey 0 0) = none ∧ (w.flights.find? fun y => y.id == s.arg.id && decide (y.due ≤ s.clock)) = some ⟨6, 1, 0, [.elem 15 1023 ⟨1, none⟩]⟩ ∧
     (w.flights.find? fun y => y.id == 5 && decide (y.due ≤ s.clock)) = some ⟨5, 1, 0, [.sreg 3 1]⟩ ∧ (s.tile 0 15).st = .given ∧ 0 < (s.tile 0 15).pend ∧ w.late = [] ∧ s.arg.ecc0 = {} ∧
     holds (exec .warpResultLands { s with arg := { s.arg with addr := 0x100047, ecc0 := { symbols := [3] } } }) (fun t => (t.tile 0 15).elems.getD 1023 {} == ⟨1, some 0x100040⟩) = true) ∧
    (let s : State := { tile15 wq { ctx := 0, hold := 48, st := .owned, giving := some (0, 4) } with cur := .none, arg := { core := 0, id := 15 } }
     (s.tile 0 15).giving = some (0, 4) ∧ s.sgiveReady 0 4 = true) := by decide +kernel

/-- FencesAndBarriers: fences at CORE and wider scope, with stores posted and copies in flight and without; an arrival that is not the last, one that is, with a warp waiting; phases before and at the latest arrival; an abandoned block; a watchdog whose period has run. -/
theorem witness_FencesAndBarriers :
    unhindered (mw wq) 0 0 wq { g := 7 } = true ∧ (mw wq).taking 0 0 wq 7 = wq.active ∧ wq.active ≠ 0 ∧ (mw wq).postedOut 0 0 = false ∧ (mw wq).copiesOf 0 0 = false ∧
    (({ mw wq with cores := [(0, { co with copies := [⟨1, 0, 0, 0, 0, 9, .bytes 0 0 0, false⟩] })] } : State).copiesOf 0 0) = true ∧
    (let f := sf 15 1
     let s := mw wq
     sys s wq 7 = true ∧ wq.wait = none ∧ s.warps.find (homeKey 0 0) = none ∧ (f.md.extractLsb' 0 4).toNat = 15 ∧ blk.abandoned = false ∧
     (blk.bar 15).arr + 1 ≠ f.ty.toNat + 1 ∧ (blk.bar 15).arr + 1 = (sf 15 0).ty.toNat + 1 ∧ (wq.barHeld.all fun e => e.1 != wq.pc) = true ∧ (blk.bar 15).phase ≤ (wq.lastPh.find 15).getD (blk.bar 15).phase ∧
     (let w : Warp := { wq with lastPh := [(15, 0)] }
      let b : Block := { blk with barriers := [(15, { phase := 1, arr := 0, exp := 2, arrived := 0 })] }
      (w.lastPh.find 15).getD (b.bar 15).phase < (b.bar 15).phase)) ∧
    (let v : Warp := { wp with idx := 1, st := .waiting, wait := some (.barrier 15 0 3) }
     let s : State := { mw wq with warps := [(0, wq), (47, v)], blocks := [(0, { blk with slots := [0, 47] })] }
     s.warp 0 47 = some v ∧ (47 : Nat) < 48 ∧ v.block = wq.block ∧ v.wait = some (.barrier 15 0 3)) ∧
    (let b : Block := { blk with wdog := 16, wdogStart := some 0, wdogPeriod := 0 }
     let s : State := { dev { id := 0 } with blocks := [(0, b)], clock := 65536 }
     s.clocked = true ∧ s.block s.arg.id = some b ∧ s.ctx b.ctx = some cx ∧ cx.terminating = none ∧ b.st = .resident ∧ b.wdog / 16 % 2 = 1 ∧ 0 + 65536 * 2 ^ b.wdogPeriod ≤ s.clock) := by decide +kernel
/-- FencesAndBarriers, TileExchange: a store to a peer that has been posted and not acknowledged; a BAR issued again after its wait was dropped. -/
theorem witness_FencesAndBarriers_posted : (outstanding (mw wq)).postedOut 0 0 = true ∧ sys (outstanding (mw wq)) wq 7 = true ∧ (outstanding (mw wq)).block wq.block = some blk ∧
    (({ wq with barHeld := [(wq.pc, 15)] } : Warp).barHeld.all fun e => e.1 != wq.pc) = false ∧ (mw wq).recent = [] := by decide +kernel

/-- A block with 64 tags of a core. -/
def blkT : Block := { blk with tagCount := 64 }
/-- The package with that block. -/
def tagged (w : Warp) : State := { mw w with blocks := [(0, blkT)] }
/-- CopiesAndTags: copies of 0 and of 2^24 bytes under the last tag; a tile loaded and stored; a tag past the block's; a lane missing; tags ready, idle and in flight; the tag past the last. -/
theorem witness_CopiesAndTags :
    (let s := tagged wq
     sys s wq 7 = true ∧ s.block wq.block = some blkT ∧ wq.active = wq.live ∧ ((63 : BitVec 7).extractLsb' 0 6).toNat < blkT.tagCount ∧ (s.tag 0 63).count < 255 ∧ (s.core 0).copies.length < 256 ∧
     (let g := s.copyIssueAgt 0 0 wq
      worstRange (s.regions g) [⟨0x300000, 4096, .read⟩, ⟨0x100000, 4096, .write⟩] = none ∧ (match s.firstPages 0 0 g [⟨0x300000, 4096, .read⟩, ⟨0x100000, 4096, .write⟩] with
        | .ok () => true
        | _ => false) = true ∧ worstRange (s.regions g) [⟨0x2000000, 2 ^ 24, .read⟩, ⟨0x1000000, 2 ^ 24, .write⟩] = none) ∧
     (match s.entryTile 0 0 wq 7 with
      | .ok 15 => true
      | _ => false) = true ∧ s.wakeBanks 0 [15] = none ∧
     (match s.tileRange 0 0 wq 63 0 0x100000 256 .read, s.tileRange 0 0 wq 63 0 0x100000 256 .write with
      | .ok (), .ok () => true
      | _, _ => false) = true) ∧
    blk.tagCount ≤ 0 ∧ w1.active ≠ w1.live ∧ sys (mw w1) w1 7 = true ∧
    (let s : State := { tagged wq with cores := [(0, { co with tags := [(0, { count := 1, ready := false }), (63, { count := 0, ready := true })] })] }
     (s.readyMap 0 wq &&& 1 = 0) ∧ s.tagsIdle 0 wq 1 = false ∧ s.readyMap 0 wq &&& 0x8000000000000000 ≠ 0 ∧ s.tagsIdle 0 wq 0x8000000000000000 = true ∧
     (s.readyMap 0 wq &&& 0x8000000000000000).getLsbD 63 = true ∧ ((List.range 63).all fun j => !(s.readyMap 0 wq &&& 0x8000000000000000).getLsbD j) = true) ∧
    (let b : Block := { blk with tagCount := 4 }
     (0x10 : Word64).getLsbD 4 = true ∧ b.tagCount ≤ 4) := by decide +kernel
/-- The last copy under a tag, of memory to memory, and one that fills a tile; a copy whose bytes have been sent. -/
theorem witness_CopiesAndTags_completion :
    ([(CopyWork.bytes 0x100000 0x200000 64), .load 15 0 0x100000 256].all fun (k : CopyWork) =>
      let x : Copy := ⟨1, 0, 0, 0, 3, 0, k, false⟩
      let s : State := { tagged wq with cur := .none, arg := { core := 0, id := 1 }, cores := [(0, { co with copies := [x], tags := [(3, { count := 1, ready := false })], tlb := [tlbE], tiles := (co.tiles.del 15).put 15 { ctx := 0, hold := 49, st := .filling } })] }
      s.clocked && (((s.readyCopies 0).find? fun y => y.id == s.arg.id) == some x) && Memory.wf s.mem &&
      (match s.reachAll (x.agt 0) .read x.work.parts.1, s.reachAll (x.agt 0) .write x.work.parts.2 with
       | .ok ss, .ok ds => (match s.pull (x.agt 0) x.id true ss with
         | .bytes _ => true
         | _ => false) && !x.sent && !s.workOut x.id && ds.all fun y => !s.severed (x.agt 0) y.2 && y.2.peers == [] && s.writeLost 0 0x200000 64 == []
       | _, _ => false)) = true ∧
    (let x : Copy := ⟨1, 0, 0, 0, 3, 0, .bytes 0x100000 0x200000 64, true⟩
     let s : State := { tagged wq with cur := .none, arg := { core := 0, id := 1 }, cores := [(0, { co with copies := [x], tags := [(3, { count := 1, ready := false })], tlb := [tlbE] })] }
     s.clocked = true ∧ ((s.readyCopies 0).find? fun y => y.id == s.arg.id) = some x ∧ x.sent = true) := by decide +kernel

/-! Witnesses: events, rings and streams. -/

/-- Operands: DST s20, SA s0, SB s3, SC s4. -/
def ef (md : BitVec 7) (ty : BitVec 5) : RR := { g := 7, dst := 20, sa := 0, sb := 3, sc := 4, ty := ty, md := md, sbd := 1, us := 7 }
/-- Bytes placed in memory. -/
def put (a : Nat) (bs : List Byte) (s : State) : State := s.setPhysBytes a bs
/-- The place of n bytes at an address. -/
def pl (a n : Nat) : Store := .mem [⟨a, n, leaf⟩]
/-- EventsAndPushes: a word that differs and one that does not; a warp on another core waiting on the word's line and one on another line; a queue past the last, one of another context, a full one, and one with room for one record. -/
theorem witness_EventsAndPushes :
    (let s := mw wq
     sys s wq 7 = true ∧ s.warps.find (homeKey 0 0) = none ∧ (0 : Nat) < 48 ∧ s.sysArg 0 0 wq 7 0 = 0x100000 ∧
     (match s.eventAt 0 0 wq 0 0x100000 with
      | .ok st => st == pl 0x100000 8 && (match s.warpPull 0 0 wq true (s.laneAgt 0 0 wq 0) 0x100000 8 st with
        | .ok (_, bs) => wordOf bs == 0
        | _ => false)
      | _ => false) = true ∧ (0 : Word64) ≠ s.sysArg 0 0 wq 7 3 ∧ (0 : Word64) = s.sysArg 0 0 wq 7 20) ∧
    (let v : Warp := { wp with st := .waiting, wait := some (.event 0x100040 (pl 0x100040 8) 0 20 3 none none false) }
     let s : State := { mw wq with warps := [(0, wq), (47, v), (46, { v with wait := some (.event 0x100080 (pl 0x100080 8) 0 20 3 none none false) })] }
     s.warp 0 47 = some v ∧ s.ctxOf v = blk.ctx ∧ lineOf (pl 0x100040 8) = lineOf (pl 0x100000 8) ∧ lineOf (pl 0x100080 8) ≠ lineOf (pl 0x100000 8)) ∧
    (4096 : Nat) ≤ 4096 ∧ ((mw wq).queues.getD 4095 {}).st = .disabled ∧
    (let q : Queue := { ringsize := 64, ctx := 0, st := .running, reserve := 64, head := 0 }
     q.ctx = blk.ctx ∧ q.st ≠ .disabled ∧ q.ringsize ≤ q.reserve - q.head ∧ ({ q with reserve := 63 } : Queue).reserve - q.head < q.ringsize ∧ (mw wq).postedOut 0 0 = false ∧ (outstanding (mw wq)).postedOut 0 0 = true) := by decide +kernel
/-- Waiting WAITEVs: at the end of their time, with a word that differs, and asked by a POSTEV; a record of QPUSH at the tail. -/
theorem witness_EventsAndPushes_steps :
    ([(some 9, (0 : Word64), false), (none, 5, false), (none, 0, true)].all fun x =>
      let w : Warp := { wp with st := .waiting, wait := some (.event 0x100040 (pl 0x100040 8) x.2.1 20 3 x.1 none x.2.2) }
      let s : State := { mw w with cur := .none, clock := 9, arg := { core := 0, slot := 0 } }
      s.clocked && s.warp 0 0 == some w && !w.isRegrouped && w.st != .suspended &&
      (x.1.isSome || (s.eventStirs 0 0 w && (match s.check (s.eventAgt 0 0 w) .read 0 0x100040 8 with
       | .ok here => here == pl 0x100040 8
       | _ => false) && (match s.pull (s.eventAgt 0 0 w) (warpWork 0 0) false [(⟨0, 0x100040, 8⟩, pl 0x100040 8)] with
       | .bytes bs => (bs.findSome? Prod.snd).isNone && (wordOf (bs.map Prod.fst) == x.2.1) == x.2.2
       | _ => false)))) = true ∧
    (let r : QPushRec := ⟨4095, 0, 0, bytes 64 1, false⟩
     let q : Queue := { ringbase := 0x200000, ringsize := 64, ctx := 0, st := .running, reserve := 1 }
     let s : State := { md { id := 4095, addr := 0 } with qpushes := [r], queues := [(4095, q)] }
     s.clocked = true ∧ (s.qpushes.find? fun x => x.queue == s.arg.id && x.pos == s.arg.addr && !x.written) = some r ∧ r.pos = q.tail ∧
     (match s.tkRange 0 .write (q.slotAt 0) 64 false with
      | .ok _ => true
      | _ => false) = true) := by decide +kernel

/-- A ring of 4 slots of 256 bytes, with its counters. -/
def ring (fclaim fill dclaim drain eos producers : Nat) : List Byte :=
  leBytes 8 0x200000 ++ leBytes 4 4 ++ leBytes 4 256 ++ leBytes 8 fclaim ++ leBytes 8 fill ++ leBytes 8 dclaim ++ leBytes 8 drain ++ leBytes 8 eos ++ leBytes 2 256 ++ leBytes 2 producers ++ leBytes 4 0
/-- The package with that ring at 0x100000. -/
def ringed (w : Warp) (b : List Byte) : State := put 0x100000 b (mw w)
/-- What a claim gives: a position, 2^64 for a closed ring, 2^64 + 1 for none yet. -/
def claims (s : State) (cons : Bool) : Nat := match (s.ringClaim 0 (pl 0x100000 64) cons).2 with
  | .pos n => n
  | .closed => 2 ^ 64
  | .wait => 2 ^ 64 + 1
/-- Rings: each role's claim with one position left, with none, and in a closed ring; posts not yet claimed, in their turn and already applied; the last end token; a counter. -/
theorem witness_Rings :
    (let e := 2 ^ 64 - 1
     let s := ringed wq (ring 3 1 0 0 e 1)
     sys s wq 7 = true ∧ (match s.structAt 0 0 wq 0 (s.sysArg 0 0 wq 7 0) 64 true .atomic with
       | .ok st => st == pl 0x100000 64
       | _ => false) = true ∧ s.postedOut 0 0 = false ∧
     claims s false = 3 ∧ claims (ringed wq (ring 4 1 0 0 e 1)) false = 2 ^ 64 + 1 ∧ claims (ringed wq (ring 4 1 0 0 4 0)) false = 2 ^ 64 ∧
     claims s true = 0 ∧ claims (ringed wq (ring 3 1 1 0 e 1)) true = 2 ^ 64 + 1 ∧ claims (ringed wq (ring 1 1 1 0 1 0)) true = 2 ^ 64 ∧
     s.postVoid 0 (pl 0x100000 64) .publish 3 = true ∧ s.postVoid 0 (pl 0x100000 64) .publish 0 = true ∧ s.postVoid 0 (pl 0x100000 64) .publish 1 = false ∧
     Memory.wf s.mem = true ∧ s.lines = [] ∧ s.severed (homeAgt 0 (pl 0x100000 8)) (pl 0x100000 8) = false ∧ s.rangePoison 0 [(0x100000, 64)] = none ∧ s.raced = [] ∧ (outstanding s).postedOut 0 0 = true ∧
     (s.loadBytes (homeAgt 0 (pl 0x100000 64)) false ((pl 0x100000 64).part 0x10 8) 8).2 = none ∧
     (match s.structAt 0 0 wq 0 (s.sysArg 0 0 wq 7 0) 8 false .atomic with
       | .ok st => st == pl 0x100000 8
       | _ => false) = true) := by decide +kernel
/-- A stream record of one row of 64 words into that ring, or into handle 7 of core 0. -/
def record (handle : Bool) (done : Nat) : List Byte :=
  leBytes 8 0x300000 ++ leBytes 2 64 ++ bytes 8 0 ++ [2, 1] ++ bytes 16 0 ++ leBytes 2 1 ++ leBytes 2 64 ++ [0, if handle then 4 else 0] ++ bytes 6 0 ++
  leBytes 8 (if handle then 0x700 else 0x100000) ++ leBytes 8 done
/-- The steps of Rings: claims of a waiting warp and of an engine; a held publish, release and end token whose turn it is. -/
theorem witness_Rings_steps :
    (let e := 2 ^ 64 - 1
     let w : Warp := { wq with st := .waiting, wait := some (.ring 0x100000 (pl 0x100000 64) false 20 1) }
     let s : State := { ringed w (ring 3 1 0 0 e 1) with cur := .none, arg := { ring := { a0.ring with who := .warp 0 0, desc := 0x100000, pos := 1 } }, ringHeld := [⟨0, 0x100000, pl 0x100000 64, .publish, 1⟩, ⟨0, 0x100000, pl 0x100000 64, .endToken, 0⟩] }
     s.clocked = true ∧ s.warp 0 0 = some w ∧ w.st ≠ .suspended ∧ claims s false = 3 ∧
     (s.ringHeld.find? fun y => y.ctx == s.arg.ring.ctx && y.desc == s.arg.ring.desc.toNat && y.op == .publish && y.pos == s.arg.ring.pos.toNat).isSome = true ∧
     s.fieldIn 0 (pl 0x100000 64) 0x18 8 = 1 ∧ (s.ringHeld.find? fun y => y.op == .endToken).isSome = true ∧ s.fieldIn 0 (pl 0x100000 64) 0x3A 2 = 1) ∧
    (let s : State := { ringed wq (ring 3 2 2 1 (2 ^ 64 - 1) 2) with cur := .none, arg := { ring := { a0.ring with who := .engine 23, desc := 0x100000, pos := 1 } }, ringHeld := [⟨0, 0x100000, pl 0x100000 64, .release, 1⟩], engines := [(23, [{ id := 9, ctx := 0, fields := record false 0 }])] }
     s.fieldIn 0 (pl 0x100000 64) 0x28 8 = 1 ∧ (s.ringHeld.find? fun y => y.op == .release && y.pos == s.arg.ring.pos.toNat).isSome = true ∧
     (s.claimReady 23).isSome = true ∧ (s.ringPlace { id := 9, ctx := 0, fields := record false 0 }) = .ok (pl 0x100000 64) ∧ claims s false = 3 ∧ s.raced.contains (pl 0x100000 64) = false ∧ s.rangePoison 0 [(0x100000, 64)] = none) := by decide +kernel

/-- A handle of one tile that an engine fills. -/
def h7 : Handle := { base := 0, n := 1, prodEng := true, consEng := false }
/-- The package with a sequencer that holds it. -/
def handled7 (s : State) : State := { s with cores := [(0, { co with tlb := [tlbE], seq := some { sq with handles := [(7, h7)] } })] }
/-- Streams: a record that passes, one whose element code is reserved, one whose ring's page is absent, a full engine; the item of a ring's slot before and after its bytes are sent, and a handle's claim and item; records that are over, without a counter and with one. -/
theorem witness_Streams :
    ([(record false 0, 0), (record true 0, 0), ((record false 0).set 0x12 6, 1)].all fun x =>
      let s := handled7 (put 0x300000 x.1 (ringed wq (ring 0 0 0 0 (2 ^ 64 - 1) 1)))
      sys s wq 7 && (match s.reachOne 0 0 (s.laneAgt 0 0 wq 0) .read 0 false 0x300000 64 0 with
       | .ok st => (match s.warpPull 0 0 wq true (s.laneAgt 0 0 wq 0) 0x300000 64 st with
         | .ok (t, bs) => (let r : StreamRec := { id := t.ids, ctx := 0, block := some 0, fields := bs }
            decide (t.newId.2.recordStatus r = x.2) && (t.newId.2.recordHeld r).isNone)
         | _ => false)
       | _ => false) && decide ((s.engine 23).length < 64)) = true ∧
    (0x300000 : Word64).toNat % 64 = 0 ∧
    (let s : State := { ringed wq (ring 0 0 0 0 (2 ^ 64 - 1) 1) with tlbDie := ([], []), ctxs := [(0, { cx with root := 0x700000, fmode := 1 })] }
     (s.recordHeld { id := 0, ctx := 0, block := some 0, fields := record false 0 }).isSome = true) ∧
    64 ≤ (({ mw wq with engines := [(11, List.replicate 64 { id := 0, ctx := 0, fields := [] })] } : State).engine 11).length := by decide +kernel
theorem witness_Streams_items :
    (let r : StreamRec := { id := 9, ctx := 0, fields := record false 0, claimed := [0], geom := (0x200000, 4, 256, 256) }
     let s : State := { ringed wq (ring 1 0 0 0 (2 ^ 64 - 1) 1) with cur := .none, arg := { id := 23 }, engines := [(23, [r])] }
     s.clocked = true ∧ s.itemReady 23 = some r ∧ r.toHandle = false ∧ r.stores = false ∧ r.sent = false ∧ s.ringPlace r = .ok (pl 0x100000 64) ∧ s.workOut r.id = false ∧
     (match s.reachAll (r.agt 23) .read (r.parts 0), s.reachAll (r.agt 23) .write (r.slotParts 0 (List.replicate r.shape.1 r.shape.2)) with
      | .ok ss, .ok ds => (match s.pull (r.agt 23) r.id false ss with
        | .bytes _ => true
        | _ => false) && ds.all fun y => !s.severed (r.agt 23) y.2 && y.2.peers == []
      | _, _ => false) = true) ∧
    (let r : StreamRec := { id := 9, ctx := 0, fields := record false 0, claimed := [0], sent := true }
     let s : State := { ringed wq (ring 1 0 0 0 (2 ^ 64 - 1) 1) with engines := [(23, [r])] }
     s.itemReady 23 = some r ∧ r.sent = true ∧ s.ringPlace r = .ok (pl 0x100000 64)) ∧
    ([([], true), ([0], false)].all fun (x : List Nat × Bool) =>
      let r : StreamRec := { id := 9, ctx := 0, fields := record true 0, claimed := x.1, owner := some 0 }
      let s0 : State := { handled7 (mw wq) with cur := .none, arg := { id := 0 }, engines := [(0, [r])] }
      let s : State := if x.2 then s0 else { s0 with cores := [(0, { s0.core 0 with tiles := (co.tiles.del 0).put 0 { ctx := 0, hold := 50, st := .filling } })] }
      s.itemReady 0 == some r && r.toHandle && !r.stores && (s.targetHandle r).map Prod.snd == some h7 && (s.nextSlot r h7 == if x.2 then some 0 else none) &&
      (x.2 || ((s.tile r.core (h7.tileAt h7.fp)).st == .filling && (s.tile r.core (h7.tileAt h7.fp)).hold == 50 && (match s.reachAll (r.agt 0) .read (r.parts 0) with
       | .ok ss => (match s.pull (r.agt 0) r.id false ss with
         | .bytes _ => true
         | _ => false)
       | _ => false)))) = true ∧
    (let r : StreamRec := { id := 9, ctx := 0, fields := record false 0x200000, item := 1 }
     let s : State := { mw wq with cur := .none, arg := { id := 0 }, engines := [(0, [r])] }
     s.recordOver 0 = some r ∧ r.done ≠ 0 ∧ s.endPlace r = .ok (.mem []) ∧ s.placeAt 0 .atomic r.done.toNat 8 true = .ok (pl 0x200000 8) ∧ s.raced = [] ∧
     s.severed (homeAgt 0 (pl 0x200000 8)) (pl 0x200000 8) = false ∧ (s.loadBytes (homeAgt 0 (pl 0x200000 8)) false ((pl 0x200000 8).part 0 8) 8).2 = none) ∧
    (let r : StreamRec := { id := 9, ctx := 0, fields := record false 0, item := 1 }
     ({ mw wq with engines := [(0, [r])] } : State).recordOver 0 = some r ∧ r.done = 0 ∧ (mw wq).endPlace r = .ok (.mem [])) := by decide +kernel

/-! Witnesses: signatures, tasks and the words of collectives. -/

/-- n bytes, zero but where a field (offset, length, value) lies. -/
def lay (n : Nat) (xs : List (Nat × Nat × Nat)) : List Byte := xs.foldl (fun b x => b.take x.1 ++ leBytes x.2.1 x.2.2 ++ b.drop (x.1 + x.2.1)) (bytes n 0)
/-- A signature record: its own dimensions in order, leaves of 2 elements along dimension 0. -/
def sigRec (timing minchunk : Nat) : List Byte := lay 64 ([(0, 4, 0x2C688), (5, 1, timing), (6, 2, minchunk), (8, 2, 1), (0x10, 4, 2)] ++ (List.range 5).map fun i => (0x14 + 4 * i, 4, 1))
/-- A launch of a kind over a space of 4 by 1 by … elements of one cell each. -/
def sewn (kind : Nat) (cancelled : Bool) : Launch :=
  { ctx := 0, queue := 0, lpb := 0x230100, header := 0, cancelled := cancelled,
    fields := lay 256 ([(0x2C, 1, kind), (0x38, 8, 0x220000), (0x40, 1, 1), (0xA0, 8, 0x210000), (0xC0, 4, 4), (0xDE, 2, 8), (0xE0, 2, 2), (0xE8, 8, 0x230000)] ++ (List.range 5).map fun i => (0xC4 + 4 * i, 4, 1)) }
/-- A warp whose group s16 names the first leaf; s24 to s31 hold nothing. -/
def ws (hi : Nat) : Warp := { wq with sregs := wq.sregs ++ [(20, pair32 hi 1), (21, pair32 1 1), (22, pair32 1 1)] }
/-- A word of the system group with its operand in s16 and its result in s32. -/
def gf : RR := { g := 7, dst := 32, sa := 16, sb := 1, sc := 2, ty := 0, md := 0, sbd := 1, us := 7 }
/-- A block of that launch: its header, and the leaves it holds. -/
def blkS (header : Word64) (chunk : List Leaf) (abandoned : Bool) : Block := { blk with header := header, chunk := chunk, abandoned := abandoned }
/-- The package with that launch, the sewing map at 0x210000 as given, a signature at 0x220000 and one staged. -/
def sewnS (w : Warp) (b : Block) (l : Launch) (map : Byte) (stage : List Byte) : State :=
  put 0x210000 [map] (put 0x220000 (sigRec 0 1) (put 0x230000 stage { mw w with blocks := [(0, b)], launches := [(0, l)] }))
/-- The first leaf of the space. -/
def leaf0 : Leaf := { org := [0, 0, 0, 0, 0, 0], ext := [2, 1, 1, 1, 1, 1], gen := 0 }
/-- The conditions of sigFree, checked. -/
def sigFree (s : State) (w : Warp) (reads writes : List (Nat × Nat)) : Bool :=
  (s.structsAt 0 0 w (lowLane (s.taking 0 0 w 7)) .atomic (reads ++ writes)).isNone && (s.rangePoison (s.ctxOf w) reads).isNone
/-- Signatures: an abandoned block; a cached leaf; no open cell, some claimed and all done; open cells; a box all claimed, one that is not; a tuner with a record staged that keeps R223, and one that does not; a launch of KIND 0. -/
theorem witness_Signatures :
    (let b := blkS 0x6E77000000800030 [] false
     let l := sewn 1 false
     let s := sewnS (ws 2) b l 0x05 (sigRec 0 1)
     let x := s.groupBox 0 0 (ws 2) 0 16
     sys s (ws 2) 7 = true ∧ s.block (ws 2).block = some b ∧ s.launches.find b.launch = some l ∧ l.kind = 1 ∧ l.cancelled = false ∧ (s.maskNow l).getLsbD b.core = true ∧
     s.boxClaimed l x = true ∧ (((l.leafCells x).foldl (fun (s : State) i => s.setCell l i 2) s).sigOf l).timing = false ∧ b.header.getLsbD 23 = true ∧
     l.boxOk x = true ∧ l.boxOk (s.groupBox 0 0 (ws 9) 0 16) = false ∧ s.timingRanges l = [] ∧
     ([([l.recRange, l.mapRange], []), ([l.recRange], []), (l.recRange :: l.boxRanges x, []), ((s.timingRanges l).dropLast, s.timingRanges l), ([], [(l.sigstg, 64)]),
       ([(l.sigstg, 64)], [l.recRange, (l.lpb.toNat + 0xE4, 4)])].all fun y => sigFree s (ws 2) y.1 y.2) = true ∧
     (let l1 : Launch := { l with fields := l.fields.take 0xA8 ++ leBytes 8 0x260000 ++ leBytes 8 64 ++ l.fields.drop 0xB8 }
      let s1 := sewnS (ws 2) b l1 0x05 []
      let t1 := put 0x220000 (sigRec 1 1) s1
      (t1.sigOf l1).timing = true ∧ (t1.timingRanges l1).length = 2 ∧ sigFree t1 (ws 2) (t1.timingRanges l1).dropLast (t1.timingRanges l1) = true) ∧
     s.tkRead 0 l.sigstg 64 = some (sigRec 0 1) ∧ Sig.ok ⟨sigRec 0 1⟩ l = true ∧ Sig.ok ⟨sigRec 0 0⟩ l = false ∧
     ((s.claimRow 0 (s.sigOf l) (s.chunkCount 0 l (s.sigOf l))).2.map fun (h : Leaf) => (h.org, h.ext)) = [([2, 0, 0, 0, 0, 0], [2, 1, 1, 1, 1, 1])]) ∧
    (let s := sewnS (ws 3) (blkS 0 [leaf0] true) (sewn 1 true) 0x05 (sigRec 0 0)
     s.boxClaimed (sewn 1 true) (s.groupBox 0 0 (ws 3) 0 16) = false ∧ (blkS 0 [leaf0] true).abandoned = true ∧ (blkS 0 [leaf0] true).chunk = [leaf0] ∧
     (blkS 0 [leaf0] true).header.getLsbD 23 = false ∧ s.tkRead 0 (sewn 1 true).sigstg 64 = some (sigRec 0 0) ∧ (sewn 0 false).kind ≠ 1) ∧
    ([0x55, 0xAA].all fun (m : Byte) =>
      let l := sewn 1 false
      let s := sewnS (ws 2) (blkS 0 [] false) l m []
      let r := s.claimRow 0 (s.sigOf l) (s.chunkCount 0 l (s.sigOf l))
      r.2.isEmpty && (((List.range l.cellCount).any fun i => r.1.cell l i == 1) == (m == 0x55))) = true := by decide +kernel

/-- A task record: its stream, state tiles, and whether its reserved field at 0x38 is set. -/
def taskRec (stream tiles bad : Nat) : List Byte := lay 64 [(0, 8, 11), (8, 8, 12), (0x20, 4, stream), (0x24, 1, tiles), (0x38, 8, bad)]
/-- A block of a task launch with up to 8 tiles a warp. -/
def blkK : Block := { blk with header := 0x6E77000000400010 }
/-- Context 0 with a carafe of 4 streams at 0x240000. -/
def cxK : Ctx := { cx with carafeBase := 0x240000, carafeCount := 4 }
/-- A warp with the queue number in s16 and the record's address in s1. -/
def wk (q : Nat) (t : Option TaskHeld) : Warp := { wq with sregs := [(16, BitVec.ofNat 64 q), (1, 0x220000)], task := t }
/-- The package with a task queue 8 and 9 of context 0, queue 10 of none. -/
def taskS (w : Warp) (b : Block) (rec : List Byte) (recs : List Word64) : State :=
  put 0x220000 rec { mw w with ctxs := [(0, cxK)], blocks := [(0, b)], launches := [(0, sewn 2 false)], taskQ := [(8, { ctx := some 0, records := recs }), (9, { ctx := some 0 })] }
/-- A task held. -/
def heldT (tiles : Nat) (ph : TaskPhase) : TaskHeld := { record := 0x220000, fields := taskRec 1 tiles 0, queue := 8, phase := ph, dst := 32, sbd := 1 }
/-- TaskRec: TASKPUT to queues that are not the context's, of a misaligned, a bad and a good record; TASKGET with no ready task, of a task that cannot run, one without state and one with; TASKEND with state and without. -/
theorem witness_TasksAndCarafe :
    (let s := taskS (wk 8 none) blkK (taskRec 1 0 0) []
     sys s (wk 8 none) 7 = true ∧ s.block (wk 8 none).block = some blkK ∧ (s.sysArg 0 0 (wk 8 none) 7 16).toNat = 8 ∧ (s.taskQueue 8).ctx = some blkK.ctx ∧ (s.taskQueue 10).ctx ≠ some blkK.ctx ∧ s.postedOut 0 0 = false ∧
     (match s.reachOne 0 0 (s.tkIssueAgt 0 0 (wk 8 none)) .read 0 false 0x220000 64 0 with
       | .ok st => placeOk false st && (match s.warpPull 0 0 (wk 8 none) true (s.laneAgt 0 0 (wk 8 none) 0) 0x220000 64 st with
         | .ok (_, bs) => bs == taskRec 1 0 0
         | _ => false)
       | _ => false) = true ∧ taskRecordOk (taskRec 1 0 0) = true ∧ taskRecordOk (taskRec 1 0 1) = false ∧ (0x220001 : Word64).toNat % 64 ≠ 0 ∧ (s.taskQueue 8).records.length < 4096 ∧
     s.chooseTask 0 8 2 = none ∧ (wk 8 none).active = (wk 8 none).live ∧ blkK.header.getLsbD 22 = true ∧ blk.header.getLsbD 22 = false ∧ fieldAt (sewn 2 false).fields 0xDE 2 = 8 ∧ fieldAt (sewn 2 false).fields 0xE0 2 = 2) ∧
    ([(taskRec 1 0 0, false), (taskRec 1 2 0, false), (taskRec 1 9 0, true), (taskRec 5 1 0, true)].all fun x =>
      let w := wk 8 none
      let s := taskS w blkK x.1 [0x220000]
      let ranges := (s.queuedRecords 0 8 2).map fun (r : Word64) => (r.toNat, 64)
      ranges.length == 1 && (s.structsAt 0 0 w 0 .read ranges).isNone && (s.rangePoison 0 ranges).isNone &&
      (match s.chooseTask 0 8 2 with
       | some t => (s.badTask blkK t == x.2) && (x.2 || (match s.stateTiles 0 0 w (fieldAt t.fields 0x24 1) with
         | .ok ts => ts == (List.range (fieldAt t.fields 0x24 1)).map (· + 8)
         | _ => false))
       | none => false)) = true ∧
    ([0, 1].all fun n =>
      let w := wk 8 (some (heldT n .held))
      let s := taskS w blkK (taskRec 1 n 0) []
      sys s w 7 && (w.task == some (heldT n .held)) && (match s.stateTiles 0 0 w (heldT n .held).stiles with
        | .ok ts => ts.length == n && ts.all fun t => w.inFlightTo t == 0
        | _ => false) && !s.postedOut 0 0 && (s.warps.find (homeKey 0 0)).isNone && (heldT n .held).field 0x18 8 == 0) = true := by decide +kernel
/-- The carafe's two steps of a task with one state tile. -/
theorem witness_TasksAndCarafe_steps :
    ([TaskPhase.loading, .writing].all fun ph =>
      let h := heldT 1 ph
      let w : Warp := { wk 8 (some h) with st := .waiting, wait := some .task }
      let s : State := { taskS w blkK (taskRec 1 1 0) [] with cur := .none, arg := { core := 0, slot := 0 } }
      let g := carafeAgt 0 (s.ctxOf w)
      s.clocked && (s.warps.find (homeKey 0 0)).isNone && (s.taskMoving 0 0 ph == some (w, h)) &&
      (match s.reachAll g .read (s.carafeParts 0 h), s.reachAll g .write (s.carafeParts 0 h) with
       | .ok ss, .ok ds => (match s.pull g (warpWork 0 0) false ss with
         | .bytes _ => true
         | _ => false) && ds.all fun y => !s.severed g y.2 && y.2.peers == []
       | _, _ => false) && !h.sent && !s.workOut (warpWork 0 0) && h.field 0x18 8 == 0 &&
      (match s.reachAll { g with work := warpWork 0 0 } .write (s.carafeParts 0 h) with
       | .ok ds => ds.all fun y => !s.severed { g with work := warpWork 0 0 } y.2 && y.2.peers == []
       | _ => false)) = true := by decide +kernel

/-- A collective's descriptor: a broadcast of one element under key 5, its record at 0x230000. -/
def collDesc (dom : Nat) : List Byte := lay 64 [(0, 8, 5), (8, 8, 0x240000), (0x10, 8, 0x250000), (0x18, 8, 1), (0x20, 2, dom), (0x22, 1, 3), (0x30, 8, 0x230000)]
/-- Domain 2 of context 0: this package is rank 0 of two, the collator is rank 1. -/
def dm : Domain := { ctx := 0, domid := 2, jobid := 9, m := 2, rank := 0, rtab := [3, 4], digest := 0, collator := 1 }
/-- A warp that names a descriptor and, in s0, a record. -/
def wc : Warp := { wq with sregs := [(0, 0x230000), (16, 0x220000)] }
/-- The package in that domain. -/
def collS (dom : Nat) (status : Byte) (closed : Bool) : State := put 0x220000 (collDesc dom) (put 0x230000 (bytes 6 0 ++ [status] ++ bytes 9 0) { mw wc with domains := [{ dm with closed := closed }] })
/-- CollectiveWords: a descriptor of a domain that is open, closed, not defined; a record complete and pending. -/
theorem witness_CollectiveWords :
    ([2, 7].all fun n =>
      let s := collS n 0 false
      sys s wc 7 && (match s.globalRead 0 0 wc false 0 0x220000 64 with
       | .ok (t, bs) => bs == collDesc n && !t.postedOut 0 0 && (match t.globalAt 0 0 wc 0 .write 0x230000 16 with
         | .ok st => st.peers == []
         | _ => false) && ((s.dom 0 (fieldAt bs 0x20 2)).isSome == (n == 2)) && fieldAt bs 0x28 8 == 0
       | _ => false)) = true ∧
    (collS 2 0 false).dom 0 2 = some dm ∧ dm.closed = false ∧ (collS 2 0 true).dom 0 2 = some { dm with closed := true } ∧ dm.collator ≠ dm.rank ∧ dm.members = [] ∧ dm.closing = [] ∧
    ([0, 0xFF].all fun (b : Byte) => match (collS 2 b false).globalRead 0 0 wc false 0 0x230000 16 with
      | .ok (_, bs) => fieldAt bs 6 1 == b.toNat
      | _ => false) = true ∧
    ([2, 7].all fun n => match (collS n 0 false).globalRead 0 0 wc true 0 0x220000 64 with
      | .ok (t, bs) => (t.dom 0 (fieldAt bs 0x20 2)).isSome == (n == 2)
      | _ => false) = true := by decide +kernel

/-! Witnesses: the sequencer's slots. -/

/-- A sequencer with x0 to x5, l0 = 0 and l1 = 1 and l2 = 2, q1 true, m0 all ones, m1 mixed, a handle of each kind and one at each end. -/
def sx : Seq := { sq with
  xs := [(1, 0x100000), (2, 256), (3, 5), (4, 0x0203), (5, 6)], ls := [(1, 1), (2, 2)], qs := [(1, true)], ms := [(0, BitVec.allOnes 1024), (1, 1)],
  handles := [(1, ⟨0, 2, false, false, 0, 0, 0⟩), (2, ⟨2, 2, false, false, 2, 0, 0⟩), (3, ⟨4, 1, true, true, 0, 0, 0⟩)] }
/-- Words of format RR, RI and BR in a slot, their guard q7 and q1. -/
def xf (dst sa sb : BitVec 8) : RR := { g := 7, dst := dst, sa := sa, sb := sb, sc := 0, ty := 0, md := 0, sbd := 0, us := 0 }
/-- ScalarSlot: equal and unequal registers; a handle, a handle of no number; counts at their ends; an owned and a foreign tile, an abandoned block; control registers at the bounds; each kind of branch, with its return stack empty and full. -/
theorem witness_ScalarSlot :
    (let s := slot .s sx
     let b := sx.before
     (s.seq 0 = some sx ∧ s.qGuard b 7 = true ∧ s.qGuard b 15 = false ∧ s.xReg b 3 ≠ s.xReg b 4 ∧ s.xReg b 0 = 0 ∧ s.xReg b 3 ≠ 0 ∧
     xOk 3 = true ∧ xOk 0x41 = false ∧ qOk 0x41 = true ∧ qOk 3 = false ∧ (b.handles.find 1).isSome = true ∧ b.handles.find 0 = none)) := by decide +kernel
/-- HSET of h0 with base 3, 2 slots (x4), and of none (x3: base 5, 0 slots). -/
theorem witness_ScalarSlot_handles :
    (let s := slot .s sx
     let b := sx.before
     (s.xReg b 4).extractLsb' 0 7 = 3 ∧ (s.xReg b 4).extractLsb' 8 6 = 2 ∧ (s.xReg b 3).extractLsb' 8 6 = 0 ∧ b.claimsOn 0 = 0 ∧ b.mloop = none ∧
     ([3, 4].all fun t => s.seqOwns 0 (s.seqCtx b) t) = true ∧
     (let h : Handle := ⟨0, 2, false, false, 0, 0, 0⟩
      h.free = 2 ∧ h.filled = 0 ∧ h.prodEng = false ∧ h.consEng = false) ∧
     (let h : Handle := ⟨2, 2, false, false, 2, 0, 0⟩
      h.free = 0 ∧ h.filled = 2) ∧
     (s.seqOwns 0 0 7 = true ∧ 7 ∉ b.ringTiles none ∧ s.seqOwns 0 0 8 = false ∧ (s.tile 0 8).st ≠ .free ∧ (s.tile 0 16).st = .free ∧ s.seqOwns 0 0 16 = false ∧
     s.block b.block = some blk ∧ blk.hasSeq = true ∧ blk.slots[0]? = some 0 ∧ blk.abandoned = false ∧ (s.xReg b 0).toNat ≤ 4 ∧ 4 < (s.xReg b 3).toNat)) := by decide +kernel
/-- The B slot's branches. -/
theorem witness_ScalarSlot_branches :
    (let s := slot .b sx
     let b := sx.before
     b.lReg 0 = 0 ∧ b.lReg 1 = 1 ∧ b.lReg 2 ≠ 0 ∧ b.lReg 2 ≠ 1 ∧ s.mReg b 0 = BitVec.allOnes 1024 ∧ s.mReg b 1 ≠ BitVec.allOnes 1024 ∧ s.mReg b 1 ≠ 0 ∧ s.mReg b 2 = 0 ∧
     s.qReg b 1 = true ∧ s.qReg b 2 = false ∧ sx.rstack = [] ∧ sx.arrived = none ∧ sx.hdr.getLsbD 31 = false ∧ (∀ p ∈ [0, 1], ∀ e ∈ [0, 63], b.latch p e < 256)) ∧
    (let q : Seq := { sx with rstack := List.replicate 8 0, arrived := some 0 }
     (slot .b q).seq 0 = some q ∧ 8 ≤ q.rstack.length ∧ q.arrived.isSome = true ∧ ({ q with rstack := q.rstack.tail } : Seq).rstack.length < 8 ∧ q.rstack = 0 :: List.replicate 7 0) ∧
    ({ blk with abandoned := true } : Block).abandoned = true ∧ ({ sx with hdr := 0x80000000 } : Seq).hdr.getLsbD 31 = true := by decide +kernel

/-- The package with a sequencer over mapped memory and 1 MiB of shared storage. -/
def slotM (sl : Slot) (q : Seq) : State := { mw wq with
  cur := .slot 0 sl, cores := [(0, { co with seq := some q, tlb := [tlbE] })], blocks := [(0, { blk with shSize := 0x100000 })] }
/-- A word of format MEM: data t6 or x6, base x1. -/
def xm (sp sz ord : Nat) : MEM := { g := 7, data := 6, base := 1, off := 0, sp := BitVec.ofNat 3 sp, sz := BitVec.ofNat 3 sz, ord := BitVec.ofNat 2 ord, scope := 0, sbd := 0 }
/-- A sequencer whose base is in shared storage. -/
def sh : Seq := { sx with xs := [(1, 0), (2, 256)] }
/-- Is this a value? -/
def ok {α : Type} (r : Except SErr α) : Bool := match r with
  | .ok _ => true
  | .error _ => false
/-- ScalarMemoryAndCopies: a place in SHARED and one in memory; a copy's rows in memory and in SHARED; a load's destination, a tile's source and destination with their ports; a table of row addresses in SHARED. -/
theorem witness_ScalarMemoryAndCopies :
    (let s := slotM .s sx
     let b := sx.before
     s.seq 0 = some sx ∧ s.qGuard b 7 = true ∧
     ([(Acc.read, 1, 2, 0), (.read, 1, 4, 1), (.write, 1, 2, 2)].all fun x => match s.xWhere 0 b (xm x.2.1 x.2.2.1 x.2.2.2) x.1 with
       | .ok (.mem [p]) => p.pa == 0x100000 && p.len == 2 ^ x.2.2.1
       | _ => false) = true ∧ inSharedWindow 1 0x100000 = false ∧ sx.c0.length < 128 ∧ sx.c1.length < 128 ∧
     ok (s.copyRows 0 b (xm 1 0 0)) = true ∧ (match s.loadDest 0 b 6 s.ids, s.loadDest 0 b 0x81 s.ids with
       | .ok (t, false, _), .ok (u, true, _) => t == 6 && u == 0
       | _, _ => false) = true ∧
     (match s.srcTile 0 b 0 0, s.dstTile 0 b 6 0 with
       | .ok a, .ok d => ok (s.reserve 0 [(s.clock, a)] []) && ok (s.reserve 0 [] [(s.clock + 7, d)]) && ok (s.reserve 0 [(s.clock, a)] [(s.clock + 3, d)])
       | _, _ => false) = true) ∧
    (let s := slotM .s sh
     let b := sh.before
     (match s.xWhere 0 b (xm 2 2 0) .read, s.xWhere 0 b (xm 2 2 0) .write with
       | .ok (.shared 0 0), .ok (.shared 0 0) => true
       | _, _ => false) = true ∧ (((s.sharedAhead 0 b (s.clock + 4)).loadBytes (s.seqAgt 0 b) false (.shared 0 0) 4).2) = none ∧ inSharedWindow 2 0 = true ∧
     ok (s.copyRows 0 b (xm 2 0 0)) = true ∧ (s.xReg b 1 + 0).toNat % 8 = 0 ∧ (match s.resolve (s.seqAgt 0 b) 2 0 128 with
       | .ok (.shared 0 0) => true
       | _ => false) = true ∧
     (((s.afterSlotWrites 0 b).bytesWithPoison (s.seqAgt 0 b) false (.shared 0 0) 128).all fun x => x.2.isNone) = true ∧ ok (s.gatherRows (s.seqAgt 0 b) 1 (List.replicate 16 0)) = true) := by decide +kernel
/-- The steps: a fence, a store, a load of x and of a tile at the head of C0; a claim whose data is in place. -/
theorem witness_ScalarMemoryAndCopies_steps :
    ([QWork.fence 0, .xstore [1, 2, 3, 4] (.mem [⟨0x100000, 4, leaf⟩]) 0x100000 false 0, .xload 6 4 (.mem [⟨0x100000, 4, leaf⟩]) 0x100000 false 0 false,
        .load 0 1 6 false ((List.range 16).map fun i => BitVec.ofNat 64 (0x100000 + 256 * i))].all fun x =>
      let e : QEntry := ⟨5, 0, 0x20000, 0, x, false⟩
      let q : Seq := { sx with c0 := [e] }
      let s : State := { slotM .s q with cur := .none, arg := { core := 0, id := 0 } }
      let g := { s.queueAgt 0 0 q with work := e.id }
      s.clocked && (s.readyEntry 0 0 == some e) && !e.sent && !s.workOut e.id && Memory.wf s.mem && s.lines.isEmpty && (s.writeLost (pteKey leaf) (s.migTarget 0x100000) 4 == []) && (match x with
        | .xload _ _ st a _ _ _ => (match s.pull g 5 true [(⟨0, a, 4⟩, st)] with
          | .bytes bs => (bs.findSome? Prod.snd).isNone
          | _ => false)
        | .load _ sp _ _ rows => (match s.reachAll g .read (rows.map fun a => ⟨sp, a, (tileRowsOf 0).2⟩) with
          | .ok sts => (match s.pull g 5 true sts with
            | .bytes _ => true
            | _ => false)
          | _ => false)
        | .xstore _ st _ _ _ => !s.severed g st
        | _ => true)) = true ∧
    (let q : Seq := { sx with claims := [{ id := 5, handle := 1, tile := 0, done := true }] }
     let s : State := { slotM .s q with cur := .none, arg := { core := 0, id := 1 } }
     s.clocked = true ∧ ((q.claims.find? fun x => x.handle == 1).isSome && (q.handles.find 1).isSome) = true) := by decide +kernel

/-- A word of format TILE. -/
def tw (dt ta tb tc : BitVec 8) (ty : BitVec 5) (md : BitVec 8) : TILE := { g := 7, dt := dt, ta := ta, tb := tb, tc := tc, ty := ty, ax := 0, md := md, hd := 0 }
/-- Slot sl of a sequencer that owns tiles of two banks acts. -/
def slot2 (sl : Slot) (q : Seq) : State := { slot sl q with cores := [(0, { tiles := owned 0 48 ++ owned 8 0 ++ owned 16 48, seq := some q })] }
/-- The conditions of VReady, checked: sources among tiles 0, 1 and 16, which hold no poison. -/
def vready (s : State) (sl : Slot) (q : Seq) (f : TILE) (srcs : List (BitVec 8)) (lat : Nat) : Bool :=
  decide ((if pipeOf sl = 0 then q.busyV0 else q.busyV1) ≤ s.clock) && (match s.vSrcs 0 q.before f.hd.toNat srcs, s.dstTile 0 q.before f.dt f.hd.toNat with
    | .ok ts, .ok d => ok (s.reserve 0 (readsAt s.clock ts) [(s.clock + lat - 1, d)]) && ts.all fun t => [0, 1, 16].contains t
    | _, _ => false)
/-- VectorSlot: words of no, one, two and three source tiles of every latency, in both slots; compares and VMAXE; a pipeline taken; poison in an element selected. -/
theorem witness_VectorSlot :
    ([Slot.v0, .v1].all fun sl =>
      let s := slot2 sl sx
      (s.seq 0 == some sx) && s.qGuard sx.before 7 && vready s sl sx (tw 6 0 1 16 8 0) [0, 1, 16] 4 && vready s sl sx (tw 6 0 1 0 8 0) [0, 1] 4 &&
      ([4, 6, 8, 10, 12].all fun n => vready s sl sx (tw 6 0 0 0 8 0) [0] n) && vready s sl sx (tw 6 0 0 0 0 0) [] 4 &&
      ok (s.reserve 0 (readsAt s.clock [0, 6]) [(s.clock + 3, 6)]) && ok (s.reserve 0 (readsAt s.clock [0, 1]) []) && (match s.reserve 0 (readsAt s.clock [0]) [] with
        | .ok u => (u.seq 0).isSome
        | _ => false) && decide (sx.busySU0 ≤ s.clock) && decide (sx.busySU1 ≤ s.clock)) = true ∧
    ([0, 1, 16].all fun t => ((slot2 .v0 sx).seqTile 0 sx.before t).all fun x => x.poison.isNone) = true ∧ ty32 8 = true ∧ ty32 9 = false ∧ tyFlt 8 = true ∧ tyFlt 0 = false ∧
    (let q : Seq := { sx with busyV0 := 1 }
     (slot .v0 q).clock < q.busyV0) ∧
    (let s : State := { slot .v0 sx with cores := [(0, { co with seq := some sx, tiles := (co.tiles.del 0).put 0 { ctx := 0, hold := 48, st := .owned, elems := [(0, { bits := 0, poison := some 3 })] } })] }
     ((List.range 1024).findSome? fun i => ((s.seqTile 0 sx.before 0).getD i {}).poison) = some 3 ∧ s.selects sx (tw 6 0 0 0 8 0) = List.range 1024) := by decide +kernel

/-- MatrixSlot: one step, with scales and without, MZERO and MSTAT, a loop of one step and of three; a taken engine; a loop's next and last step. -/
theorem witness_MatrixSlot :
    (let s := slot2 .m sx
     let b := sx.before
     let clean := fun (t : Nat) => (s.mTile 0 b t).all fun x => x.poison.isNone
     s.seq 0 = some sx ∧ s.qGuard b 7 = true ∧ b.mloop = none ∧ sx.busyM ≤ s.clock ∧ clean 0 = true ∧ clean 1 = true ∧ clean 16 = true ∧ clean 6 = true ∧
     ok (s.vSrcs 0 b 0 [0, 1, 16]) = true ∧ ok (s.needOwn 0 b 6) = true ∧ ok (s.dstTile 0 b 6 0) = true ∧ ok (s.reserve 0 (readsAt s.clock [0, 1, 16]) [(s.clock + 7, 6)]) = true ∧
     ok (s.reserve 0 [] [(s.clock + 3, 6)]) = true ∧
     ([(1, (0 : BitVec 8)), (3, 2)].all fun x =>
       let f := tw 6 0 1 0 9 x.2
       (TILE.steps f == x.1) && ((List.range x.1).all fun _ => ok (s.srcTile 0 b f.ta 0)) &&
       ok (s.reserve 0 ((List.range x.1).flatMap fun i => readsAt (s.clock + 4 * i) [0, 1]) [(s.clock + 4 * x.1 + 3, 6)])) = true) ∧
    (let q : Seq := { sx with busyM := 1 }
     (slot .m q).clock < q.busyM) := by decide +kernel
theorem witness_MatrixSlot_steps :
    ([1, 2].all fun n =>
      let l : MLoop := { pc := 0x20000, bundle := 0, word := tw 6 0 1 0 9 2, ternary := false, next := n, nextCycle := 0, accTile := 6, aTiles := [0, 0, 0], bTiles := [1, 1, 1], cTiles := [], handles := [], acc := [], final := [] }
      let q : Seq := { sx with mloop := some l }
      let s : State := { slot .m q with cur := .none, arg := { core := 0 } }
      let other : Seq := { q with pend := q.pend.filter fun p => p.slot != 4 }
      s.clocked && (s.seq 0 == some q) && !s.loopHeld q l && (l.word.ty != 15) && ([0, 1].all fun t => (s.seqTile 0 other t).all fun x => x.poison.isNone) &&
      ((expand l.acc).all fun x => x.poison.isNone) && (decide (l.next + 1 < TILE.steps l.word) == (n == 1))) = true := by decide +kernel

/-- The words of a bundle: its header and seven slots that do nothing. -/
def bundle (h : Word64) (ws : List (Nat × Word64)) : List Byte := leBytes 8 h.toNat ++ ((List.range 7).flatMap fun i => leBytes 8 ((Assoc.find ws i).getD 0x001C000000000000).toNat)
/-- The package whose sequencer is to fetch that bundle; the other sector of its line is poisoned, so that the instruction buffer keeps none of it. -/
def bundled (h : Word64) (ws : List (Nat × Word64)) (q : Seq) : State := put 0x20000 (bundle h ws) { slotM .s q with cur := .none, arg := { core := 0, id := 5 }, poison := [(2049, 0)] }
/-- What a sequencer fetches. -/
def bundleOf (s : State) (q : Seq) : Option (List Word64 × State) := match (s.setSeq 0 q).fetchWords 0 q 8 q.pc.toNat [] with
  | .words ws t => some (ws, t)
  | _ => none
/-- SequencerSteps: a bundle that runs, one whose wait is not met, one with an undecodable word in its M slot, one whose S slot stops it. -/
theorem witness_SequencerSteps_issue :
    ([(0xB700000000000000, [], 0), (0xB700008900000000, [], 1), (0xB700000000000000, [(4, (0xF15C000000000000 : Word64))], 2), (0xB700000000000000, [(0, (0xF1DC000000000000 : Word64))], 3)].all fun x =>
      let s := bundled x.1 x.2.1 sx
      s.clocked && (s.seq 0 == some sx) && (sx.st == .running) && !sx.syncing && sx.haltNext.isNone && sx.mpoison.isNone &&
      (match s.block sx.block, bundleOf s sx with
       | some b, some (ws, t) => (b.st == .resident) && !b.stopping && bundleHeaderOk (ws.getD 0 0) (slotWord ws .s) && ((headerWaits x.1).all fun w => (sx.handles.find (waitHandle w)).isSome) &&
         ((headerWaits x.1).all sx.waitMet == (x.2.2 != 1)) && ((staticFault x.1 ws).isSome == (x.2.2 == 2)) && !t.stakeHolds 0 sx ws && (t.sMisses 0 sx ws).1.isEmpty &&
         (x.2.2 == 1 || x.2.2 == 2 || ((((t.setSeq 0 { sx with next := none, hdr := ws.getD 0 0 }).runSlots 0 (Slot.all.filterMap fun sl => (slotInstr ws sl).map fun i => (sl, i))).seq 0).map fun (y : Seq) => y.st == SeqSt.halted) == some (x.2.2 == 3))
       | _, _ => false)) = true := by decide +kernel
/-- Its other steps: a fault; a result of each kind that is due, and one that is not; a restart; a fault delivered. -/
theorem witness_SequencerSteps :
    (let s := slotM .s sx
     s.seq 0 = some sx ∧ (s.block sx.block).isSome = true ∧ s.engines.flatMap Prod.snd = []) ∧
    ([SeqWrite.x 3 1, .q 3 true, .m 2 3 1, .l 2 7, .hset 5 ⟨0, 2, false, false, 0, 0, 0⟩, .hadvp 1 1, .hadvc 2 1, .take 7, .elems 6 [(0, { bits := 1 })]].all fun wr =>
      let q : Seq := { sx with pend := [⟨5, 0, 0x20000, 1, 1, [wr]⟩, ⟨6, 0, 0x20000, 9, 1, [wr]⟩] }
      let s : State := { slotM .s q with cur := .none, arg := { core := 0, id := 5 } }
      s.clocked && (s.seq 0 == some q) && ((q.pend.find? fun x => x.id == 5) == some ⟨5, 0, 0x20000, 1, 1, [wr]⟩) && !q.savesLatch ⟨5, 0, 0x20000, 1, 1, [wr]⟩ && decide (1 ≤ s.clock + 1 ∧ s.clock + 1 < 9) &&
      ((q.handles.find 1).isSome && (q.handles.find 2).isSome && (s.tile 0 6).st != .free)) = true ∧
    (let q : Seq := { sx with restart := some 0, arrived := some 0 }
     q.restart = some 0 ∧ 0 ≤ (slotM .s q).clock) ∧
    (let r : SeqFaultRec := ⟨1, 1, 0x20000, 0⟩
     let q : Seq := { sx with st := .halted, fault := some r }
     let s : State := { slotM .s q with cur := .none, arg := { core := 0 } }
     s.clocked = true ∧ q.landed = true ∧ (s.block 0).map s.faultTarget = some (some 0) ∧ (s.block 0).map (s.deliverable · 0) = some true ∧ (s.warps.find (homeKey 0 0)).isSome = false ∧
     (s.setSeq 0 { q with fault := none }).warp 0 0 = some wq) := by decide +kernel

/-! Witnesses: collation. -/

/-- A domain descriptor of context 0: domain 2, 2 members, this package rank r, its table at 0x260000. -/
def domDesc (domid r : Nat) : List Byte := lay 64 [(0, 4, 9), (4, 2, domid), (6, 2, 2), (8, 2, r), (0x10, 8, 0x260000)]
/-- The parameters of a broadcast of one 32-bit element from rank 1. -/
def pb : CollParams := ⟨3, 0, 0, 1, 1⟩
/-- A member that collates: numbers 1 to 4 are ASSIGNED with rank 1 present, past GO, cancelled, and ASSIGNED with rank 0 present. -/
def dc : Domain := { dm with
  collator := 0, nextCn := 5, numbers := [{ cn := 1, key := 5, presences := [(1, 0, pb)] }, { cn := 2, key := 6, st := .goSent, done := [1] }, { cn := 3, key := 7, st := .cancelled, outcome := .cancel, done := [1] },
    { cn := 4, key := 8, presences := [(0, 0, pb)] }] }
/-- A message of that domain. -/
def cm (rank : Nat) (key : Word64) (cn : BitVec 48) : CollMsg := { a0.coll with domid := 2, rank := rank, term := 1, key := key, cn := cn, params := pb, present := true }
/-- A step about a message, in a domain. -/
def heardS (d : Domain) (m : CollMsg) : State := { md { coll := m, dom := 2 } with domains := [d] }
/-- The conditions of Hears and of Asked, checked. -/
def hears (s : State) (m : CollMsg) (d : Domain) : Bool := s.clocked && s.arg.coll == m && s.dom m.ctx m.domid == some d && !termPrecedes m.term d.term
def asked (s : State) (m : CollMsg) (d : Domain) : Bool := hears s m d && d.rank == d.collator && m.digest == d.digest && !d.searching && d.held.isEmpty
/-- CollatorDecides: descriptors of a domain, kept and not; requests for an unseen key, for each state of a number, a reservation; presences that agree, fail and differ; a request without and with a reservation under way at its member; messages of the term and of one before; a collator silent for 2 ms, a search answered and not. -/
theorem witness_CollatorDecides :
    (let s := put 0x260000 (leBytes 2 3 ++ leBytes 2 4) (md { bytes := domDesc 2 0 })
     s.clocked = true ∧ (s.ctx s.arg.ctx).isSome = true ∧ s.arg.bytes.length = 64 ∧ s.rankTable 0 0x260000 4 = .bytes ((leBytes 2 3 ++ leBytes 2 4).map fun b => (b, none)) ∧ s.arg.flag = false ∧ s.pkgid = 3 ∧ fieldAt (domDesc 2 0) 0x20 32 = 0 ∧
     fieldAt (domDesc 4096 0) 4 2 = 4096 ∧ fieldAt (domDesc 2 2) 8 2 = 2) ∧
    ([cm 0 5 1, cm 1 6 2, cm 1 7 3, cm 0 8 4, cm 1 9 0].all fun m => asked (heardS dc m) m dc) = true ∧
    (dc.latest 9 = none ∧ dc.number dc.nextCn = none ∧ dc.numbers.length < 65536) ∧
    ((dc.number 1).map fun n => (n.st == .assigned, n.has 0, n.presences.length + 1 == dc.m)) = some (true, false, true) ∧ ((dc.number 2).map fun n => n.st == .goSent) = some true ∧
    ((dc.number 4).map fun n => (n.st == .assigned, n.has 0)) = some (true, true) ∧ ((dc.latest 7).map fun n => n.st == .cancelled) = some true ∧
    ((heardS dc (cm 1 9 0)).arg.flag = false) ∧ dc.numbers.length + 2 ≤ 65536 := by decide +kernel
/-- A table with no room. -/
theorem witness_CollatorDecides_full : 65536 ≤ ({ dc with numbers := List.replicate 65536 { cn := 1, key := 5 } } : Domain).numbers.length ∧ ({ dc with numbers := List.replicate 65536 { cn := 1, key := 5 } } : Domain).latest 9 = none := by
  constructor
  · exact Nat.le_of_eq List.length_replicate.symm
  · exact List.find?_eq_none.mpr fun x hx => by rw [List.eq_of_mem_replicate (List.mem_reverse.mp hx)]; decide
theorem witness_CollatorDecides_terms :
    (([[(0, 0, pb), (1, 0, pb)], [(0, 3, pb), (1, 0, pb)], [(0, 0, pb), (1, 0, { pb with count := 2 })]] : List (List (Nat × Nat × CollParams))).map fun p => ({ cn := 1, key := 5, presences := p } : Number).verdict) = [.run, .fail 3, .fail 5] ∧
    (let s : State := { md { dom := 2, len := 4096 } with domains := [dm] }
     s.clocked = true ∧ s.arg.flag = false ∧ s.dom s.arg.ctx s.arg.dom = some dm ∧ dm.collator ≠ dm.rank) ∧
    ([dm, dc].all fun d => hears (heardS d (cm 1 5 1)) (cm 1 5 1) d) = true ∧ ({ cm 1 5 1 with digest := 1 } : CollMsg).digest ≠ dc.digest ∧ dm.rank ≠ dm.collator ∧ dm.number 1 = none ∧ cnPrecedes 1 dm.nextCn = false ∧
    (let d : Domain := { dc with standby := some 1, decisions := [[⟨1, .go, cm 0 5 1⟩]] }
     d.rank = d.collator ∧ d.standby = some (cm 1 5 1).rank ∧ d.decisions = [⟨1, .go, cm 0 5 1⟩] :: []) ∧
    termPrecedes 1 ({ dm with term := 2 } : Domain).term = true ∧
    (let d : Domain := { dm with standby := some 0 }
     d.activeGone 6600000 = true ∧ d.activeGone 6599999 = false ∧ d.held = []) ∧
    (dc.asks = true ∧ (1 : Nat) < dc.m ∧ 1 ≠ dc.rank ∧ dc.askedAt + 6600000 ≤ 6600000) := by decide +kernel

/-- A member of the domain that has issued under key 5. -/
def mb : Member := issueMember (collDesc 2) none none 0 0
/-- MembersAndOutputs: an issue without a number and one with it; numbers known, past, and reserved; a refused issue; a warp whose CANCEL is answered; a member that hears nothing for 10 ms. -/
theorem witness_MembersAndOutputs :
    (let m := { cm 1 5 1 with range := 1 }
     let d : Domain := { dm with members := [mb] }
     hears (heardS d m) m d = true ∧ m.present = true ∧ m.bad ≠ d.rank + 1 ∧ ((d.members ++ d.closing).all fun y => !y.cnDue) = true ∧ (d.members.any fun x => x.cn == some m.cn && !x.passed) = false ∧ d.past m.cn = false ∧ mb.key = m.key ∧ mb.unnumbered = true ∧ dm.members = [] ∧
     (d.members.find? fun x => x.key == m.key && x.issued && !x.used && x.outcome.isNone) = some mb ∧
     (let e : Domain := { d with members := [{ mb with cn := some 1 }] }
      (e.members.any fun x => x.cn == some m.cn && !x.passed) = true ∧ (e.members.all fun x => x.cn != some m.cn || !x.used) = true ∧ ({ e with turn := 2 } : Domain).past m.cn = true)) ∧
    (let w : Warp := { wq with st := .waiting, wait := some (.collx 2 5 20 1) }
     let d : Domain := { dm with cancels := [(5, some (0, 0))] }
     let s : State := { heardS d (cm 1 5 1) with warps := [(0, w)] }
     hears s (cm 1 5 1) d = true ∧ (d.cancels.find? fun x => x.1 == 5) = some (5, some (0, 0)) ∧ s.warp 0 0 = some w ∧ s.ctxOf w = d.ctx) ∧
    (dm.closed = false ∧ dm.rank ≠ dm.collator ∧ dm.lastHeard + 33000000 ≤ 33000000) := by decide +kernel
/-- The number at E: with no outcome, told to run, to fail, cancelled and never issued; running, with the others' inputs. -/
theorem witness_MembersAndOutputs_turn :
    ([({ mb with cn := some 1, params := pb, outcome := some (.run, 1) } : Member), { mb with cn := some 1, outcome := some (.fail 5, 1) }, { mb with cn := some 1, outcome := some (.cancel, 1) },
        { key := 5, cn := some 1, outcome := some (.cancel, 1) }, { key := 5, cn := some 1 }, { mb with cn := some 1, params := pb, outcome := some (.run, 1), running := some 0 }].all fun x =>
      let d : Domain := { dm with members := [x] }
      let ins : List CollInput := [⟨[], []⟩, ⟨[1, 2, 3, 4], []⟩]
      let s : State := { md { dom := 2, inputs := ins } with domains := [d] }
      let g := collAgt d x.die
      s.clocked && (s.dom 0 2 == some d) && d.closing.isEmpty && (d.atTurn == some x) && s.ctxLives 0 && !s.waitsPage g && (x.done == 0) && (!x.issued || x.result == 0x230000) &&
      (x.running.isNone || (d.needsOthers x.params && d.inputs.isNone && d.inputsFit x.params ins && x.dst == 0x250000))) = true := by decide +kernel
/-- Its record and its output lie in memory. -/
theorem witness_MembersAndOutputs_places :
    (let s : State := { md { dom := 2 } with domains := [dm] }
     let g := { collAgt dm 0 with work := collWork dm }
     s.workOut (collWork dm) = false ∧ mb.stage ≠ 2 ∧ mb.finish = none ∧
     (match s.reachAll g .write [⟨1, 0x230000, 16⟩], s.reachAll g .read [], s.reachAll g .write [⟨1, 0x250000, dstElems pb 2 * elemSize pb⟩] with
      | .ok rs, .ok ss, .ok ds => (rs.all fun y => !s.severed g y.2) && (ds.all fun y => !s.severed g y.2) && (match s.pull g (collWork dm) false ss with
        | .bytes _ => true
        | _ => false)
      | _, _, _ => false) = true) ∧
    (let x : Member := { mb with cn := some 1, params := { pb with count := 0 }, outcome := some (.run, 1), running := some 0 }
     let d : Domain := { dm with members := [x] }
     let s : State := { md { dom := 2 } with domains := [d], clock := 6600000 }
     let g := { collAgt d x.die with work := collWork d }
     d.atTurn = some x ∧ d.needsOthers x.params = true ∧ d.inputs = none ∧ 0 + 6600000 ≤ s.clock ∧ (s.partOut d x).dom 0 2 = some d ∧ (s.partOut d x).ctxLives 0 = true ∧ (s.partOut d x).waitsPage g = false ∧
     (s.partOut d x).workOut g.work = false ∧ (match (s.partOut d x).reachAll g .write [⟨1, x.result, 16⟩] with
       | .ok sts => sts.all fun y => !(s.partOut d x).severed g y.2
       | _ => false) = true) := by decide +kernel

/-! Witnesses: commands, units of work and blocks. -/

/-- A command record of a TYPE. -/
def cmdRec (ty flags : Nat) (a b c : Nat) : List Byte := lay 64 [(0, 1, ty), (1, 1, flags), (8, 8, a), (0x10, 8, b), (0x18, 8, c)]
/-- A parameter block: grid 4, its counter at 0x270000, tag count n, on core 0 and 1. -/
def paramB (tags : Nat) : List Byte := lay 256 [(0, 8, 0x280000), (0x10, 8, 0x270000), (0x20, 4, 4), (0x24, 4, 1), (0x28, 4, 1), (0x2E, 1, tags), (0x40, 1, 3)]
/-- Queue 5 of context 0 with one command in its ring. -/
def qq : Queue := { ringbase := 0x290000, ringsize := 64, ctx := 0, st := .running, head := 0, tail := 1, phase := some 0 }
/-- The package with that command, a parameter block and a kernel of one warp with eight tiles. -/
def queued (r pb : List Byte) : State := put 0x290000 r (put 0x260000 pb (put 0x280000 (leBytes 8 0x6E77000000000030) (put 0x300000 (record false 0) (put 0x100000 (ring 0 0 0 0 (2 ^ 64 - 1) 1) (put 0x220000 (collDesc 7)
  { md { cmd := cmdOf 5 none r } with queues := [(5, qq)] })))))
/-- Is the command next in its queue, with these operands plain? -/
def nextCmd (i : Instr) (r : List Byte) (s : State) : Bool := s.clocked && s.nextCommand 5 == some (i, cmdOf 5 none r) && s.arg.cmd == cmdOf 5 none r
/-- Is this an operand? -/
def isPlace (r : Except CmdStop Store) (x : Store) : Bool := match r with
  | .ok st => st == x
  | .error _ => false
/-- QueueCommands: each command next in its queue with its operands in memory; a wait reached and not; a record that passes, and one that does not; a reserved flag; a launch that passes, and one with too many tags. -/
theorem witness_QueueCommands :
    ([(Instr.wait, cmdRec 4 0 0x270000 0 0), (.wait, cmdRec 4 0 0x270000 1 0), (.signal, cmdRec 5 0 0x270000 1 0), (.cancelCommand, cmdRec 7 0 0x270000 0 0), (.phaseEnd, cmdRec 8 0 0x270000 0 0),
        (.graph, cmdRec 2 0 0x290040 1 0x270000), (.copy, cmdRec 3 0 0x300000 0 0), (.copy, cmdRec 3 0 0x260000 0 0), (.collCommand, cmdRec 6 0 0x220000 0 0), (.launch, cmdRec 1 0 0x260000 0 0), (.launch, cmdRec 1 2 0x260000 0 0)].all fun x =>
      nextCmd x.1 x.2 (queued x.2 (paramB 0))) = true ∧
    (let s := queued (cmdRec 1 0 0x260000 0 0) (paramB 0)
     s.queue 5 = qq ∧ s.earlierDone qq = true ∧ isPlace (s.operand 0 .read 0x270000 8 8) (pl 0x270000 8) = true ∧ isPlace (s.operand 0 .atomic 0x270000 8 8) (pl 0x270000 8) = true ∧
     isPlace (s.operand 0 .read 0x300000 64 64) (pl 0x300000 64) = true ∧ isPlace (s.operand 0 .read 0x290040 64 1) (pl 0x290040 64) = true ∧ s.fieldIn 0 (pl 0x270000 8) 0 8 = 0 ∧
     (s.recordStatus { id := s.ids, ctx := 0, queue := some 5, fields := record false 0 } == 0) = true ∧ (s.recordStatus { id := s.ids, ctx := 0, queue := some 5, fields := paramB 0 } == 0) = false ∧
     (s.recordHeld { id := s.ids, ctx := 0, queue := some 5, fields := record false 0 }).isNone = true ∧ (s.engine (s.leastEngine 0)).length < 64 ∧ ((cmdOf 5 none (cmdRec 1 2 0 0 0)).flags.toNat = 2) ∧ qq.graph = none ∧ ({ cmdOf 5 none [] with graph := some 0 } : Cmd).graph.isSome = true) ∧
    (let q : Queue := { qq with running := [.graph 3] }
     ({ queued (cmdRec 1 1 0 0 0) [] with graphs := [(3, ⟨0, 5, 0, 0, 0, 1, 0, [], false, false⟩)] } : State).earlierDone q = false ∧ (cmdOf 5 none (cmdRec 1 1 0 0 0)).flags.getLsbD 0 = true) := by decide +kernel
theorem witness_QueueCommands_launch :
    ([0, 65].all fun n => match (queued (cmdRec 1 0 0x260000 0 0) (paramB n)).checkLaunch 0 (cmdOf 5 none (cmdRec 1 0 0x260000 0 0)) with
      | .ok l => n == 0 && l.kind == 0 && !l.complete
      | .error (.bad c) => n == 65 && c == 3
      | _ => false) = true ∧
    (let s : State := { queued (cmdRec 1 0 0x260000 0 0) (paramB 0) with tlbDie := ([], []), ctxs := [(0, { cx with root := 0x700000, fmode := 1 })] }
     (match s.checkLaunch 0 (cmdOf 5 none (cmdRec 1 0 0x260000 0 0)) with
       | .error (.hold _) => true
       | _ => false) = true ∧ (s.recordHeld { id := s.ids, ctx := 0, queue := some 5, fields := record false 0 }).isSome = true) ∧
    (let s := queued (cmdRec 6 0 0x220000 0 0) []
     match s.collPart 5 0 .read 0x220000 64 with
     | .ok sts => (match s.pull (queueAgtCo 5 0) (queueWork 5) false sts with
       | .bytes b => b.map Prod.fst == collDesc 7 && (match s.collPart 5 0 .write 0x230000 16 with
         | .ok res => (let u := (s.partsRead (queueAgtCo 5 0) false sts).pxDrop (queueWork 5)
           match ({ u with ids := u.ids + 1 }).issueColl 0 0 none (some u.ids) (collDesc 7) (fun t bs => t.deposit (queueAgtCo 5 0) res (bs.map fun x => (x, none))) with
           | .made _ => true
           | _ => false)
         | _ => false)
       | _ => false)
     | _ => false) = true := by decide +kernel

/-- A launch of grid 4 on core 0 and 1 whose counter is at 0x270000. -/
def ln : Launch := { ctx := 0, queue := 5, lpb := 0x260000, fields := paramB 0, header := 0x6E77000000000030 }
/-- The package with that launch as launch 3, and these blocks. -/
def launched (l : Launch) (a : Arg) (bs : Assoc Block) (ws : Assoc Warp) : State := put 0x260000 (paramB 0) { md a with launches := [(3, l)], blocks := bs, warps := ws, queues := [(5, qq)] }
/-- UnitsOfWork: a launch under the counter of CANCEL that is complete and not, and none; each unit over; a context to terminate and one that is; blocks resident, suspended and ended, of this context and another. -/
theorem witness_UnitsOfWork :
    (let l : Launch := { ln with fields := lay 256 [(0x10, 8, 0x100000)] }
     [false, true].all fun (x : Bool) =>
       let m : Launch := { l with complete := x }
       let s : State := { mw wq with launches := [(3, m)] }
       sys s wq 7 && (s.sysArg 0 0 wq 7 0 == m.counter) && ((s.launches.find? fun y => y.2.ctx == s.ctxOf wq && y.2.counter == 0x100000 && !y.2.complete).isSome == !x)) = true ∧
    ((mw wq).launches = [] ∧ (mw wq).graphs = [] ∧ (mw wq).phases = [] ∧ ((mw wq).ctx 0).map (·.counter) = some 0) ∧
    (let l : Launch := { ln with placed := 4 }
     let s := launched l { unit := .launch 3 } [] []
     s.clocked = true ∧ s.launches.find 3 = some l ∧ s.launchOver 3 l = true ∧ s.launchOver 3 ln = false ∧ l.complete = false ∧ l.cancelled = false ∧ (match s.counterAt 0 l.counter with
       | .ok st => st == pl 0x270000 8
       | _ => false) = true) ∧
    (let g : Graph := ⟨0, 5, 0x270000, 0, 0x290000, 1, 1, [], false, false⟩
     g.complete = false ∧ g.count ≤ g.next ∧ g.running = []) ∧
    (let x : Ctx := { cx with terminating := some ⟨8, 0⟩ }
     x.terminating ≠ none ∧ x.ended = false ∧ cx.terminating = none ∧ cx.ended = false ∧ cx.counter = 0 ∧ (md {}).ctx 0 = some cx ∧ (md {}).ctxBusy 0 = false ∧ (launched ln {} [] []).ctxBusy 0 = true) ∧
    (let s := launched ln {} [(0, blk), (1, { blk with st := .suspended }), (2, { blk with ctx := 1 })] []
     s.clocked = true ∧ s.blocks.sorted = true ∧ (s.block 0).map (·.st) = some .resident ∧ (s.block 1).map (·.st) = some .suspended ∧ (s.block 2).map (·.ctx) = some 1) := by decide +kernel

/-- A block of launch 3 in slot 0, its warp done; one whose warp still has a result in flight. -/
def lb : Block := { blk with launch := 3, hasSeq := false, seqTiles := [] }
/-- Its tiles, in a core. -/
def lbTiles (t : TileSt) : Assoc Tile := (List.range 8).map fun i => (8 + i, ({ ctx := 0, hold := 0, st := t } : Tile))
/-- Blocks: a placement whose tickets are below the count, and one whose tickets are not; blocks that end, that drain and that go on; a stopped block that has settled; a suspended one that may resume; a launch that has waited for room. -/
theorem witness_Blocks :
    ([0, 4].all fun n =>
      let s := (launched ln { id := 3 } [] []).setFieldIn 0 (pl 0x260018 8) 0 8 n
      s.clocked && (s.launches.find 3 == some ln) && s.placeDue 3 ln 0 && !s.placeDue 3 ln 1 && (match s.reserve_ 3 ln 0 false with
        | some fs => fs.all (fun f => (s.grantWaits ln f).isEmpty && decide f.slots.Nodup && decide (f.all ln).Nodup) && (match s.claimTickets ln 0 fs.length with
          | .got _ m => m == n && decide (n + fs.length ≤ ln.blockCount) == (n == 0)
          | _ => false)
        | none => false)) = true ∧
    (let off : Core := { banks := (List.range 16).map fun b => (b, { st := .gated }) }
     let s : State := { launched ln { id := 3 } [] [] with cores := [(0, off), (1, off)] }
     s.placeDue 3 ln 0 = true ∧ (match s.reserve_ 3 ln 0 false with
       | some fs => fs.any fun f => !(s.grantWaits ln f).isEmpty
       | none => false) = true) ∧
    (let s : State := { launched ln { id := 3 } [] [] with tlbDie := ([], []), ctxs := [(0, { cx with root := 0x700000, fmode := 1 })] }
     s.placeDue 3 ln 0 = true ∧ (match s.claimTickets ln 0 1, s.counterAt 0 ln.counter with
       | .wait _, .wait _ => true
       | _, _ => false) = true) ∧
    ([(WarpSt.exited, ([] : List Flight)), (.exited, [⟨5, 1, 9, []⟩]), (.ready, [])].map fun x =>
      let s := launched ln { id := 0 } [(0, lb)] [(0, { wp with st := x.1, flights := x.2 })]
      (s.clocked && s.block 0 == some lb && s.blocks.sorted && s.engines.isEmpty, s.endDue 0 lb, s.blockQuiet 0 { lb with st := .draining })) = [(true, true, true), (true, true, false), (true, false, true)] ∧
    ([false, true].all fun c =>
      let b : Block := { lb with stopping := true, cancelled := c }
      let s := launched ln { id := 0 } [(0, b)] [(0, { wp with clause := none })]
      s.suspendDue 0 b && b.regroups.isEmpty && b.chunk.isEmpty && !s.suspendDue 0 lb) = true ∧
    (let b : Block := { lb with stopping := true, regroups := [{ pc := 0x10000, target := 0, fallPc := 0, arrived := [], takingRun := false, falling := [], running := [], ended := [] }] }
     (launched ln { id := 0 } [(0, b)] []).suspendDue 0 b = true ∧ b.regroups ≠ []) ∧
    (let v : Saved := { warps := [(0, .ready, { wp with st := .suspended })], tiles := List.range 8 |>.map (· + 8) }
     let b : Block := { lb with st := .suspended, saved := some v }
     let s : State := { launched ln { id := 0 } [(0, b)] [] with cores := [(0, { tiles := lbTiles .suspended })] }
     s.clocked = true ∧ s.block 0 = some b ∧ ln.kind ≠ 3 ∧ s.resumeDue 0 b = true ∧ s.resumeDue 0 { b with byHost := true } = false ∧ v.evicted = [] ∧ s.resumeWaits b v = [] ∧ v.tiles.Nodup ∧ (v.warps.map Prod.fst).Nodup) ∧
    (let l : Launch := { ln with stuckSince := some 0 }
     let s : State := { launched l { id := 3 } [] [] with clock := 20000 }
     s.preemptDue l = true ∧ s.preemptDue ln = false) ∧
    (let l : Launch := { ln with fields := lay 256 [(0x2F, 1, 2)] }
     let s : State := { launched l {} [(0, lb)] [] with launches := [(3, l), (4, { ln with fields := lay 256 [(0x2D, 1, 7), (0x40, 1, 1)] })] }
     s.victims { ln with fields := lay 256 [(0x2D, 1, 7), (0x40, 1, 1)] } = [0]) := by decide +kernel

/-! Witnesses: the two dies, migration, peers, translation and illegal words. -/

/-- Line 0x2000 of die 0, as this entry stands. -/
def lineS (l : DirLine) (a : Arg) : State := { md a with lines := [(0x2000, l)] }
/-- A message about that line at a die, with a line of data. -/
def msg (die : Nat) : BridgeMsg := { plainMsg die 0x2000 7 with data := bytes 128 9 }
/-- The conditions of AtHome, AtRemote and OwnLine, checked. -/
def atHome (s : State) (m : BridgeMsg) (n : Nat) : Bool := s.clocked && s.arg.msg == m && n == msgLine m && m.die == lineHome n && s.lineExists n && !s.bridgeDown && (s.migOf (n * 128)).isNone
def atRemote (s : State) (m : BridgeMsg) (n : Nat) : Bool := s.clocked && s.arg.msg == m && n == msgLine m && m.die != lineHome n && s.lineExists n && !s.bridgeDown
def ownLine (s : State) (n : Nat) : Bool := s.clocked && n == s.arg.addr / 128 && s.lineExists n && !s.bridgeDown && (s.migOf (n * 128)).isNone
/-- The slice's directory has an entry of the line, or room for one. -/
theorem room (l : DirLine) (a : Arg) : 0x2000 ∈ (lineS l a).tracked (lineHome 0x2000) ((lineS l a).sliceOf 0x2000) ∨ ((lineS l a).tracked (lineHome 0x2000) ((lineS l a).sliceOf 0x2000)).length < directorySize := by
  have h : (lineS l a).lines = [(0x2000, l)] := rfl
  cases hl : l.isRemote || l.moving <;> simp [State.tracked, h, hl, directorySize] <;> omega
/-- The home's states. -/
def homes : List HomeSt := [.di, .ds, .de, .dO, .hwInv, .hwFs, .hwFi, .hwMem]
/-- The remote L2's states. -/
def rems : List RemSt := [.i, .s, .e, .o, .m, .is, .im, .sm, .wi, .ei]
/-- HomeOfLines: every state of the home, with a copy and without, for a message, for an access of its own and with a request served and one waiting. -/
theorem witness_HomeOfLines :
    (homes.all fun h => [none, some (bytes 128 1)].all fun cp => [[], [HomeReq.localRead]].all fun wt =>
      let l : DirLine := { home := h, homeCopy := cp, serving := some (.remote .rds (msg 0)), waiting := wt }
      atHome (lineS l { msg := msg 0 }) (msg 0) 0x2000 && ownLine (lineS l { addr := 0x100000 }) 0x2000 && (lineS l {}).line 0x2000 == l) = true ∧
    Memory.wf (lineS {} {}).mem = true ∧ (msg 0).data.length = 128 ∧ ncPlace (msg 0) = none ∧ (lineS { waiting := [.localRead] } {}).homeWaits 0x2000 .localRead = false ∧
    (let s := lineS { home := .ds } { addr := 0x100000, ecc0 := { symbols := [3, 9] } }
     ownLine s 0x2000 = true ∧ s.arg.ecc0.symbols = [3, 9] ∧ s.arg.ecc1 = {} ∧ s.arg.id = 0 ∧ s.poison = [] ∧ s.sealedBy 1 (2 * 0x2000) = true ∧ s.sealedBy 1 (2 * 0x2000 + 1) = true) ∧
    (let t : State := { lineS {} {} with poison := [(0x4000, 0)], seals := [(0x4001, ⟨2, 0, true, none⟩)] }
     t.poison.find 0x4000 ≠ none ∧ t.poison.find 0x4001 = none ∧ t.sealedBy 1 0x4001 = false ∧ t.sealedBy 2 0x4001 = true ∧ [3, 9].eraseDups.length = 2 ∧ [3].eraseDups.length = 1) := by decide +kernel
/-- A slice whose directory is full of another line that no exchange is about, where the part gives a slice one entry only. -/
theorem witness_HomeOfLines_full (h1 : Config.directoryMore = 0) (h2 : ∀ n, Config.lineHash n = 0) :
    let s := lineS { home := .de, rem := .m } {}
    let xs := s.tracked (lineHome 0x3000) (s.sliceOf 0x3000)
    0x3000 ∉ xs ∧ directorySize ≤ xs.length ∧ ∃ x ∈ xs, (s.line x).moving = false := by
  have e : (lineS { home := .de, rem := .m } {}).lines = [(0x2000, { home := .de, rem := .m })] := rfl
  have hs : (lineS { home := .de, rem := .m } {}).sliceOf 0x2000 = (lineS { home := .de, rem := .m } {}).sliceOf 0x3000 := by
    simp only [State.sliceOf, State.sliceIn, h2]
    rfl
  have hh : lineHome 0x2000 = lineHome 0x3000 := by decide
  have h : (lineS { home := .de, rem := .m } {}).tracked (lineHome 0x3000) ((lineS { home := .de, rem := .m } {}).sliceOf 0x3000) = [0x2000] := by
    rw [State.tracked, e, List.filter_cons_of_pos (by simp [hh, DirLine.isRemote]; exact hs)]
    rfl
  simp only [h, directorySize, h1]
  exact ⟨by decide, by decide, 0x2000, by decide, by decide +kernel⟩
/-- RemoteCopies: every state of the remote L2, with a write waiting and without; scratch and shared storage of a die that a message names. -/
theorem witness_RemoteCopies :
    (rems.all fun r => [[], [(0, 4, [1, 2])]].all fun wr =>
      let l : DirLine := { home := .de, rem := r, remCopy := some (bytes 128 1), remWrites := wr }
      atRemote (lineS l { msg := msg 1 }) (msg 1) 0x2000 && [true, false].all fun f => ownLine (lineS l { addr := 0x100000, flag := f }) 0x2000 && (lineS l {}).line 0x2000 == l) = true ∧
    (lineS {} {}).migOf (0x2000 * 128 + 4) = none ∧
    ncPlace { msg 0 with paddr := 0xF000000000040 } = some (.scratch 0 64) ∧ ncPlace { msg 0 with paddr := 0xF800000000080 } = some (.shared 0 128) ∧
    (let s := lineS {} {}
     let half := fun (i : Nat) => s.loadBytes (tkAgt 0 0) false ((blockPlace (.scratch 0 64)).part (64 * i) 64) 64
     (half 0).2 = none ∧ (half 1).2 = none) ∧ ({ lineS {} {} with bridgeDown := true } : State).clocked = true ∧
    (let r : PeerOut := { id := 7, core := 0, slot := 0, ctx := 0, posted := false, addr := 0x100000, lane := 2, data := 0, size := 8, pkg := otherDie, die := 0 }
     (lineS {} {}).atmOut 0 7 = none ∧ ({ lineS {} {} with peerReqs := [r] } : State).atmOut 0 7 = some r) := by decide +kernel

/-- A short message and a line message that arrive at die 1. -/
def mixed : List (Instr × BridgeMsg) := [(.inv, plainMsg 1 0x2000 7), (.datas, msg 1)]
/-- BridgeLink: messages that fit a flit, bytes that are none; a flit expected, one with NAK, a duplicate, one that fails; a link with unacknowledged flits. -/
theorem witness_BridgeLink :
    ((slotsOf mixed).length ≤ 4 ∧ (mixed.all fun x => x.2.die == 1 && (match msgTypeOf x.1 with
       | some t => if t.line then x.2.data.length == 128 && decide (x.2.spois.toNat < 4) && x.2.opa == 0 && x.2.opb == 0 && x.2.opx == 0 else x.2.data.isEmpty && x.2.spois == 0 && x.2.opa == 0 && x.2.opb == 0 && x.2.opx == 0
       | none => false)) = true ∧
    (∃ t ∈ msgTypes, t.line = false ∧ t.step = .rds ∧ ({ plainMsg 1 0x2000 7 with opa := 1 } : BridgeMsg).opa ≠ 0) ∧ ([] : List Byte).length ≠ 256) ∧
    readFlit 1 [] [] = none ∧ (({} : BLink).fly.headD 0 = 0) ∧
    (let l : BLink := { unacked := [(1, [])], timeouts := 7 }
     l.unacked ≠ [] ∧ l.advanced + 4096 ≤ 4096 ∧ ({} : BLink).unacked = [] ∧ 7 ≤ l.timeouts) := by decide +kernel

set_option maxRecDepth 100000 in
/-- The flit expected, one with NAK and a duplicate, on module 3 of die 1, which the checks of a flit accept. -/
theorem witness_BridgeLink_flits :
    ([(⟨5, 2, false, 3⟩ : FlitHead), ⟨5, 2, true, 0⟩, ⟨4, 2, false, 0⟩].map fun h =>
      let l : BLink := { expect := 5, unacked := [(1, []), (2, []), (3, [])] }
      let s : State := { md { die := 1, id := 3, bytes := flitBytes h mixed } with links := [(19, l)] }
      s.clocked && !s.bridgeDown && s.modules.contains 3 && s.link 1 3 == l && (readFlit 1 l.carry s.arg.bytes).isSome && flitHead s.arg.bytes == h) = [true, true, true] := by decide +kernel

/-- A request that moves a frame of 64 KiB of die 0. -/
def mr : MigReq := ⟨0x400000, 0x500000, 0, 0, 0, 1⟩
/-- Its entry. -/
def mg (st : MigSt) (dirty : Nat) : Mig := { die := 0, req := mr, state := st, dirty := List.range dirty }
/-- MigrationAndPeers: a request that keeps R157, with room and without, and one that does not; an entry in each state; a peer's request that is allowed and one that is not; answers for a posted store, a transfer and a warp. -/
theorem witness_MigrationAndPeers :
    (let s := md { mig := mr }
     let n := migBytes mr.size
     s.clocked = true ∧ mr.size ≤ 1 ∧ mr.reserved = 0 ∧ mr.old % n = 0 ∧ mr.new % n = 0 ∧ s.frameExists mr.old n = true ∧ s.frameExists mr.new n = true ∧ overlaps mr.old n mr.new n = false ∧
     s.inMigration mr.old n = false ∧ s.inMigration mr.new n = false ∧ s.migCount (homeDie mr.old) < 16 ∧ 16 ≤ ({ s with mig := List.replicate 16 { mg .copy 0 with req := ⟨0x800000, 0x900000, 0, 0, 0, 1⟩ } } : State).migCount (homeDie mr.old) ∧
     ({ mr with size := 2 } : MigReq).size ≥ 2) ∧
    ([(MigSt.copy, 0), (.copy, 65), (.switch, 0), (.redirect, 0)].all fun x =>
      let s : State := { md { addr := 0x400000 } with mig := [mg x.1 x.2] }
      s.clocked && s.migAt 0x400000 == some (mg x.1 x.2) && (mg x.1 x.2).todo.isEmpty && (s.frameLines (mg x.1 x.2)).isEmpty && s.switchReady (mg x.1 x.2) == (x.1 == .switch) && s.migWait.isEmpty) = true ∧
    (md {}).migAt 0 = none ∧ Memory.wf (md {}).mem = true ∧ ((md {}).line ((mg .copy 0).line 0)).home ≠ .de ∧ (md {}).lines.find (mr.new / 128) = none ∧
    ([0, 7].map fun (k : Nat) =>
      let s : State := { md { preq := ⟨1, 9, 0, k, 0x100000, .read 8⟩ } with keys := [(7, 0)], exports := [⟨0, 0x100000, 4096⟩] }
      (s.keys.find k == some 0 && s.peerHeld.isEmpty && !s.arg.flag && !s.lineBusy 0x100000 8 && ({ s with lines := [(0x2000, { home := .hwMem })] } : State).lineBusy 0x100000 8, (s.exports.any fun e => e.ctx == 0 && decide (e.base ≤ 0x100000) && decide (0x100008 ≤ e.base + e.len)), s.inHbm 0x100000 8)) = [(false, true, true), (true, true, true)] ∧
    (let w : Warp := { wp with st := .waiting, wait := some .peer }
     let r : PeerOut := { id := 1, core := 0, slot := 0, ctx := 0, posted := false, addr := 0x100000, lane := 2, data := 0, size := 8, pkg := 4, die := 0 }
     let s : State := { md { presp := ⟨1, .denied⟩ } with warps := [(0, w)], peerReqs := [r, { r with id := 2, slot := 48 }, { r with id := 3, posted := true }] }
     (s.peerReqs.find? fun x => x.id == s.arg.presp.id && x.pkg != otherDie) = some r ∧ r.fill = none ∧ r.drops = [] ∧ s.warp 0 0 = some w ∧
     (let s0 : State := { s with peerReqs := s.peerReqs.filter fun x => x.id != r.id }
      ((s0.takeLines r .denied).answerDrops r).peerReqs.all fun q => q.posted || q.core != r.core || q.slot != r.slot) = true ∧
     (let s0 : State := { s with peerReqs := [r, { r with id := 4 }].filter fun x => x.id != r.id }
      ((s0.takeLines r .denied).answerDrops r).peerReqs.all fun q => q.posted || q.core != r.core || q.slot != r.slot) = false ∧ w.wait = some .peer ∧ PeerAnswer.cause .denied ≠ none ∧ PeerAnswer.cause (.data [] []) = none) := by decide +kernel

/-- A requester: warp 0 of core 0, reading. -/
def asks (page : Nat) : Waiter := ⟨.warp 0 0, .ls, page * 65536, .read⟩
/-- TranslationSteps: a walk that is due, mapped, not mapped, discarded, and one of a replay that fails again, for a warp that waits; a miss that no walker has taken; an invalidation that completes and one a discarded walk holds; a released page whose entry is cached and one that misses. -/
theorem witness_TranslationSteps :
    ([(0x10, false, false), (0x4000, false, false), (0x10, true, false), (0x4000, false, true)].all fun x =>
      let w : Warp := { wp with st := .waiting, wait := some (.xlate [x.1]) }
      let m : Miss := { die := 0, ctx := 0, page := x.1, due := some 0, discarded := x.2.1, replay := x.2.2, waiters := [asks x.1] }
      let s : State := { mw w with cur := .none, arg := { addr := x.1 }, misses := [m], ctxs := [(0, { cx with fmode := 1 })] }
      let s0 : State := State.startWalks { s with misses := s.misses.erase m } m.die
      s.clocked && (s.misses.find? fun y => y.die == s.arg.die && y.ctx == s.arg.ctx && y.page == s.arg.addr && y.walkDone s.clock) == some m && s.warp 0 0 == some w &&
      !s0.whoWaits (.warp 0 0) && (match s0.walk m.die m.ctx (m.page * 65536) with
        | .ok _ => x.1 == 0x10
        | .error (c, _) => x.1 == 0x4000 && s0.replayable m.ctx c)) = true ∧
    ((asks 0x10).who.core = some 0 ∧ ({ die := 0, ctx := 0, page := 0x10, waiters := [asks 0x10] } : Miss).due = none) ∧
    (let x : Inv := ⟨0, 0x100000, 0x10000, 3⟩
     let m : Miss := { die := 0, ctx := 0, page := 0x10, due := some 0, waiters := [] }
     let s : State := md { addr := 0x100000, len := 0x10000, seq := 3 }
     s.clocked = true ∧ s.arg.flag = false ∧ (s.ctx 0).isSome = true ∧ (s.dropRange x).invHeld x = false ∧ x ∉ s.invs ∧ (({ s with misses := [m] } : State).dropRange x).invHeld x = true ∧
     (let t : State := { md { flag := true } with invs := [x] }
      (t.invs.find? fun y => y.ctx == t.arg.ctx) = some x ∧ t.invHeld x = false ∧ ({ t with misses := [{ m with discarded := true }] } : State).invHeld x = true)) ∧
    ([(0x10, true), (0x4000, false)].all fun x =>
      let f : PFault := { die := 0, ctx := 0, page := x.1, span := 1, cause := .notValid, seq := 0, replays := 0, written := true, first := asks x.1, waiters := [asks x.1] }
      let w : Warp := { wp with st := .waiting, wait := some (.xlate [x.1]) }
      let s : State := { mw w with cur := .none, pfaults := [f] }
      let t := s.trPage ((asks x.1).agt f.ctx f.die) .read (x.1, x.1 * 65536, 1)
      s.clocked && s.misses.isEmpty && s.xlfail.isEmpty && f.ctx == s.arg.ctx && decide (f.die < 2) && s.warp 0 0 == some w && t.missed.isEmpty == x.2 && t.faults.isEmpty) = true := by decide +kernel

/-- IllegalWords: a warp inside a clause whose next word is no instruction, and a bundle with such a word in slot M alone. -/
theorem witness_IllegalWords :
    (let w : Warp := { wq with pc := 0x100008, clause := some (0x100000, 0xC100000000000000) }
     let s : State := put 0x100008 (leBytes 8 1) { mw w with cur := .none, agenda := [.warp 0 0] }
     let s0 := ({ s with agenda := [] } : State).setWarp 0 0 w
     s.inbox = [] ∧ s.frozen = false ∧ s.agenda = [.warp 0 0] ∧ s.warp 0 0 = some w ∧ w.st = .ready ∧ w.wait = none ∧ w.active ≠ 0 ∧ w.stack.length ≤ 16 ∧ s.runnable 0 0 w = true ∧
     (match s0.check (s0.fetchAgt 0 0 w) .fetch 1 w.pc 8 with
       | .ok (.mem (p :: _)) => (let pa := s0.migTarget p.pa
         s0.ibufHit 0 pa == none && !s0.lineBusy p.pa 8 && s0.codePoison (s0.fetchAgt 0 0 w) (pteKey p.pte) pa == none && leNat (s0.codeBytes (pteKey p.pte) pa 8) == 1)
       | _ => false) = true ∧ reads 1 = none) ∧
    (let s := bundled 0xB700000000000000 [(4, 0xF15C000000000000)] sx
     match bundleOf s sx with
     | some (ws, t) => bundleHeaderOk (ws.getD 0 0) (slotWord ws .s) && !t.stakeHolds 0 sx ws && (t.sMisses 0 sx ws).1.isEmpty && (headerWaits (ws.getD 0 0)).isEmpty &&
       (Slot.all.map fun sl => (slotInstr ws sl).isSome) == [true, true, true, true, false, true, true]
     | none => false) = true := by decide +kernel

/-! Results of the spec's worked examples. -/

/-- The low 32 bits of s20 after a word runs in a warp with these s registers. -/
def gives (i : Instr) (xs : List (Nat × Word64)) : Option Nat := match exec i (withW { wp with sregs := xs }) with
  | .next t => (t.warp 0 0).map fun (w : Warp) => (w.sreg 20).toNat % 2 ^ 32
  | _ => none
/-- A word with destination s20 and sources s0, s1, s2. -/
def sw (ty : BitVec 5) (md : BitVec 7) (us : BitVec 3) : RR :=
  { g := 7, dst := 20, sa := 0, sb := if us.getLsbD 1 then 1 else 0, sc := if us.getLsbD 0 then 2 else 0, ty := ty, md := md ||| 64, sbd := 0, us := us }
/-- BFE of bits 11 to 8 of 0x0F00, signed and unsigned (R341's example). -/
theorem test_bfe : gives (.bfe (sw 0 0 6)) [(0, 0x0F00), (1, 0x0408)] = some 0xFFFFFFFF ∧ gives (.bfe (sw 1 0 6)) [(0, 0x0F00), (1, 0x0408)] = some 0xF := by decide +kernel
/-- BSEL of R352's example. -/
theorem test_bsel : gives (.bsel (sw 0 0 7)) [(0, 0x44332211), (1, 0x88776655), (2, 0x18000A07)] = some 0x0011CC88 := by decide +kernel
/-- HADD2.F16 of 1 with both infinities (R347's example). -/
theorem test_hadd2 : gives (.hadd2 (sw 9 0 6)) [(0, 0x3C003C00), (1, 0x7C00FC00)] = some 0x7C00FC00 := by decide +kernel
/-- CVTQ.E4M3 of 300 with scale 127 (R350's example). -/
theorem test_cvtq : gives (.cvtq (sw 12 0 7)) [(0, 0x43960000), (1, 0x7F), (2, 0)] = some 0x79 := by decide +kernel
/-- F32 470 to E4M3 saturates at 448 or, with .NSAT, becomes NaN; 460 rounds to 448 either way (R296's example). -/
theorem test_cvt_sat : (gives (.cvt { sw 12 0 4 with sc := 8 }) [(0, 0x43EB0000)], gives (.cvt { sw 12 4 4 with sc := 8 }) [(0, 0x43EB0000)]) = (some 0x7E, some 0x7F) := by decide +kernel
theorem test_cvt_round : (gives (.cvt { sw 12 0 4 with sc := 8 }) [(0, 0x43E60000)], gives (.cvt { sw 12 4 4 with sc := 8 }) [(0, 0x43E60000)]) = (some 0x7E, some 0x7E) := by decide +kernel
/-- The value of E2M3 0x1D is 6.5 (R286's example). -/
theorem test_cvt_e2m3 : gives (.cvt { sw 8 0 4 with sc := 14 }) [(0, 0x1D)] = some 0x40D00000 := by decide +kernel
/-- An atomic add of 1 by one lane makes 10 into 11 (R368). -/
theorem test_atom : holds (exec (.atom { mf 2 with data := 1, base := 13, off := 0, sbd := 2 }) (let w : Warp := { w1 with tmap := [8, 9, 10, 11, 12, 13, 14, 15] }
    put 0x200000 (leBytes 4 10) { mw w with cores := [(0, { co with tlb := [tlbE], tiles := owned 0 48 ++ ((owned 8 0).put 8 { ctx := 0, hold := 0, st := .owned, elems := (List.range 64).map fun i => (i, { bits := 1 }) }) })] }))
    (fun t => wordOf (t.physBytes 0x200000 4) == 11) = true := by decide +kernel
/-- TRAP 0x2A goes to the handler and saves the address of the next instruction and the immediate (R447, R268). -/
theorem test_trap : holds (exec (.trap { g := 7, dst := 0, sa := 0, imm := 0x2A, us := 0 }) { st with ctxs := [(0, { cx with traph := 0x30000 })] })
    (fun t => match t.warp 0 0 with
      | some w => w.pc == 0x30000 && w.traps.pc == 0x10010 && w.st == .trap
      | none => false) = true := by decide +kernel
/-- The collator and standby of jobs 3 and 5 in domain 7 of three members (R241's example). -/
theorem test_domain : ([3, 5].map fun j => holds (exec .domainDefinition (put 0x260000 (leBytes 2 3 ++ leBytes 2 4 ++ leBytes 2 5) (md { bytes := lay 64 [(0, 4, j), (4, 2, 7), (6, 2, 3), (0x10, 8, 0x260000)] })))
    (fun t => (t.dom 0 7).map (fun (d : Domain) => (d.collator, d.standby)) == some (if j = 3 then (0, some 1) else (1, some 2)))) = [true, true] := by decide +kernel
/-- An F32 sum over three ranks, in rank order (R261's example). -/
theorem test_coll_sum : ([[0x4B800000, 0x3F800000, 0x3F800000], [0x3F800000, 0x3F800000, 0x4B800000]].map fun xs => collOutput ⟨0, 0, 0, 1, 0⟩ 3 0 (xs.map fun x => ⟨leBytes 4 x, []⟩)) =
    [[(0x4B800000, false)], [(0x4B800001, false)]] := by decide +kernel
/-- The alias of LANE offset 0x40 for lane 7 of slot 5 on core 3 (R15's example). -/
theorem test_lane : (match ({ st with ctxs := [(0, { cx with laneBase := 0x400000000000, laneSize := 0x100000 })] } : State).resolve { path := .ls, who := .warp 3 5, ctx := 0, core := some 3, die := 0, laneIdx := some ((3 * 48 + 5) * 32 + 7) } 4 0x40 4 with
    | .ok (.glob a) => a == 0x40012A700040
    | _ => false) = true := by decide +kernel
/-- Block maxima 300 and 0.75 give entries 127 and 118, and 0.7 under 118 converts to 0x7B (R304-R306's example). -/
theorem test_maxe : (maxeEntry (emaxOf 12) [0x43960000, 0], maxeEntry (emaxOf 12) [0x3F400000], (cvtScaled (numTyOf 12) ⟨.rne, 0⟩ false 118 0x3F333333).bits, (cvtScaled (numTyOf 12) ⟨.rne, 0⟩ false 127 0x3F333333).bits) = (127, 118, 0x7B, 0x33) := by decide +kernel
/-- HSET from 0x0410 names t16 to t19, filled and drained by the sequencer (R386's example). -/
theorem test_hset : holds (exec (.hset { g := 7, dst := 0x50, sa := 1, sb := 0, sc := 0, ty := 0, md := 0, sbd := 0, us := 0 }) (slot2 .s { sq with xs := [(1, 0x0410)] }))
    (fun t => match t.seq 0 with
      | some q => q.pend.map (·.writes) == [[.hset 0 ⟨16, 4, false, false, 0, 0, 0⟩]]
      | none => false) = true := by decide +kernel
/-- Ten corrected errors with INC 4 reach a brim of 40 (R172's example). -/
theorem test_brim : (let d : Drip := { brim := 40, inc := 4 }
    let s := (List.range 10).foldl (fun (s : State) _ => s.correctedError 0 0) (({ st with drip := [] } : State).setDrip 0 0 d)
    ((s.dripOf 0 0).level, (s.dripOf 0 0).fired)) = (40, true) := by decide +kernel

end Sys2Proof.Tests
end

section
/-! Rules that the proofs below share: keyed lists, a core after an update, and steps that leave every byte. -/
namespace Sys2Proof.Machine
open Sys2Proof

/-- Entries kept by their keys: a key that is kept reads as before, any other as unlisted. -/
theorem Assoc.find_filter_key {α : Type} (m : Assoc α) (p : Nat → Bool) (n : Nat) :
    Assoc.find (m.filter fun e => p e.1) n = if p n then m.find n else none := by
  induction m with
  | nil => simp [Assoc.find]
  | cons e t ih =>
    obtain ⟨k, v⟩ := e
    by_cases hk : k = n
    · subst hk; cases hp : p k <;> simp [hp, Assoc.find, ih]
    · cases hp : p k <;> simp [hp, Assoc.find, ih, hk]

theorem find_mapVals {α : Type} (m : Assoc α) (f : Nat → α → α) (n : Nat) : Assoc.find (mapVals m f) n = (m.find n).map (f n) := by
  induction m with
  | nil => rfl
  | cons e t ih =>
    obtain ⟨k, v⟩ := e
    by_cases hk : k = n
    · subst hk; simp [mapVals, Assoc.find]
    · rw [mapVals] at ih; simp [mapVals, Assoc.find, hk, ih]

/-- The only element of a list that passes a test is the one found. -/
theorem find?_eq_some_of_only {α : Type} {l : List α} {p : α → Bool} {x : α} (mem : x ∈ l) (pass : p x = true)
    (only : ∀ y ∈ l, p y = true → y = x) : l.find? p = some x := by
  cases found : l.find? p with
  | none => exact absurd pass (by simpa using List.find?_eq_none.1 found x mem)
  | some y => rw [only y (List.mem_of_find?_eq_some found) (List.find?_some found)]

/-- What each step of a fold keeps, in a relation that chains, the fold keeps. -/
theorem foldl_relates {σ α : Type} {R : σ → σ → Prop} (refl : ∀ s, R s s) (trans : ∀ {s t u}, R s t → R t u → R s u) {f : σ → α → σ} :
    ∀ (l : List α) (s : σ), (∀ x ∈ l, ∀ s, R s (f s x)) → R s (l.foldl f s)
  | [], s, _ => refl s
  | x :: l, s, step => trans (step x List.mem_cons_self s) (foldl_relates refl trans l _ fun y hy => step y (List.mem_cons_of_mem x hy))

theorem core_setCore (s : State) (c e : Nat) (k : Core) : (s.setCore c k).core e = if e = c then k else s.core e := by
  by_cases h : e = c
  · subst h; simp [State.core]
  · simp [State.core, h, Assoc.getD_put_other _ _ _ _ _ (Ne.symm h)]

/-- A step that leaves memory, the directory, scratch and each core's shared storage leaves every byte. -/
theorem sameBytes_of {s t : State} (mem : t.mem = s.mem) (lines : t.lines = s.lines) (scratch : t.scratch = s.scratch)
    (shared : ∀ e, (t.core e).shared = (s.core e).shared) : s.sameBytes t :=
  ⟨mem, lines, scratch, fun a => by simp only [State.physByte, mem, lines], shared⟩

theorem sameBytes_trans {s t u : State} (h : s.sameBytes t) (k : t.sameBytes u) : s.sameBytes u := by
  obtain ⟨mem, lines, scratch, -, shared⟩ := h
  obtain ⟨mem', lines', scratch', -, shared'⟩ := k
  exact sameBytes_of (mem'.trans mem) (lines'.trans lines) (scratch'.trans scratch) fun e => (shared' e).trans (shared e)

end Sys2Proof.Machine
end

section
/-! The creation of a job's context (R17): the seven checks of its descriptor in their order, and the context that passes them. -/
namespace Sys2Proof.Machine
open Sys2Proof

/-- Two grants of a carve-out meet exactly when some unit lies in both. -/
theorem unitsMeet_iff (a b : Nat × Nat) : unitsMeet a b = true ↔ ∃ u, a.1 ≤ u ∧ u < a.1 + a.2 ∧ b.1 ≤ u ∧ u < b.1 + b.2 := by
  simp only [unitsMeet, Bool.and_eq_true, decide_eq_true_eq]
  constructor
  · intro h; exact ⟨max a.1 b.1, by omega⟩
  · rintro ⟨u, h⟩; omega

theorem grantTaken_iff (s : State) (ctx die : Nat) (g : Nat × Nat) :
    s.grantTaken ctx die g = true ↔ ∃ e ∈ s.ctxs, e.1 ≠ ctx ∧ e.2.ended = false ∧ ∃ u, g.1 ≤ u ∧ u < g.1 + g.2 ∧
      (if die = 0 then e.2.scr0 else e.2.scr1).1 ≤ u ∧ u < (if die = 0 then e.2.scr0 else e.2.scr1).1 + (if die = 0 then e.2.scr0 else e.2.scr1).2 := by
  simp [State.grantTaken, unitsMeet_iff, and_assoc]

/-- The grant of L2 scratch on a die that a descriptor asks for: its offset and length (R17). -/
def grantField (b : List Byte) (die : Nat) : Nat × Nat := (fieldAt b (0x18 + 4 * die) 2, fieldAt b (0x1A + 4 * die) 2)

/-- The seven cases of R17 in which a descriptor is rejected. -/
def State.jobCase (s : State) (ctx : Nat) (b : List Byte) : Nat → Bool
  | 1 => decide (fieldAt b 0x00 8 % 0x40000 ≠ 0) || !s.inHbm (fieldAt b 0x00 8) 0x40000
  | 2 => decide (fieldAt b 0x08 8 % 65536 ≠ 0) || decide (windowsBase < fieldAt b 0x08 8 + 294912 * fieldAt b 0x10 4 * 65536)
  | 3 => decide (fieldAt b 0x10 4 = 0) || decide (1024 < fieldAt b 0x10 4)
  | 4 => decide (1 < fieldAt b 0x14 1)
  | 5 => (List.range 2).any fun die => decide (16 < (grantField b die).2) || decide (s.carved die < (grantField b die).1 + (grantField b die).2)
  | 6 => (List.range 2).any fun die => s.grantTaken ctx die (grantField b die)
  | 7 => decide (fieldAt b 0x15 3 ≠ 0) || decide (fieldAt b 0x20 32 ≠ 0)
  | _ => false

theorem jobCase_grantTooLong (s : State) (ctx : Nat) (b : List Byte) :
    s.jobCase ctx b 5 = true ↔
      (16 < (grantField b 0).2 ∨ s.carved 0 < (grantField b 0).1 + (grantField b 0).2) ∨
        (16 < (grantField b 1).2 ∨ s.carved 1 < (grantField b 1).1 + (grantField b 1).2) := by
  have dies : List.range 2 = [0, 1] := rfl
  simp only [State.jobCase, dies, List.any_cons, List.any_nil, Bool.or_false, Bool.or_eq_true, decide_eq_true_eq]

theorem jobCase_grantTaken (s : State) (ctx : Nat) (b : List Byte) :
    s.jobCase ctx b 6 = true ↔ s.grantTaken ctx 0 (grantField b 0) = true ∨ s.grantTaken ctx 1 (grantField b 1) = true := by
  have dies : List.range 2 = [0, 1] := rfl
  simp only [State.jobCase, dies, List.any_cons, List.any_nil, Bool.or_false, Bool.or_eq_true]

/-- The check of a descriptor takes the cases in their order. -/
theorem jobFault_eq (s : State) (ctx : Nat) (b : List Byte) :
    s.jobFault ctx b =
      if s.jobCase ctx b 1 then some 1 else if s.jobCase ctx b 2 then some 2 else if s.jobCase ctx b 3 then some 3
      else if s.jobCase ctx b 4 then some 4 else if s.jobCase ctx b 5 then some 5 else if s.jobCase ctx b 6 then some 6
      else if s.jobCase ctx b 7 then some 7 else none := by
  simp only [jobCase_grantTooLong, jobCase_grantTaken]
  cases boot : s.boot <;>
    simp only [State.jobFault, State.jobCase, State.carved, grantField, boot, Bool.or_eq_true, decide_eq_true_eq, reduceIte,
      Nat.reduceMul, Nat.reduceAdd, Nat.one_ne_zero]

theorem jobCase_mem {s : State} {ctx n : Nat} {b : List Byte} (h : s.jobCase ctx b n = true) : n ∈ [1, 2, 3, 4, 5, 6, 7] := by
  unfold State.jobCase at h
  split at h <;> simp_all

theorem jobFault_first {s : State} {ctx n : Nat} {b : List Byte} (h : s.jobCase ctx b n = true) (first : ∀ j, j < n → s.jobCase ctx b j = false) :
    s.jobFault ctx b = some n := by
  have hn : n = 1 ∨ n = 2 ∨ n = 3 ∨ n = 4 ∨ n = 5 ∨ n = 6 ∨ n = 7 := by simpa using jobCase_mem h
  rw [jobFault_eq]
  rcases hn with rfl | rfl | rfl | rfl | rfl | rfl | rfl <;> simp [h, first]

theorem jobFault_none {s : State} {ctx : Nat} {b : List Byte} (h : ∀ n, s.jobCase ctx b n = false) : s.jobFault ctx b = none := by
  simp [jobFault_eq, h]

/-! The context that is made. -/

/-- The context of a descriptor, with its job's completion counter (R17; log entry 3). -/
def jobCtx (b : List Byte) (counter : Word64) : Ctx :=
  { root := fieldAt b 0x00 8, laneBase := fieldAt b 0x08 8, laneSize := fieldAt b 0x10 4 * 65536, fmode := fieldAt b 0x14 1,
    scr0 := grantField b 0, scr1 := grantField b 1, counter := counter }

/-- The state in which a context has been made: its grants are zeroed (R62) and its domains forgotten. -/
def State.withJob (s : State) (ctx : Nat) (x : Ctx) : State :=
  let t := ((s.zeroGrant 0 x.scr0).zeroGrant 1 x.scr1).setCtx ctx x
  { t with hostReply := .ok, domains := t.domains.filter fun (d : Domain) => d.ctx != ctx }

/-- A descriptor that fails a check leaves its number as the reply and nothing else (R17). -/
theorem exec_jobCreation_rejected {s : State} {n : Nat} (run : s.clocked = true) (len : s.arg.bytes.length = 64)
    (free : ∀ x, s.ctx s.arg.ctx = some x → x.ended = true) (check : s.jobFault s.arg.ctx s.arg.bytes = some n) :
    exec .jobCreation s = .next { s with hostReply := .rejected n } := by
  rw [exec_jobCreation, execJobCreation, asEvent_clocked run]
  cases found : s.ctx s.arg.ctx with
  | none => simp [len, check]
  | some x => simp [free x found, len, check]

/-- A descriptor that passes every check makes its context (R17). -/
theorem exec_jobCreation_made {s : State} (run : s.clocked = true) (len : s.arg.bytes.length = 64)
    (free : ∀ x, s.ctx s.arg.ctx = some x → x.ended = true) (check : s.jobFault s.arg.ctx s.arg.bytes = none) :
    exec .jobCreation s = .next (s.withJob s.arg.ctx (jobCtx s.arg.bytes s.arg.value)) := by
  rw [exec_jobCreation, execJobCreation, asEvent_clocked run]
  cases found : s.ctx s.arg.ctx with
  | none => simp [len, check, State.withJob, jobCtx, grantField]
  | some x => simp [free x found, len, check, State.withJob, jobCtx, grantField]

/-- A zeroed grant of L2 scratch reads as zero; elsewhere scratch is as before (R62). -/
theorem byteOf_zeroGrant (s : State) (die : Nat) (g : Nat × Nat) (a : Nat) :
    byteOf (s.zeroGrant die g).scratch a =
      if a < die * 2 ^ 26 + g.1 * 0x400000 ∨ die * 2 ^ 26 + g.1 * 0x400000 + g.2 * 0x400000 ≤ a then byteOf s.scratch a else 0 := by
  simp only [byteOf, Assoc.getD, State.zeroGrant,
    Assoc.find_filter_key s.scratch fun n => decide (n < die * 2 ^ 26 + g.1 * 0x400000) || decide (die * 2 ^ 26 + g.1 * 0x400000 + g.2 * 0x400000 ≤ n)]
  simp only [Bool.or_eq_true, decide_eq_true_eq]
  split <;> rfl

@[simp] theorem zeroGrant_mem (s : State) (die : Nat) (g : Nat × Nat) : (s.zeroGrant die g).mem = s.mem := rfl
@[simp] theorem withJob_mem (s : State) (c : Nat) (x : Ctx) : (s.withJob c x).mem = s.mem := by simp [State.withJob]
@[simp] theorem withJob_ctx_same (s : State) (c : Nat) (x : Ctx) : (s.withJob c x).ctx c = some x := Assoc.find_put_same _ _ _
theorem withJob_ctx_other (s : State) {c e : Nat} (x : Ctx) (h : e ≠ c) : (s.withJob c x).ctx e = s.ctx e := Assoc.find_put_other _ _ _ _ h.symm

/-- The grant on die 0 of a new context reads as zero (R62). -/
theorem withJob_scratch (s : State) (c : Nat) (x : Ctx) {a : Nat} (lo : x.scr0.1 * 0x400000 ≤ a) (hi : a < (x.scr0.1 + x.scr0.2) * 0x400000) :
    byteOf (s.withJob c x).scratch a = 0 := by
  have zero : byteOf (s.zeroGrant 0 x.scr0).scratch a = 0 := by
    rw [byteOf_zeroGrant, if_neg (by omega)]
  show byteOf ((s.zeroGrant 0 x.scr0).zeroGrant 1 x.scr1).scratch a = 0
  rw [byteOf_zeroGrant]
  split
  · exact zero
  · rfl

/-- Settles O60: the obligation's seven cases are `State.jobCase`'s, the reply is the first that holds, and where none does the context is made. -/
theorem jobDescriptor : Obligations.JobDescriptor := by
  intro s run whole free b root base size off len carve grant fails
  have same : ∀ n, fails n ↔ s.jobCase s.arg.ctx b n = true := by
    intro n
    have carved : ∀ die, carve die = s.carved die := fun _ => rfl
    match n with
    | 0 | n + 8 => simp [fails, State.jobCase]
    | 1 => simp [fails, State.jobCase, root]
    | 2 => simp [fails, State.jobCase, base, size, windowsBase, Nat.mul_assoc]
    | 3 => simp [fails, State.jobCase, size]
    | 4 => simp [fails, State.jobCase]; omega
    | 5 =>
      simp only [fails, State.jobCase, List.any_eq_true, Bool.or_eq_true, decide_eq_true_eq]
      simp [grantField, off, len, carved]
    | 6 => simp [fails, State.jobCase, grantTaken_iff, grantField, off, len, grant]
    | 7 => simp [fails, State.jobCase]
  constructor
  · intro n hn first
    exact exec_jobCreation_rejected run whole free (jobFault_first ((same n).1 hn) fun j hj => by simpa [same] using first j hj)
  · intro none
    exact ⟨_, _, exec_jobCreation_made run whole free (jobFault_none fun n => by simpa [same] using none n), rfl, withJob_ctx_same _ _ _,
      rfl, rfl, rfl, rfl, rfl, rfl, rfl, rfl, rfl, withJob_mem _ _ _,
      fun c hc => withJob_ctx_other _ _ hc, fun a lo hi => withJob_scratch _ _ _ lo hi⟩

end Sys2Proof.Machine
end

section
/-! Migrations of pages (R157-R160): what an entry is after each of its steps, and where its frame's bytes then are. -/
namespace Sys2Proof.Machine
open Sys2Proof

/-! Requests. -/

/-- The conditions of R157 on a request. -/
theorem migOk_iff (s : State) (r : MigReq) : s.migOk r = true ↔
    r.size ≤ 1 ∧ r.reserved = 0 ∧ r.old % migBytes r.size = 0 ∧ r.new % migBytes r.size = 0 ∧ s.frameExists r.old (migBytes r.size) = true ∧
    s.frameExists r.new (migBytes r.size) = true ∧ overlaps r.old (migBytes r.size) r.new (migBytes r.size) = false ∧
    s.inMigration r.old (migBytes r.size) = false ∧ s.inMigration r.new (migBytes r.size) = false := by
  simp [State.migOk, and_assoc]

theorem exec_mig_rejected {s : State} (run : s.clocked = true) (bad : s.migOk s.arg.mig = false) :
    exec .mig s = .next { s with hostReply := .rejected 0 } := by
  rw [exec_mig, execMig, asEvent_clocked run]; simp [bad]

theorem exec_mig_opened {s : State} (run : s.clocked = true) (ok : s.migOk s.arg.mig = true) (room : s.migCount (homeDie s.arg.mig.old) < 16) :
    exec .mig s = .next (({ s with hostReply := .ok } : State).openMig s.arg.mig) := by
  rw [exec_mig, execMig, asEvent_clocked run]; simp [ok, room]

theorem exec_mig_waits {s : State} (run : s.clocked = true) (ok : s.migOk s.arg.mig = true) (full : 16 ≤ s.migCount (homeDie s.arg.mig.old)) :
    exec .mig s = .next { s with hostReply := .ok, migWait := s.migWait ++ [s.arg.mig] } := by
  rw [exec_mig, execMig, asEvent_clocked run]; simp [ok, Nat.not_lt.2 full]

/-! Entries. -/

theorem migAt_spec {s : State} {old : Nat} {g : Mig} (h : s.migAt old = some g) : g ∈ s.mig ∧ g.req.old = old :=
  ⟨List.mem_of_find?_eq_some h, by simpa using List.find?_some h⟩

/-- An entry replaced is found where it was. -/
theorem migAt_setMig {s : State} {old : Nat} {g : Mig} (g' : Mig) (h : s.migAt old = some g) (same : g'.req = g.req) :
    (s.setMig g').migAt old = some g' := by
  have at_ : g'.req.old = old := same ▸ (migAt_spec h).2
  have keeps : ((fun h : Mig => h.req.old == old) ∘ fun h => if h.req.old = g'.req.old then g' else h) = fun h : Mig => h.req.old == old := by
    funext h
    by_cases e : h.req.old = old <;> simp [e, at_]
  unfold State.migAt at h
  simp only [State.migAt, State.setMig, List.find?_map, keeps, h, Option.map_some]
  rw [if_pos (by rw [same])]

@[simp] theorem frameLines_setMig (s : State) (g h : Mig) : (s.setMig g).frameLines h = s.frameLines h := rfl

theorem recallFrame_of_no_lines {s : State} (g : Mig) (h : s.frameLines g = []) : s.recallFrame g = s := by
  simp [State.recallFrame, h]

/-- Where one entry alone covers a byte and stands in REDIRECT, the byte is in the new frame (R160). -/
theorem migTarget_setMig_redirect {s : State} {g g' : Mig} {a : Nat} (mem : g ∈ s.mig) (same : g'.req = g.req) (redirect : g'.state = .redirect)
    (lo : g.req.old ≤ a) (hi : a < g.req.old + migBytes g.req.size)
    (only : ∀ h ∈ s.mig, h.req.old ≤ a → a < h.req.old + migBytes h.req.size → h = g) :
    (s.setMig g').migTarget a = g.req.new + (a - g.req.old) := by
  have found : (s.setMig g').migOf a = some g' := by
    refine find?_eq_some_of_only (List.mem_map.2 ⟨g, mem, by simp [same]⟩) (by simp [same, lo, hi]) fun y hy cover => ?_
    obtain ⟨h, hm, rfl⟩ := List.mem_map.1 hy
    by_cases e : h.req.old = g'.req.old
    · simp [e]
    · simp only [e, if_false, Bool.and_eq_true, decide_eq_true_eq] at cover ⊢
      exact absurd (by rw [only h hm cover.1 cover.2, same]) e
  simp [State.migTarget, found, redirect, same]

/-! Steps of an entry. -/

theorem exec_migrationPassComplete_of_not_copy {s : State} {g : Mig} (run : s.clocked = true) (at_ : s.migAt s.arg.addr = some g) (st : g.state ≠ .copy) :
    exec .migrationPassComplete s = .next s := by
  rw [exec_migrationPassComplete, execMigrationPassComplete, asEvent_clocked run]; simp [at_, st]

/-- The end of a pass with no line left to copy: the switch begins, or the next pass over the lines that are dirty (R158). -/
theorem exec_migrationPassComplete_of_copied {s : State} {g : Mig} (run : s.clocked = true) (at_ : s.migAt s.arg.addr = some g) (st : g.state = .copy)
    (todo : g.todo = []) : exec .migrationPassComplete s = .next (if g.dirty.length ≤ 64 ∨ 4 ≤ g.pass
      then ((s.setMig g).setMig { g with state := .switch }).recallFrame g
      else (s.setMig g).setMig { g with pass := g.pass + 1, todo := g.dirty, dirty := [] }) := by
  obtain ⟨die, req, state, pass, lines, dirty⟩ := g
  subst st todo
  rw [exec_migrationPassComplete, execMigrationPassComplete, asEvent_clocked run]
  simp [at_, migAt_setMig _ at_ rfl]

theorem exec_migrationSwitchComplete_of_not_ready {s : State} {g : Mig} (run : s.clocked = true) (at_ : s.migAt s.arg.addr = some g)
    (wait : s.switchReady g = false) : exec .migrationSwitchComplete s = .next s := by
  rw [exec_migrationSwitchComplete, execMigrationSwitchComplete, asEvent_clocked run]; simp [at_, wait]

/-- The state after the switch of an entry with no line in any L2 and no dirty line (R158). -/
def State.switched (s : State) (g : Mig) : State :=
  ({ s.setMig { g with state := .redirect, todo := [], dirty := [] } with
      migDone := if g.die = 0 then (g.req.seq, s.migDone.2) else (s.migDone.1, g.req.seq) } : State).interrupt .migDone

theorem exec_migrationSwitchComplete_of_ready {s : State} {g : Mig} (run : s.clocked = true) (at_ : s.migAt s.arg.addr = some g)
    (ready : s.switchReady g = true) (lines : s.frameLines g = []) (dirty : g.dirty = []) : exec .migrationSwitchComplete s = .next (s.switched g) := by
  rw [exec_migrationSwitchComplete, execMigrationSwitchComplete, asEvent_clocked run]
  simp [at_, ready, dirty, lines, State.switched, State.setMig]

theorem exec_migclose_of_redirect {s : State} {g : Mig} (run : s.clocked = true) (at_ : s.migAt s.arg.addr = some g) (st : g.state = .redirect)
    (none_waits : s.migWait = []) :
    exec .migclose s = .next { s with mig := s.mig.filter fun h => h.req.old != g.req.old, hostReply := .ok } := by
  rw [exec_migclose, execMigclose, asEvent_clocked run]; simp [at_, st, State.openWaiting, none_waits]

theorem exec_migclose_of_not_redirect {s : State} {g : Mig} (run : s.clocked = true) (at_ : s.migAt s.arg.addr = some g) (st : g.state ≠ .redirect) :
    exec .migclose s = .next { s with hostReply := .rejected 0 } := by
  rw [exec_migclose, execMigclose, asEvent_clocked run]; simp [at_, st]

/-- Where no entry is open, none of an entry's steps applies. -/
theorem exec_migSteps_of_no_entry {s : State} (run : s.clocked = true) (at_ : s.migAt s.arg.addr = none) :
    exec .migclose s = .next { s with hostReply := .rejected 0 } ∧ exec .migrationPassComplete s = .next s ∧ exec .migrationSwitchComplete s = .next s := by
  rw [exec_migclose, execMigclose, exec_migrationPassComplete, execMigrationPassComplete, exec_migrationSwitchComplete, execMigrationSwitchComplete]
  simp [asEvent_clocked run, at_]

/-! The bytes of a line copied. -/

/-- What a run of bytes leaves of memory: its own bytes as written, every other as before. -/
theorem Memory.read_writeAll (bs : List Byte) : ∀ (m : List Host.Cell) (a i : Nat), Memory.wf m = true →
    Memory.read (Memory.writeAll m a bs) i = if a ≤ i ∧ i < a + bs.length then bs.getD (i - a) 0 else Memory.read m i := by
  induction bs with
  | nil => intro m a i _; rw [if_neg (by simp)]; rfl
  | cons b t ih =>
    intro m a i wf
    rw [Memory.writeAll, ih _ _ _ (Memory.wf_write m a b wf)]
    by_cases first : i = a
    · subst first
      rw [if_neg (by omega), if_pos (by simp), Memory.read_write_same m i b wf]; simp
    · rw [Memory.read_write_other m a i b (Ne.symm first)]
      by_cases inside : a + 1 ≤ i ∧ i < a + 1 + t.length
      · rw [if_pos inside, if_pos (by simp; omega), show i - a = (i - (a + 1)) + 1 by omega, List.getD_cons_succ]
      · rw [if_neg inside, if_neg (by simp; omega)]

/-- Bytes written to lines that have no entry in the directory go to memory alone. -/
theorem setPhysBytes_of_unlisted (bs : List Byte) : ∀ (s : State) (pa : Nat), (∀ i < bs.length, s.lines.find ((pa + i) / 128) = none) →
    (s.setPhysBytes pa bs).lines = s.lines ∧ (s.setPhysBytes pa bs).mem = Memory.writeAll s.mem pa bs := by
  induction bs with
  | nil => intro s pa _; exact ⟨rfl, rfl⟩
  | cons b t ih =>
    intro s pa free
    have lines : (s.setPhysByte pa b).lines = s.lines := by
      simp [State.setPhysByte, show s.lines.find (pa / 128) = none from free 0 (by simp)]
    obtain ⟨hl, hm⟩ := ih (s.setPhysByte pa b) (pa + 1) fun i hi => by
      rw [lines, show pa + 1 + i = pa + (i + 1) by omega]; exact free (i + 1) (by simpa using hi)
    exact ⟨hl.trans lines, hm⟩

theorem physBytes_getD (s : State) (pa : Nat) {n i : Nat} (h : i < n) : (s.physBytes pa n).getD i 0 = s.physByte (pa + i) := by
  simp [State.physBytes, bytesFrom, List.getElem?_range h]

/-- A line of a pass copied: the new frame's line holds the old one's bytes, and every other byte is as before (R158). -/
theorem physByte_copyLine {s : State} {g : Mig} {i : Nat} (wf : s.memWf) (still : (s.line (g.line i)).home ≠ .de)
    (free : s.lines.find (g.req.new / 128 + i) = none) (a : Nat) :
    (s.copyLine g i).physByte a = if (g.req.new / 128 + i) * 128 ≤ a ∧ a < (g.req.new / 128 + i) * 128 + 128
      then s.physByte (g.line i * 128 + (a - (g.req.new / 128 + i) * 128)) else s.physByte a := by
  generalize hdst : g.req.new / 128 + i = dst at free
  have len : (s.physBytes (g.line i * 128) 128).length = 128 := by simp [State.physBytes, bytesFrom]
  obtain ⟨lines, mem⟩ := setPhysBytes_of_unlisted (s.physBytes (g.line i * 128) 128) s (dst * 128) fun j hj => by
    rw [show (dst * 128 + j) / 128 = dst by omega, free]
  have copied : (s.copyLine g i).physByte a = (s.setPhysBytes (dst * 128) (s.physBytes (g.line i * 128) 128)).physByte a := by
    simp [State.copyLine, State.physByte, still, hdst]
  rw [copied]
  by_cases inside : dst * 128 ≤ a ∧ a < dst * 128 + 128
  · have line : a / 128 = dst := by omega
    rw [if_pos inside, State.physByte, lines, mem, line, free]
    simp only [Option.bind_none, Memory.read_writeAll _ _ _ _ wf, len, if_pos inside]
    exact physBytes_getD s _ (by omega)
  · rw [if_neg inside]
    simp only [State.physByte, lines, mem, Memory.read_writeAll _ _ _ _ wf, len, if_neg inside]

/-! Requests of other packages (R28). -/

theorem peerAllowed_iff (s : State) (r : PeerReq) : s.peerAllowed r = true ↔
    (r.key = 0 ∨ s.keys.find r.key = some r.ctx) ∧
    (∃ e ∈ s.exports, e.ctx = r.ctx ∧ e.base ≤ r.paddr ∧ r.paddr + peerOpLen r.op ≤ e.base + e.len) ∧
    (s.inHbm r.paddr (peerOpLen r.op) = true ∨ s.inCxl r.paddr (peerOpLen r.op) = true) := by
  simp [State.peerAllowed, and_assoc]

/-- A new request that need not wait is answered at once. -/
theorem exec_peerRequest_answered {s : State} (run : s.clocked = true) (fresh : s.arg.flag = false)
    (go : (s.peerAllowed s.arg.preq && s.peerWaits s.arg.preq) = false) : exec .peerRequest s = .next (s.peerAnswered s.arg.preq) := by
  rw [exec_peerRequest, execPeerRequest, asEvent_clocked run]; simp only [fresh, go]; rfl

theorem exec_peerRequest_held {s : State} (run : s.clocked = true) (fresh : s.arg.flag = false)
    (allowed : s.peerAllowed s.arg.preq = true) (busy : s.lineBusy s.arg.preq.paddr (peerOpLen s.arg.preq.op) = true) :
    exec .peerRequest s = .next { s with peerHeld := s.peerHeld ++ [s.arg.preq] } := by
  rw [exec_peerRequest, execPeerRequest, asEvent_clocked run]; simp [fresh, allowed, State.peerWaits, busy]

theorem peerWaits_of_idle {s : State} {r : PeerReq} (idle : s.lineBusy r.paddr (peerOpLen r.op) = false) (first : s.peerHeld = []) :
    s.peerWaits r = false := by
  simp [State.peerWaits, idle, first]

/-- The bytes that a request of another package reaches at their home, under its key. -/
def peerStore (r : PeerReq) : Store := .mem [⟨r.paddr, peerOpLen r.op, BitVec.ofNat 128 (r.key * 2 ^ 80)⟩]

theorem servePeer_read (s : State) {r : PeerReq} {k : Nat} (op : r.op = .read k) : s.servePeer r =
    (s.loadFill (tkAgt r.ctx (homeDie r.paddr)) false (peerStore r), answerOf (s.bytesWithPoison (tkAgt r.ctx (homeDie r.paddr)) false (peerStore r) k)) := by
  obtain ⟨src, id, ctx, key, paddr, rop⟩ := r; cases op; rfl

theorem servePeer_write (s : State) {r : PeerReq} {b : List Byte} (op : r.op = .write b []) : s.servePeer r =
    (s.writeWithPoison (tkAgt r.ctx (homeDie r.paddr)) (peerStore r) (b.map fun x => (x, none)), .data [] []) := by
  have clean : (b.zipIdx.map fun x : Byte × Nat => (x.1, (none : Option Nat))) = b.map fun x => (x, none) := by
    rw [← List.zipIdx_map_fst 0 b, List.map_map]; simp
  obtain ⟨src, id, ctx, key, paddr, rop⟩ := r
  cases op
  rw [← clean]; rfl

theorem servePeer_atomic (s : State) {r : PeerReq} {op : Nat} {b cmp : List Byte} (isOp : r.op = .atomic op b cmp) : s.servePeer r =
    (let x := s.atomically (tkAgt r.ctx (homeDie r.paddr)) (peerStore r) b.length (atomNew op b.length (if cmp.isEmpty then none else some (leNat cmp)) (leNat b))
     (x.1, answerOf x.2)) := by
  obtain ⟨src, id, ctx, key, paddr, rop⟩ := r; cases isOp; rfl

/-! Answers of peers (R28). -/

@[simp] theorem setPod_warps (s : State) (die : Nat) (l : Assoc L1Line) : (s.setPod die l).warps = s.warps := rfl
@[simp] theorem setPod_clock (s : State) (die : Nat) (l : Assoc L1Line) : (s.setPod die l).clock = s.clock := rfl

theorem takeLines_of_no_fill {s : State} {r : PeerOut} (x : PeerAnswer) (h : r.fill = none) : s.takeLines r x = s := by simp [State.takeLines, h]
theorem answerDrops_of_no_drops {s : State} {r : PeerOut} (h : r.drops = []) : s.answerDrops r = s := by simp [State.answerDrops, h]

/-- The caches that take an answer's lines leave the warps and the clock alone. -/
theorem takeLines_warps_clock (s : State) (r : PeerOut) (x : PeerAnswer) : (s.takeLines r x).warps = s.warps ∧ (s.takeLines r x).clock = s.clock := by
  unfold State.takeLines
  split
  · split
    · unfold State.podFill; split <;> exact ⟨rfl, rfl⟩
    · exact ⟨rfl, rfl⟩
  · exact ⟨rfl, rfl⟩

theorem answerDrops_warps_clock (s : State) (r : PeerOut) : (s.answerDrops r).warps = s.warps ∧ (s.answerDrops r).clock = s.clock := by
  unfold State.answerDrops; split <;> exact ⟨rfl, rfl⟩

/-- The state in which an answer's request is forgotten and the caches have taken what it brings. -/
def State.answered (s : State) (r : PeerOut) (x : PeerAnswer) : State :=
  (({ s with peerReqs := s.peerReqs.filter fun q => q.id != r.id } : State).takeLines r x).answerDrops r

theorem answered_warp_clock (s : State) (r : PeerOut) (x : PeerAnswer) (c k : Nat) :
    (s.answered r x).warp c k = s.warp c k ∧ (s.answered r x).clock = s.clock := by
  obtain ⟨w1, c1⟩ := takeLines_warps_clock { s with peerReqs := s.peerReqs.filter fun q => q.id != r.id } r x
  obtain ⟨w2, c2⟩ := answerDrops_warps_clock (({ s with peerReqs := s.peerReqs.filter fun q => q.id != r.id } : State).takeLines r x) r
  exact ⟨by rw [State.warp, State.answered, w2, w1, State.warp], by rw [State.answered, c2, c1]⟩

/-- Where an answer goes: to a posted request's context if it failed, to the warp that asked, or to the work that asked. -/
def State.delivered (s : State) (r : PeerOut) (x : PeerAnswer) : State :=
  if r.posted then (match PeerAnswer.cause x with
    | some e => s.postedFault r.agt e .write r.addr
    | none => s)
  else if r.slot < 48 then s.warpAnswer r x
  else { s with pxData := s.pxData ++ [(r.data, r.lane, x)] }

theorem exec_peerResponse_found {s : State} {r : PeerOut} (run : s.clocked = true)
    (found : (s.peerReqs.find? fun x => x.id == s.arg.presp.id && x.pkg != otherDie) = some r) :
    exec .peerResponse s = .next ((s.answered r s.arg.presp.answer).delivered r (r.read s.arg.presp.answer)) := by
  rw [exec_peerResponse, execPeerResponse, asEvent_clocked run, found]; rfl

/-- A warp's request that is still out is one that is not posted, of its core and slot. -/
theorem any_unposted (l : List PeerOut) (c k : Nat) :
    (l.any fun q => !q.posted && q.core == c && q.slot == k) = !(l.all fun q => q.posted || q.core != c || q.slot != k) := by
  simp [List.not_all_eq_any_not, bne]

/-- The last answer that a warp waits for lets its instruction issue again. -/
theorem warpAnswer_last {s : State} {r : PeerOut} {w : Warp} (x : PeerAnswer) (warp : s.warp r.core r.slot = some w) (wait : w.wait = some .peer)
    (last : (s.peerReqs.all fun q => q.posted || q.core != r.core || q.slot != r.slot) = true) :
    s.warpAnswer r x = s.setWarp r.core r.slot (({ w with pxRes := w.pxRes ++ [(r.lane, x)] } : Warp).wake s.clock) := by
  simp [State.warpAnswer, warp, any_unposted, last, wait]

/-- An earlier answer is kept. -/
theorem warpAnswer_more {s : State} {r : PeerOut} {w : Warp} (x : PeerAnswer) (warp : s.warp r.core r.slot = some w)
    (more : (s.peerReqs.all fun q => q.posted || q.core != r.core || q.slot != r.slot) = false) :
    s.warpAnswer r x = s.setWarp r.core r.slot { w with pxRes := w.pxRes ++ [(r.lane, x)] } := by
  simp [State.warpAnswer, warp, any_unposted, more]

theorem read_of_no_fill {r : PeerOut} (x : PeerAnswer) (fill : r.fill = none) (pod : Config.inPod r.pkg = true) : r.read x = x := by
  simp [PeerOut.read, fill, pod]
theorem read_outside_pod {r : PeerOut} (x : PeerAnswer) (out : Config.inPod r.pkg = false) : r.read x = .unreachable := by
  simp [PeerOut.read, out]

/-- Settles O56: each clause is the equation of its step above, and a peer's request is allowed exactly when `State.peerAllowed` holds. -/
theorem migrationAndPeers : Obligations.MigrationAndPeers := by
  refine ⟨fun s run => ⟨?_, ?_⟩, fun s g run at_ => ⟨?_, ?_, ?_, ?_, ?_, ?_⟩, fun s run at_ => exec_migSteps_of_no_entry run at_, ?_, ?_, ?_⟩
  · rintro _ rfl size reserved old new oldThere newThere apart oldFree newFree
    have ok := (migOk_iff s s.arg.mig).2 ⟨size, reserved, old, new, oldThere, newThere, apart, oldFree, newFree⟩
    exact ⟨exec_mig_opened run ok, exec_mig_waits run ok⟩
  · intro bad
    refine exec_mig_rejected run (Bool.eq_false_iff.2 fun ok => ?_)
    obtain ⟨size, reserved, old, -, -, newThere, apart, -, -⟩ := (migOk_iff s s.arg.mig).1 ok
    rcases bad with h | h | h | h | h
    · omega
    · exact h reserved
    · exact h old
    · exact Bool.false_ne_true (h.symm.trans newThere)
    · exact Bool.false_ne_true (apart.symm.trans h)
  · exact exec_migrationPassComplete_of_not_copy run at_
  · intro st todo _
    have pass := exec_migrationPassComplete_of_copied run at_ st todo
    refine ⟨fun many early => ⟨_, pass.trans (by rw [if_neg (by omega)]), migAt_setMig _ (migAt_setMig g at_ rfl) rfl, sameBytes_of rfl rfl rfl fun _ => rfl⟩, ?_⟩
    intro few lines
    exact ⟨_, pass.trans (by rw [if_pos few]; exact congrArg _ (recallFrame_of_no_lines g lines)), migAt_setMig _ (migAt_setMig g at_ rfl) rfl, sameBytes_of rfl rfl rfl fun _ => rfl⟩
  · exact exec_migrationSwitchComplete_of_not_ready run at_
  · intro ready lines dirty _
    refine ⟨_, exec_migrationSwitchComplete_of_ready run at_ ready lines dirty, migAt_setMig _ at_ rfl, List.mem_cons_self, ?_, sameBytes_of rfl rfl rfl fun _ => rfl,
      fun a lo hi only => migTarget_setMig_redirect (migAt_spec at_).1 rfl rfl lo hi only⟩
    by_cases die : g.die = 0 <;> simp [State.switched, die]
  · exact exec_migclose_of_redirect run at_
  · exact exec_migclose_of_not_redirect run at_
  · intro s g i wf still free u
    refine ⟨fun j hj => ?_, fun a out => ?_⟩
    · rw [physByte_copyLine wf still free, if_pos (by omega), Nat.add_sub_cancel_left]
    · rw [physByte_copyLine wf still free, if_neg (by omega)]
  · rintro s r run rfl n home st answers allowed fresh
    have isAllowed : s.peerAllowed s.arg.preq = true ↔ allowed := peerAllowed_iff s s.arg.preq
    refine ⟨fun no => ?_, fun ok busy => exec_peerRequest_held run fresh (isAllowed.2 ok) busy, fun ok idle first => ?_⟩
    · have denied : s.peerAllowed s.arg.preq = false := Bool.eq_false_iff.2 fun h => no (isAllowed.1 h)
      rw [exec_peerRequest_answered run fresh (by simp [denied])]
      simp [State.peerAnswered, denied, answers]
    · have served : exec .peerRequest s = answers (s.servePeer s.arg.preq).1 (s.servePeer s.arg.preq).2 := by
        rw [exec_peerRequest_answered run fresh (by simp [peerWaits_of_idle idle first])]
        simp [State.peerAnswered, isAllowed.2 ok, answers]
      exact ⟨fun k op => by rw [served, servePeer_read s op]; rfl, fun b op => by rw [served, servePeer_write s op]; rfl,
        fun op b cmp isOp => by rw [served, servePeer_atomic s isOp]; rfl⟩
  · intro s r run found s0 s1 x
    have answer : exec .peerResponse s = .next (s1.delivered r x) := exec_peerResponse_found run found
    obtain ⟨warp, clock⟩ : s1.warp r.core r.slot = s.warp r.core r.slot ∧ s1.clock = s.clock := answered_warp_clock s r _ _ _
    rw [answer]
    refine ⟨fun fill drops => ⟨?_, read_of_no_fill _ fill⟩, read_outside_pod _, fun p c => ?_, fun e p c => ?_, fun p h => ?_, fun w p h at_ wait last => ?_, fun w p h at_ more => ?_⟩
    · simp [s1, takeLines_of_no_fill _ fill, answerDrops_of_no_drops drops]
    · simp [State.delivered, p, c]
    · simp [State.delivered, p, c]
    · simp [State.delivered, p, Nat.not_lt.2 h]
    · simp only [State.delivered, p, h, if_true, Bool.false_eq_true, if_false, warpAnswer_last _ (warp.trans at_) wait last, clock]
    · simp only [State.delivered, p, h, if_true, Bool.false_eq_true, if_false, warpAnswer_more _ (warp.trans at_) more]

end Sys2Proof.Machine
end

section
/-! Requesters of translations: those that wait for no page any more go on (R34, R36), and nothing but them changes. -/
namespace Sys2Proof.Machine
open Sys2Proof

/-- From s to t requesters have gone on: warps may differ, and in a core its sequencer. -/
structure State.OnlyWoke (s t : State) : Prop where
  rest : ∃ ws cs, t = { s with warps := ws, cores := cs }
  tlb : ∀ e, (t.core e).tlb = (s.core e).tlb
  shared : ∀ e, (t.core e).shared = (s.core e).shared

theorem State.OnlyWoke.refl (s : State) : s.OnlyWoke s := ⟨⟨s.warps, s.cores, rfl⟩, fun _ => rfl, fun _ => rfl⟩

theorem State.OnlyWoke.trans {s t u : State} (h : s.OnlyWoke t) (k : t.OnlyWoke u) : s.OnlyWoke u := by
  obtain ⟨⟨ws, cs, rfl⟩, tlb, shared⟩ := h
  obtain ⟨⟨ws', cs', rfl⟩, tlb', shared'⟩ := k
  exact ⟨⟨ws', cs', rfl⟩, fun e => (tlb' e).trans (tlb e), fun e => (shared' e).trans (shared e)⟩

theorem State.OnlyWoke.sameBytes {s t : State} (h : s.OnlyWoke t) : s.sameBytes t := by
  obtain ⟨⟨ws, cs, rfl⟩, -, shared⟩ := h
  exact sameBytes_of rfl rfl rfl shared

theorem onlyWoke_setWarp (s : State) (c k : Nat) (w : Warp) : s.OnlyWoke (s.setWarp c k w) := ⟨⟨_, _, rfl⟩, fun _ => rfl, fun _ => rfl⟩

theorem onlyWoke_setSeq (s : State) (c : Nat) (q : Seq) : s.OnlyWoke (s.setSeq c q) := by
  refine ⟨⟨_, _, rfl⟩, fun e => ?_, fun e => ?_⟩ <;>
  · rw [State.setSeq, core_setCore]; split
    · next h => rw [h]
    · rfl

theorem onlyWoke_wakeFor (s : State) (w : Who) : s.OnlyWoke (s.wakeFor w) := by
  unfold State.wakeFor
  split
  · exact .refl s
  · split
    · split
      · split
        · exact onlyWoke_setWarp s _ _ _
        · exact .refl s
      · exact .refl s
    · split
      · split
        · exact onlyWoke_setSeq s _ _
        · exact .refl s
      · exact .refl s
    · exact .refl s

/-- A warp that waits for no page any more issues its instruction again. -/
theorem wakeFor_warp {s : State} {c k : Nat} {w : Warp} {ps : List Nat} (free : s.whoWaits (.warp c k) = false) (warp : s.warp c k = some w)
    (wait : w.wait = some (.xlate ps)) : s.wakeFor (.warp c k) = s.setWarp c k (w.wake s.clock) := by
  simp [State.wakeFor, free, warp, wait]

/-- Requesters go on, in order. -/
def State.wakeAll (s : State) (ws : List Who) : State := ws.foldl State.wakeFor s

theorem onlyWoke_wakeAll (s : State) (ws : List Who) : s.OnlyWoke (s.wakeAll ws) :=
  foldl_relates .refl .trans ws s fun w _ t => onlyWoke_wakeFor t w

/-- Whether a requester waits depends on the misses and the faults; fewer faults keep none waiting. -/
theorem whoWaits_of_fewer {s t : State} {w : Who} (misses : t.misses = s.misses) (pfaults : ∀ f ∈ t.pfaults, f ∈ s.pfaults)
    (free : s.whoWaits w = false) : t.whoWaits w = false := by
  simp only [State.whoWaits, Bool.or_eq_false_iff, List.any_eq_false] at free ⊢
  exact ⟨misses ▸ free.1, fun f hf => free.2 f (pfaults f hf)⟩

end Sys2Proof.Machine
end

section
/-! The end of a walk (R31-R34). -/
namespace Sys2Proof.Machine
open Sys2Proof

/-! Caches. -/

@[simp] theorem dieTlb_setDieTlb (s : State) (die : Nat) (l : List TlbEntry) : (s.setDieTlb die l).dieTlb die = l := by
  unfold State.setDieTlb State.dieTlb; split <;> rfl

theorem dieTlb_congr {s t : State} (h : t.tlbDie = s.tlbDie) (die : Nat) : t.dieTlb die = s.dieTlb die := by simp only [State.dieTlb, h]

theorem mem_tlbPut {size : Nat} (pos : 0 < size) (l : List TlbEntry) (e : TlbEntry) : e ∈ tlbPut size l e := by
  unfold tlbPut
  rw [List.drop_append_of_le_length (by simp; omega)]
  simp

/-- A translation enters the caches of some cores. -/
def State.cacheIn (s : State) (e : TlbEntry) (cs : List Nat) : State :=
  cs.foldl (fun (s : State) c => s.setCore c { s.core c with tlb := tlbPut coreTlbSize (s.core c).tlb e }) s

theorem cacheIn_cons (s : State) (e : TlbEntry) (c : Nat) (cs : List Nat) :
    s.cacheIn e (c :: cs) = (s.setCore c { s.core c with tlb := tlbPut coreTlbSize (s.core c).tlb e }).cacheIn e cs := rfl

/-- From s to t only translation caches have changed. -/
structure State.OnlyCached (s t : State) : Prop where
  rest : ∃ d cs, t = { s with tlbDie := d, cores := cs }
  shared : ∀ e, (t.core e).shared = (s.core e).shared

theorem State.OnlyCached.refl (s : State) : s.OnlyCached s := ⟨⟨s.tlbDie, s.cores, rfl⟩, fun _ => rfl⟩

theorem State.OnlyCached.trans {s t u : State} (h : s.OnlyCached t) (k : t.OnlyCached u) : s.OnlyCached u := by
  obtain ⟨⟨d, cs, rfl⟩, shared⟩ := h
  obtain ⟨⟨d', cs', rfl⟩, shared'⟩ := k
  exact ⟨⟨d', cs', rfl⟩, fun e => (shared' e).trans (shared e)⟩

/-- A core's cache replaced. -/
theorem onlyCached_setCore (s : State) (c : Nat) (l : List TlbEntry) : s.OnlyCached (s.setCore c { s.core c with tlb := l }) := by
  refine ⟨⟨_, _, rfl⟩, fun e => ?_⟩
  rw [core_setCore]; split
  · next h => rw [h]
  · rfl

theorem onlyCached_cacheIn (s : State) (e : TlbEntry) (cs : List Nat) : s.OnlyCached (s.cacheIn e cs) :=
  foldl_relates .refl .trans cs s fun c _ t => onlyCached_setCore t c _

theorem cacheIn_tlbDie (s : State) (e : TlbEntry) (cs : List Nat) : (s.cacheIn e cs).tlbDie = s.tlbDie :=
  foldl_relates (R := fun s t : State => t.tlbDie = s.tlbDie) (fun _ => rfl) (fun h k => k.trans h) cs s fun _ _ _ => rfl

theorem mem_cacheIn_of_mem (e : TlbEntry) (cs : List Nat) : ∀ (s : State) (c : Nat), e ∈ (s.core c).tlb → e ∈ ((s.cacheIn e cs).core c).tlb := by
  induction cs with
  | nil => exact fun _ _ h => h
  | cons x t ih =>
    intro s c h
    rw [cacheIn_cons]
    refine ih _ c ?_
    rw [core_setCore]; split
    · dsimp only; exact mem_tlbPut (by simp [coreTlbSize]) _ e
    · exact h

theorem mem_cacheIn (e : TlbEntry) (cs : List Nat) : ∀ (s : State) (c : Nat), c ∈ cs → e ∈ ((s.cacheIn e cs).core c).tlb := by
  induction cs with
  | nil => exact fun _ _ h => absurd h (by simp)
  | cons x t ih =>
    intro s c h
    rw [cacheIn_cons]
    rcases List.mem_cons.1 h with rfl | h
    · refine mem_cacheIn_of_mem e t _ c ?_
      rw [core_setCore, if_pos rfl]; dsimp only; exact mem_tlbPut (by simp [coreTlbSize]) _ e
    · exact ih _ c h

/-- The cache entry that a walk of a miss gives (R32). -/
def Miss.entry (m : Miss) (e : BitVec 128) (size : Nat) : TlbEntry := ⟨m.ctx, m.page / (size / 65536) * (size / 65536), size / 65536, e⟩

theorem cacheWalk_eq (s : State) (m : Miss) (e : TlbEntry) : s.cacheWalk m e =
    (s.setDieTlb m.die (tlbPut dieTlbSize (s.dieTlb m.die) e)).cacheIn e (m.waiters.filterMap fun x => x.who.core).eraseDups := rfl

/-- A walk's translation is put into the die's cache and those of its requesters' cores, and only caches change (R32). -/
theorem cacheWalk_spec (s : State) (m : Miss) (e : TlbEntry) :
    s.OnlyCached (s.cacheWalk m e) ∧ e ∈ (s.cacheWalk m e).dieTlb m.die ∧ ∀ c, (∃ x ∈ m.waiters, x.who.core = some c) → e ∈ ((s.cacheWalk m e).core c).tlb := by
  have die : s.OnlyCached (s.setDieTlb m.die (tlbPut dieTlbSize (s.dieTlb m.die) e)) := ⟨⟨_, s.cores, rfl⟩, fun _ => rfl⟩
  rw [cacheWalk_eq]
  refine ⟨die.trans (onlyCached_cacheIn _ e _), ?_, fun c hc => mem_cacheIn e _ _ c ?_⟩
  · rw [dieTlb_congr (cacheIn_tlbDie _ e _), dieTlb_setDieTlb]; exact mem_tlbPut (by simp [dieTlbSize]) _ e
  · simpa [List.mem_eraseDups] using hc

end Sys2Proof.Machine
end

section
/-! Faults raised (R36, R38): what they may change, and whose faults they leave alone. -/
namespace Sys2Proof.Machine
open Sys2Proof

theorem migNotes_eq (xs : List Nat) : ∀ s : State, ∃ mig, xs.foldl (fun (s : State) x => s.migNote (x * 64)) s = { s with mig := mig } :=
  fun s => foldl_relates (R := fun s t : State => ∃ mig, t = { s with mig := mig }) (fun s => ⟨s.mig, rfl⟩)
    (by rintro s _ _ ⟨a, rfl⟩ ⟨b, rfl⟩; exact ⟨b, rfl⟩) xs s fun x _ t => by
      unfold State.migNote
      split
      · dsimp only; split
        · exact ⟨t.mig, rfl⟩
        · exact ⟨_, rfl⟩
      · exact ⟨t.mig, rfl⟩

theorem setPhysBytes_eq (bs : List Byte) : ∀ (s : State) (pa : Nat), ∃ mem lines recent,
    s.setPhysBytes pa bs = { s with mem := mem, lines := lines, recent := recent } := by
  induction bs with
  | nil => exact fun s _ => ⟨s.mem, s.lines, s.recent, rfl⟩
  | cons b t ih =>
    intro s pa
    obtain ⟨mem, lines, recent, h⟩ := ih (s.setPhysByte pa b) (pa + 1)
    exact ⟨mem, lines, recent, h⟩

/-- From s to t only memory, what follows a write of it, contexts' rings, interrupts and the outstanding faults have changed. -/
def State.OnlyFaulted (s t : State) : Prop := ∃ mem lines recent mig poison ctxs msix pfaults,
  t = { s with mem := mem, lines := lines, recent := recent, mig := mig, poison := poison, ctxs := ctxs, msix := msix, pfaults := pfaults }

theorem State.OnlyFaulted.refl (s : State) : s.OnlyFaulted s := ⟨s.mem, s.lines, s.recent, s.mig, s.poison, s.ctxs, s.msix, s.pfaults, rfl⟩

theorem State.OnlyFaulted.trans {s t u : State} (h : s.OnlyFaulted t) (k : t.OnlyFaulted u) : s.OnlyFaulted u := by
  obtain ⟨_, _, _, _, _, _, _, _, rfl⟩ := h
  obtain ⟨mem, lines, recent, mig, poison, ctxs, msix, pfaults, rfl⟩ := k
  exact ⟨mem, lines, recent, mig, poison, ctxs, msix, pfaults, rfl⟩

theorem onlyFaulted_writePhys (s : State) (pa : Nat) (bs : List Byte) : s.OnlyFaulted (s.writePhys pa bs) ∧ (s.writePhys pa bs).pfaults = s.pfaults := by
  unfold State.writePhys
  obtain ⟨mig, h⟩ := migNotes_eq (sectorsOf pa bs.length) s
  obtain ⟨mem, lines, recent, k⟩ := setPhysBytes_eq bs { s with mig := mig } (s.migTarget pa)
  simp only [h, k]
  exact ⟨⟨mem, lines, recent, mig, _, s.ctxs, s.msix, s.pfaults, rfl⟩, trivial⟩

theorem onlyFaulted_setCtx (s : State) (c : Nat) (x : Ctx) : s.OnlyFaulted (s.setCtx c x) :=
  ⟨s.mem, s.lines, s.recent, s.mig, s.poison, s.ctxs.put c x, s.msix, s.pfaults, rfl⟩

theorem onlyFaulted_interrupt (s : State) (m : Msix) : s.OnlyFaulted (s.interrupt m) :=
  ⟨s.mem, s.lines, s.recent, s.mig, s.poison, s.ctxs, m :: s.msix, s.pfaults, rfl⟩

theorem onlyFaulted_pfaults (s : State) (fs : List PFault) : s.OnlyFaulted { s with pfaults := fs } :=
  ⟨s.mem, s.lines, s.recent, s.mig, s.poison, s.ctxs, s.msix, fs, rfl⟩

theorem onlyFaulted_writeFq (s : State) (ctx die : Nat) (c : Cause) (x : Waiter) (n : Nat) :
    s.OnlyFaulted (s.writeFq ctx die c x n).1 ∧ (s.writeFq ctx die c x n).1.pfaults = s.pfaults := by
  unfold State.writeFq
  split
  · exact ⟨.refl s, rfl⟩
  · split
    · exact ⟨onlyFaulted_setCtx s _ _, rfl⟩
    · next k _ _ =>
      obtain ⟨written, same⟩ := onlyFaulted_writePhys s (k.fq.base + 32 * (k.fq.tail % k.fq.size))
        (fqEntry x.addr k.fq.seq c x.acc x.path ctx (x.who.unit die) (x.who.holder x.path) n)
      exact ⟨(written.trans (onlyFaulted_setCtx _ _ _)).trans (onlyFaulted_interrupt _ _), by simpa using same⟩

/-- From s to t the outstanding faults of contexts other than one are still there. -/
def State.SparesFaults (ctx : Nat) (s t : State) : Prop := ∀ f ∈ s.pfaults, f.ctx ≠ ctx → f ∈ t.pfaults

theorem sparesFaults_of_same {ctx : Nat} {s t : State} (h : t.pfaults = s.pfaults) : s.SparesFaults ctx t := fun _ hf _ => h ▸ hf

theorem State.SparesFaults.trans {ctx : Nat} {s t u : State} (h : s.SparesFaults ctx t) (k : t.SparesFaults ctx u) : s.SparesFaults ctx u :=
  fun f hf other => k f (h f hf other) other

theorem at_of_other {f : PFault} {g : Agt} (x : XFault) (other : f.ctx ≠ g.ctx) : f.at_ g x = false := by simp [PFault.at_, other]

/-- A fault raised changes only what its queue entry does and the outstanding faults, and no other context's (R36, R38). -/
theorem raiseFault_spec (s : State) (g : Agt) (x : XFault) : s.OnlyFaulted (s.raiseFault g x) ∧ s.SparesFaults g.ctx (s.raiseFault g x) := by
  unfold State.raiseFault
  split
  · next old _ =>
    split
    · obtain ⟨only, same⟩ := onlyFaulted_writeFq s g.ctx g.die x.cause ⟨g.who, g.path, x.addr, x.acc⟩ old.replays
      refine ⟨only.trans (onlyFaulted_pfaults _ _), fun f hf other => ?_⟩
      exact List.mem_append_left _ (List.mem_filter.2 ⟨same ▸ hf, by simp [at_of_other x other]⟩)
    · refine ⟨onlyFaulted_pfaults s _, fun f hf other => ?_⟩
      exact List.mem_map.2 ⟨f, hf, by simp [at_of_other x other]⟩
  · obtain ⟨only, same⟩ := onlyFaulted_writeFq s g.ctx g.die x.cause ⟨g.who, g.path, x.addr, x.acc⟩ 0
    exact ⟨only.trans (onlyFaulted_pfaults _ _), fun f hf _ => List.mem_append_left _ (same ▸ hf)⟩

/-- A replay that fails again raises its requests' faults, and nothing else (R40). -/
theorem onlyFaulted_faultAgain (s : State) (m : Miss) (c : Cause) (page span : Nat) : s.OnlyFaulted (s.faultAgain m c page span) :=
  foldl_relates .refl .trans m.waiters s fun _ _ t => (raiseFault_spec t _ _).1

end Sys2Proof.Machine
end

section
/-! The end of a walk, case by case (R31-R35, R40). -/
namespace Sys2Proof.Machine
open Sys2Proof

/-- A walk is over and its walker takes another miss. -/
def State.walked (s : State) (m : Miss) : State := State.startWalks { s with misses := s.misses.erase m } m.die

/-- Those who wait for a miss. -/
def Miss.asking (m : Miss) : List Who := m.waiters.map (·.who)

/-- A walk's fault as one requester is told of it. -/
def Miss.fail (m : Miss) (c : Cause) (size : Nat) (x : Waiter) : XFail := ⟨x.who, m.page, c, m.page / (size / 65536) * (size / 65536), size / 65536⟩

/-- The state that the end of a walk leaves before its requesters go on: a translation cached, or faults raised again or delivered. -/
def State.walkGives (s : State) (m : Miss) : State :=
  if m.discarded then s
  else match s.walk m.die m.ctx (m.page * 65536) with
    | .ok (e, size) => (s.cacheWalk m (m.entry e size)).settled m
    | .error (c, size) =>
      if m.replay && s.replayable m.ctx c then s.faultAgain m c (m.page / (size / 65536) * (size / 65536)) (size / 65536)
      else { s with xlfail := s.xlfail ++ m.waiters.map (m.fail c size) }

theorem endWalk_eq (s : State) (m : Miss) : s.endWalk m = ((s.walked m).walkGives m).wakeAll m.asking := by
  rw [State.wakeAll, Miss.asking, List.foldl_map]; rfl

theorem walkGives_discarded (s : State) {m : Miss} (h : m.discarded = true) : s.walkGives m = s := by simp [State.walkGives, h]

theorem walkGives_found {s : State} {m : Miss} {e : BitVec 128} {size : Nat} (h : m.discarded = false)
    (walk : s.walk m.die m.ctx (m.page * 65536) = .ok (e, size)) : s.walkGives m = (s.cacheWalk m (m.entry e size)).settled m := by
  simp [State.walkGives, h, walk]

theorem walkGives_failed {s : State} {m : Miss} {c : Cause} {size : Nat} (h : m.discarded = false)
    (walk : s.walk m.die m.ctx (m.page * 65536) = .error (c, size)) (told : (m.replay && s.replayable m.ctx c) = false) :
    s.walkGives m = { s with xlfail := s.xlfail ++ m.waiters.map (m.fail c size) } := by
  simp only [State.walkGives, h, walk, told, Bool.false_eq_true, if_false]

theorem walkGives_again {s : State} {m : Miss} {c : Cause} {size : Nat} (h : m.discarded = false)
    (walk : s.walk m.die m.ctx (m.page * 65536) = .error (c, size)) (again : (m.replay && s.replayable m.ctx c) = true) :
    s.walkGives m = s.faultAgain m c (m.page / (size / 65536) * (size / 65536)) (size / 65536) := by
  simp only [State.walkGives, h, walk, again, Bool.false_eq_true, if_false, if_true]

/-- What the end of a walk of a miss leaves, but for a replay that raises its faults again (R32-R35). -/
structure State.Walked (s t : State) (m : Miss) : Prop where
  misses : t.misses = s.misses
  bytes : s.sameBytes t
  pfaults : ∀ f ∈ t.pfaults, f ∈ s.pfaults
  found : ∀ e size, m.discarded = false → s.walk m.die m.ctx (m.page * 65536) = .ok (e, size) →
    m.entry e size ∈ t.dieTlb m.die ∧ ∀ c, (∃ x ∈ m.waiters, x.who.core = some c) → m.entry e size ∈ (t.core c).tlb
  failed : ∀ c size, m.discarded = false → s.walk m.die m.ctx (m.page * 65536) = .error (c, size) → ∀ x ∈ m.waiters, m.fail c size x ∈ t.xlfail
  dropped : m.discarded = true → t.tlbDie = s.tlbDie ∧ t.xlfail = s.xlfail

/-- Requesters that go on take nothing back. -/
theorem State.Walked.woke {s t u : State} {m : Miss} (h : s.Walked t m) (k : t.OnlyWoke u) : s.Walked u m := by
  have same := k.sameBytes
  obtain ⟨⟨ws, cs, rfl⟩, tlb, -⟩ := k
  refine ⟨h.misses, sameBytes_trans h.bytes same, h.pfaults, fun e size live walk => ?_, h.failed, h.dropped⟩
  obtain ⟨inDie, inCores⟩ := h.found e size live walk
  exact ⟨inDie, fun c hc => (tlb c).symm ▸ inCores c hc⟩

theorem walkGives_spec (s : State) {m : Miss} (once : m.discarded = true ∨ m.replay = false) : s.Walked (s.walkGives m) m := by
  cases live : m.discarded with
  | true =>
    rw [walkGives_discarded s live]
    exact ⟨rfl, sameBytes_of rfl rfl rfl fun _ => rfl, fun _ h => h, fun _ _ h => absurd live (by simp [h]), fun _ _ h => absurd live (by simp [h]), fun _ => ⟨rfl, rfl⟩⟩
  | false =>
    cases walk : s.walk m.die m.ctx (m.page * 65536) with
    | ok r =>
      obtain ⟨e, size⟩ := r
      obtain ⟨cached, inDie, inCores⟩ := cacheWalk_spec s m (m.entry e size)
      rw [walkGives_found live walk]
      generalize s.cacheWalk m (m.entry e size) = t at cached inDie inCores ⊢
      obtain ⟨⟨d, cs, rfl⟩, shared⟩ := cached
      refine ⟨rfl, sameBytes_of rfl rfl rfl shared, fun f hf => (List.mem_filter.1 hf).1, fun e' size' _ h => ?_, fun _ _ _ h => ?_, fun h => ?_⟩
      · obtain ⟨rfl, rfl⟩ : e = e' ∧ size = size' := by simpa [walk] using h
        exact ⟨inDie, inCores⟩
      · exact absurd (walk.symm.trans h) (by simp)
      · exact absurd live (by simp [h])
    | error r =>
      obtain ⟨c, size⟩ := r
      rw [walkGives_failed live walk (by rcases once with h | h <;> simp_all)]
      refine ⟨rfl, sameBytes_of rfl rfl rfl fun _ => rfl, fun _ h => h, fun _ _ _ h => ?_, fun c' size' _ h x hx => ?_, fun h => ?_⟩
      · exact absurd (walk.symm.trans h) (by simp)
      · obtain ⟨rfl, rfl⟩ : c = c' ∧ size = size' := by simpa [walk] using h
        exact List.mem_append_right _ (List.mem_map_of_mem hx)
      · exact absurd live (by simp [h])

theorem walkGives_warps_clock (s : State) {m : Miss} (once : m.discarded = true ∨ m.replay = false) :
    (s.walkGives m).warps = s.warps ∧ (s.walkGives m).clock = s.clock := by
  cases live : m.discarded with
  | true => rw [walkGives_discarded s live]; exact ⟨rfl, rfl⟩
  | false =>
    cases walk : s.walk m.die m.ctx (m.page * 65536) with
    | ok r =>
      obtain ⟨⟨⟨d, cs, rest⟩, -⟩, -, -⟩ := cacheWalk_spec s m (m.entry r.1 r.2)
      rw [walkGives_found live walk, rest]; exact ⟨rfl, rfl⟩
    | error r => rw [walkGives_failed live walk (by rcases once with h | h <;> simp_all)]; exact ⟨rfl, rfl⟩

theorem endWalk_spec (s : State) {m : Miss} (once : m.discarded = true ∨ m.replay = false) : (s.walked m).Walked (s.endWalk m) m := by
  rw [endWalk_eq]; exact (walkGives_spec _ once).woke (onlyWoke_wakeAll _ _)

/-- A lone warp that waited for the walk alone issues its instruction again (R34). -/
theorem endWalk_wakes {s : State} {m : Miss} {c k : Nat} {w : Warp} {ps : List Nat} (once : m.discarded = true ∨ m.replay = false)
    (lone : m.asking = [.warp c k]) (warp : s.warp c k = some w) (wait : w.wait = some (.xlate ps)) (free : (s.walked m).whoWaits (.warp c k) = false) :
    (s.endWalk m).warp c k = some (w.wake s.clock) := by
  obtain ⟨warps, clock⟩ := walkGives_warps_clock (s.walked m) once
  have spec := walkGives_spec (s.walked m) once
  rw [endWalk_eq, lone]
  show (State.wakeFor _ _).warp c k = _
  rw [wakeFor_warp (whoWaits_of_fewer spec.misses spec.pfaults free) (by rw [State.warp, warps]; exact warp) wait, warp_setWarp_same, clock]
  rfl

theorem exec_walkComplete_found {s : State} {m : Miss} (run : s.clocked = true)
    (found : (s.misses.find? fun x => x.die == s.arg.die && x.ctx == s.arg.ctx && x.page == s.arg.addr && x.walkDone s.clock) = some m) :
    exec .walkComplete s = .next (s.endWalk m) := by
  rw [exec_walkComplete, execWalkComplete, asEvent_clocked run]; simp only [found]

theorem exec_walkComplete_none {s : State} (run : s.clocked = true)
    (found : (s.misses.find? fun x => x.die == s.arg.die && x.ctx == s.arg.ctx && x.page == s.arg.addr && x.walkDone s.clock) = none) :
    exec .walkComplete s = .next s := by
  rw [exec_walkComplete, execWalkComplete, asEvent_clocked run]; simp only [found]

/-- A replay whose walk ends in a replayable fault has raised it again: no translation is cached and no fault delivered (R40). -/
theorem endWalk_again {s : State} {m : Miss} {c : Cause} {size : Nat} (live : m.discarded = false) (replay : m.replay = true)
    (walk : (s.walked m).walk m.die m.ctx (m.page * 65536) = .error (c, size)) (again : (s.walked m).replayable m.ctx c = true) :
    (s.endWalk m).misses = (s.walked m).misses ∧ (s.endWalk m).xlfail = s.xlfail ∧ (s.endWalk m).tlbDie = s.tlbDie := by
  obtain ⟨⟨ws, cs, woke⟩, -, -⟩ := onlyWoke_wakeAll ((s.walked m).walkGives m) m.asking
  obtain ⟨_, _, _, _, _, _, _, _, raised⟩ := onlyFaulted_faultAgain (s.walked m) m c (m.page / (size / 65536) * (size / 65536)) (size / 65536)
  rw [endWalk_eq, woke, walkGives_again live walk (by simp [replay, again]), raised]
  exact ⟨rfl, rfl, rfl⟩

end Sys2Proof.Machine
end

section
/-! Invalidations (R35). -/
namespace Sys2Proof.Machine
open Sys2Proof

/-- A request's range leaves each core's cache, and nothing else of the core changes. -/
theorem core_dropRange (s : State) (x : Inv) (e : Nat) :
    (s.dropRange x).core e = { s.core e with tlb := (s.core e).tlb.filter fun t => !x.meets t.ctx t.page t.span } := by
  simp only [State.core, State.dropRange, Assoc.getD, find_mapVals]
  cases s.cores.find e <;> rfl

/-- The accesses of a context have been performed: none of its warps' loads is still to be read (R35). -/
def State.performedFor (s : State) (ctx : Nat) : State :=
  { s with warps := mapVals s.warps fun (_ : Nat) (w : Warp) => if s.ctxOf w = ctx then { w with late := [] } else w }

/-- The state in which a request waits to be complete: its range is out of the caches and its walks are discarded. -/
def State.invAsked (s : State) (x : Inv) : State :=
  let t := (s.performedFor x.ctx).dropRange x
  { t with invs := t.invs ++ [x] }

theorem warp_invAsked (s : State) (x : Inv) (c k : Nat) :
    (s.invAsked x).warp c k = (s.warp c k).map fun w => if s.ctxOf w = x.ctx then { w with late := [] } else w := by
  simp only [State.warp, State.invAsked, State.dropRange, State.performedFor, find_mapVals]

theorem ctxs_invAsked (s : State) (x : Inv) : (s.invAsked x).ctxs = s.ctxs := by
  simp only [State.invAsked, State.dropRange, State.performedFor]

theorem sameBytes_performedFor (s : State) (ctx : Nat) : s.sameBytes (s.performedFor ctx) := sameBytes_of rfl rfl rfl fun _ => rfl

theorem sameBytes_dropRange (s : State) (x : Inv) : s.sameBytes (s.dropRange x) :=
  sameBytes_of rfl rfl rfl fun e => by rw [core_dropRange]

theorem sameBytes_invAsked (s : State) (x : Inv) : s.sameBytes (s.invAsked x) :=
  sameBytes_trans (sameBytes_trans (sameBytes_performedFor s x.ctx) (sameBytes_dropRange _ x)) (sameBytes_of rfl rfl rfl fun _ => rfl)

/-- No cached translation that meets the range is left. -/
theorem caches_invAsked {s : State} {x : Inv} {e : TlbEntry}
    (h : e ∈ (s.invAsked x).tlbDie.1 ∨ e ∈ (s.invAsked x).tlbDie.2 ∨ ∃ k ∈ (s.invAsked x).cores, e ∈ k.2.tlb) : x.meets e.ctx e.page e.span = false := by
  have kept : ∀ l : List TlbEntry, e ∈ l.filter (fun t => !x.meets t.ctx t.page t.span) → x.meets e.ctx e.page e.span = false := fun l h => by
    simpa using (List.mem_filter.1 h).2
  rcases h with h | h | ⟨k, hk, h⟩
  · exact kept _ h
  · exact kept _ h
  · obtain ⟨j, -, rfl⟩ := List.mem_map.1 hk
    exact kept _ h

/-- Every walk in flight that meets the range is discarded. -/
theorem misses_invAsked {s : State} {x : Inv} {m : Miss} (h : m ∈ (s.invAsked x).misses) (met : x.meets m.ctx m.page 1 = true) : m.discarded = true := by
  obtain ⟨m', -, rfl⟩ := List.mem_map.1 h
  split
  · rfl
  · next no => rw [if_neg no] at met; exact absurd met no

/-- What holds a request: walks discarded, requests at peers, and queue entries of cores' blocks. -/
theorem invHeld_congr {s t : State} (x : Inv) (misses : t.misses = s.misses) (peerReqs : t.peerReqs = s.peerReqs) (cores : t.cores = s.cores)
    (blocks : t.blocks = s.blocks) : t.invHeld x = s.invHeld x := by
  simp only [State.invHeld, State.block, misses, peerReqs, cores, blocks]

theorem invHeld_invAsked (s : State) (x : Inv) : (s.invAsked x).invHeld x = (s.dropRange x).invHeld x := invHeld_congr x rfl rfl rfl rfl

theorem invs_invAsked_erase {s : State} {x : Inv} (new : x ∉ s.invs) : (s.invAsked x).invs.erase x = s.invs := by
  show (s.invs ++ [x]).erase x = s.invs
  simp [List.erase_append_right _ new]

/-- The end of a request changes contexts and the requests outstanding alone. -/
theorem endInv_rest (s : State) (x : Inv) : ∃ ctxs invs, s.endInv x = { s with ctxs := ctxs, invs := invs } := by
  unfold State.endInv
  split
  · exact ⟨s.ctxs, s.invs, rfl⟩
  · split
    · exact ⟨_, _, rfl⟩
    · exact ⟨s.ctxs, _, rfl⟩

@[simp] theorem endInv_tlbDie (s : State) (x : Inv) : (s.endInv x).tlbDie = s.tlbDie := by obtain ⟨_, _, h⟩ := endInv_rest s x; rw [h]
@[simp] theorem endInv_cores (s : State) (x : Inv) : (s.endInv x).cores = s.cores := by obtain ⟨_, _, h⟩ := endInv_rest s x; rw [h]
@[simp] theorem endInv_misses (s : State) (x : Inv) : (s.endInv x).misses = s.misses := by obtain ⟨_, _, h⟩ := endInv_rest s x; rw [h]
@[simp] theorem warp_endInv (s : State) (x : Inv) (c k : Nat) : (s.endInv x).warp c k = s.warp c k := by obtain ⟨_, _, h⟩ := endInv_rest s x; rw [h]; rfl

theorem sameBytes_endInv (s : State) (x : Inv) : s.sameBytes (s.endInv x) := by
  obtain ⟨_, _, h⟩ := endInv_rest s x
  rw [h]; exact sameBytes_of rfl rfl rfl fun _ => rfl

theorem endInv_held {s : State} {x : Inv} (h : s.invHeld x = true) : s.endInv x = s := by simp [State.endInv, h]

/-- A request that nothing holds is complete, with its number in XLT.DONE (R35). -/
theorem endInv_done {s : State} {x : Inv} {c : Ctx} (h : s.invHeld x = false) (ctx : s.ctx x.ctx = some c) :
    (s.endInv x).ctx x.ctx = some { c with xltDone := x.seq } ∧ (s.endInv x).invs = s.invs.erase x := by
  simp only [State.endInv, h, ctx, Bool.false_eq_true, if_false]
  exact ⟨Assoc.find_put_same _ _ _, trivial⟩

theorem exec_xltInv_asked {s : State} (run : s.clocked = true) (asks : s.arg.flag = false) :
    exec .xltInv s = .next ((s.invAsked ⟨s.arg.ctx, s.arg.addr, s.arg.len, s.arg.seq⟩).endInv ⟨s.arg.ctx, s.arg.addr, s.arg.len, s.arg.seq⟩) := by
  rw [exec_xltInv, execXltInv, asEvent_clocked run]; simp only [asks, Bool.false_eq_true, if_false]; rfl

theorem exec_xltInv_completes {s : State} {x : Inv} (run : s.clocked = true) (ends : s.arg.flag = true)
    (oldest : (s.invs.find? fun y => y.ctx == s.arg.ctx) = some x) : exec .xltInv s = .next (s.endInv x) := by
  rw [exec_xltInv, execXltInv, asEvent_clocked run]; simp [ends, oldest]

end Sys2Proof.Machine
end

section
/-! Replays (R40). -/
namespace Sys2Proof.Machine
open Sys2Proof

theorem mem_insertBy {α : Type} {le : α → α → Bool} {x y : α} : ∀ {l : List α}, y ∈ insertBy le x l → y = x ∨ y ∈ l
  | [], h => by simpa [insertBy] using h
  | z :: t, h => by
    unfold insertBy at h
    split at h
    · simpa using h
    · rcases List.mem_cons.1 h with rfl | h
      · simp
      · rcases mem_insertBy h with h | h <;> simp [h]

theorem mem_sortBy {α : Type} {le : α → α → Bool} {y : α} : ∀ {l : List α}, y ∈ sortBy le l → y ∈ l
  | [], h => h
  | x :: t, h => by
    rcases mem_insertBy h with rfl | h
    · exact List.mem_cons_self
    · exact List.mem_cons_of_mem x (mem_sortBy h)

theorem ctx_of_faulted {s : State} {ctx die : Nat} {f : PFault} (h : f ∈ s.faulted ctx die) : f.ctx = ctx := by
  have := (List.mem_filter.1 (mem_sortBy h)).2
  simp_all

/-- Where no page of a context is outstanding on a die, a replay releases none there. -/
theorem faulted_of_none {s : State} {ctx die : Nat} (two : die < 2) (h : ∀ f ∈ s.pfaults, f.ctx = ctx → 2 ≤ f.die ∨ f.waiters = []) : s.faulted ctx die = [] := by
  refine List.eq_nil_iff_forall_not_mem.2 fun f hf => ?_
  obtain ⟨mem, test⟩ := List.mem_filter.1 (mem_sortBy hf)
  simp only [Bool.and_eq_true, beq_iff_eq, Bool.not_eq_true', List.isEmpty_eq_false_iff] at test
  rcases h f mem test.1.1 with h | h
  · omega
  · exact test.2 h

/-! A replay leaves the faults of other contexts alone. -/

theorem dropEntry_pfaults (s : State) (g : Agt) (page : Nat) : (s.dropEntry g page).pfaults = s.pfaults := by
  unfold State.dropEntry; dsimp only; split <;> rfl

theorem sparesFaults_raiseFaults (s : State) (g : Agt) (fs : List XFault) : s.SparesFaults g.ctx (s.raiseFaults g fs) :=
  foldl_relates (fun _ => sparesFaults_of_same rfl) .trans fs s fun f _ t =>
    (sparesFaults_of_same (dropEntry_pfaults t g f.page)).trans (raiseFault_spec (t.dropEntry g f.page) g f).2

theorem noteMiss_pfaults (s : State) (g : Agt) (acc : Acc) (page addr : Nat) : (s.noteMiss g acc page addr).pfaults = s.pfaults := by
  unfold State.noteMiss; dsimp only; split <;> rfl

theorem wakeFor_pfaults (s : State) (w : Who) : (s.wakeFor w).pfaults = s.pfaults := by
  obtain ⟨⟨ws, cs, h⟩, -, -⟩ := onlyWoke_wakeFor s w
  rw [h]

theorem sparesFaults_retranslate (s : State) (ctx die : Nat) (x : Waiter) : s.SparesFaults ctx (s.retranslate ctx die x) := by
  unfold State.retranslate
  dsimp only
  split
  · exact sparesFaults_of_same (noteMiss_pfaults s _ _ _ _)
  · exact sparesFaults_of_same (wakeFor_pfaults s _)
  · exact sparesFaults_raiseFaults s (x.agt ctx die) _

theorem sparesFaults_release (s : State) (f : PFault) : s.SparesFaults f.ctx (s.release f) := by
  refine State.SparesFaults.trans (fun z hz other => ?_) (foldl_relates (fun _ => sparesFaults_of_same rfl) .trans f.waiters _ fun x _ t => sparesFaults_retranslate t f.ctx f.die x)
  exact List.mem_map.2 ⟨z, hz, if_neg fun e => other (by rw [e])⟩

/-! One page with one request. -/

/-- The only outstanding page, of the context of the replay, is the only one released. -/
theorem faulted_only {s : State} {f : PFault} (only : s.pfaults = [f]) (two : f.die < 2) (waits : f.waiters ≠ []) :
    s.faulted f.ctx 0 ++ s.faulted f.ctx 1 = [f] := by
  have die : f.die = 0 ∨ f.die = 1 := by omega
  rcases die with h | h <;> simp [State.faulted, only, h, waits, sortBy, insertBy]

theorem exec_fqReplay_clocked {s : State} (run : s.clocked = true) :
    exec .fqReplay s = .next ((s.faulted s.arg.ctx 0 ++ s.faulted s.arg.ctx 1).foldl State.release s) := by
  rw [exec_fqReplay, execFqReplay, asEvent_clocked run]

/-- A page as its release leaves it: with no request, and one more replay counted. -/
def PFault.released (f : PFault) : PFault := { f with waiters := [], replays := f.replays + 1 }

theorem release_only {s : State} {f : PFault} {x : Waiter} (only : s.pfaults = [f]) (failed : s.xlfail = []) (waiter : f.waiters = [x]) :
    s.release f = State.retranslate { s with pfaults := [f.released] } f.ctx f.die x := by
  simp [State.release, only, failed, waiter, PFault.released]

/-- A request whose page translates, or meets only a fatal fault, goes on. -/
theorem retranslate_goes_on {s : State} {ctx die : Nat} {x : Waiter} (missed : (s.trPage (x.agt ctx die) x.acc (x.addr / 65536, x.addr, 1)).missed = [])
    (fatal : ∀ e ∈ (s.trPage (x.agt ctx die) x.acc (x.addr / 65536, x.addr, 1)).faults, s.replayable ctx e.cause = false) :
    s.retranslate ctx die x = s.wakeFor x.who := by
  have none_again : ((s.trPage (x.agt ctx die) x.acc (x.addr / 65536, x.addr, 1)).faults.filter fun f => s.replayable ctx f.cause) = [] :=
    List.filter_eq_nil_iff.2 fun e he => by simp [fatal e he]
  simp [State.retranslate, missed, none_again]

theorem takeWalks_cons {d done n : Nat} {m : Miss} (t : List Miss) (die : m.die = d) (due : m.due = none) :
    takeWalks d done (n + 1) (m :: t) = { m with due := some done } :: takeWalks d done n t := by
  simp [takeWalks, die, due]

/-- Where no walker of a die is busy, all of them take misses. -/
theorem startWalks_idle {s : State} {d : Nat} (idle : ∀ x ∈ s.misses, x.die = d → x.due = none) :
    s.startWalks d = { s with free := s.free + 1, misses := takeWalks d (s.clock + s.latency) walkersPerDie s.misses } := by
  have free : (s.misses.filter fun x => x.die = d ∧ x.due.isSome) = [] :=
    List.filter_eq_nil_iff.2 fun x hx => by by_cases h : x.die = d <;> simp [h, idle x hx]
  rw [State.startWalks, free]; rfl

/-- The first of the misses of a die with no busy walker is taken. -/
theorem startWalks_first {s : State} {d : Nat} {m : Miss} {rest : List Miss} (misses : s.misses = m :: rest) (die : m.die = d) (due : m.due = none)
    (idle : ∀ x ∈ rest, x.die = d → x.due = none) : (s.startWalks d).misses =
      { m with due := some (s.clock + s.latency) } :: takeWalks d (s.clock + s.latency) (walkersPerDie - 1) rest := by
  rw [startWalks_idle (by simpa [misses, due] using idle), misses]
  exact takeWalks_cons rest die due

theorem startWalks_only {s : State} {m : Miss} (only : s.misses = [m]) (due : m.due = none) :
    s.startWalks m.die = { s with free := s.free + 1, misses := [{ m with due := some (s.clock + s.latency) }] } := by
  rw [startWalks_idle (by simp [only, due]), only]
  simp [walkersPerDie, takeWalks, due]

/-- The first miss, with no other outstanding: a walker takes it at once. -/
theorem noteMiss_first {s : State} (first : s.misses = []) (g : Agt) (acc : Acc) (page addr : Nat) : s.noteMiss g acc page addr = { s with
    free := s.free + 1
    misses := [{ die := g.die, ctx := g.ctx, page := page, due := some (s.clock + s.latency), waiters := [⟨g.who, g.path, addr, acc⟩] }] } := by
  simp only [State.noteMiss, first, List.any_nil, Bool.false_eq_true, if_false, List.nil_append]
  exact startWalks_only (m := ⟨g.die, g.ctx, page, none, false, false, _⟩) rfl rfl

/-- A request whose page misses, with no other miss outstanding, waits for a new walk, which a walker takes at once. -/
theorem retranslate_misses {s : State} {ctx die : Nat} {x : Waiter} (missed : (s.trPage (x.agt ctx die) x.acc (x.addr / 65536, x.addr, 1)).missed ≠ [])
    (first : s.misses = []) : s.retranslate ctx die x = { s with
      free := s.free + 1
      misses := [{ die := die, ctx := ctx, page := x.addr / 65536, due := some (s.clock + s.latency), replay := true, waiters := [x] }] } := by
  obtain ⟨p, ps, h⟩ := List.exists_cons_of_ne_nil missed
  simp only [State.retranslate, h, noteMiss_first first]
  simp [Miss.takes, Waiter.agt]

end Sys2Proof.Machine
end

section
/-! The steps of translation together (R32-R36, R40). -/
namespace Sys2Proof.Machine
open Sys2Proof

/-- Settles O57: the end of a walk by its outcome, an invalidation by whether something holds it, a replay by what its waiters meet. -/
theorem translationSteps : Obligations.TranslationSteps := by
  refine ⟨fun s m run found => ⟨?_, ?_⟩, ?_, ?_, ?_, ?_, ?_, ?_⟩
  · intro c size live replay walk again
    exact ⟨_, exec_walkComplete_found run found, endWalk_again live replay walk again⟩
  · intro once
    have spec := endWalk_spec s once
    exact ⟨_, exec_walkComplete_found run found, spec.misses, sameBytes_trans (sameBytes_of rfl rfl rfl fun _ => rfl) spec.bytes, spec.found, spec.failed, spec.dropped,
      fun c k w ps lone warp wait free => endWalk_wakes once lone warp wait free⟩
  · intro s d m rest misses die due idle
    exact ⟨_, startWalks_first misses die due idle ▸ List.mem_cons_self, rfl⟩
  · exact fun s run found => exec_walkComplete_none run found
  · intro s run asks x
    refine ⟨_, exec_xltInv_asked run asks, sameBytes_trans (sameBytes_invAsked s x) (sameBytes_endInv _ x), fun e h => ?_, fun m h => ?_, fun c k w h => ?_,
      fun c ctx free new => ?_, fun held => ?_⟩
    · rw [endInv_tlbDie, endInv_cores] at h; exact caches_invAsked h
    · rw [endInv_misses] at h; exact misses_invAsked h
    · rw [warp_endInv, warp_invAsked, h]; rfl
    · obtain ⟨done, left⟩ := endInv_done ((invHeld_invAsked s x).trans free) (by rw [State.ctx, ctxs_invAsked]; exact ctx)
      exact ⟨done, left.trans (invs_invAsked_erase new)⟩
    · rw [endInv_held ((invHeld_invAsked s x).trans held)]; exact ⟨rfl, ctxs_invAsked s x⟩
  · intro s x c run ends oldest ctx
    refine ⟨fun held => ?_, fun free => ⟨_, exec_xltInv_completes run ends oldest, endInv_done free ctx⟩⟩
    rw [exec_xltInv_completes run ends oldest, endInv_held held]
  · intro s run
    refine ⟨_, exec_fqReplay_clocked run, ?_, fun none => ?_⟩
    · refine foldl_relates (fun _ => sparesFaults_of_same rfl) .trans _ s fun f hf t => ?_
      have ctx : f.ctx = s.arg.ctx := by rcases List.mem_append.1 hf with h | h <;> exact ctx_of_faulted h
      exact ctx ▸ sparesFaults_release t f
    · rw [faulted_of_none (by decide) none, faulted_of_none (by decide) none]; rfl
  · intro s f x c k w ps run misses only failed ctx two waiter who warp wait g page t
    have released : exec .fqReplay s = .next (State.retranslate { s with pfaults := [f.released] } f.ctx f.die x) := by
      rw [exec_fqReplay_clocked run, ← ctx, faulted_only only two (by simp [waiter])]
      exact congrArg _ (release_only only failed waiter)
    refine ⟨fun hit fatal => ?_, fun miss => ?_⟩
    · have free : State.whoWaits { s with pfaults := [f.released] } (.warp c k) = false := by simp [State.whoWaits, misses, PFault.released]
      refine ⟨_, released.trans (congrArg _ (retranslate_goes_on hit fatal)), ?_⟩
      rw [who, wakeFor_warp free warp wait]
      exact ⟨sameBytes_of rfl rfl rfl fun _ => rfl, warp_setWarp_same _ _ _ _, rfl⟩
    · refine ⟨_, released.trans (congrArg _ (retranslate_misses miss misses)), sameBytes_of rfl rfl rfl fun _ => rfl, warp, rfl, ?_⟩
      rw [← who]; rfl

end Sys2Proof.Machine
end
